-- ==== Sys2Proof/Word.lean ====
section
/-! DEFINITION. The word types of the two links (11_packet_and_record_layouts.md) and saturating counting. -/

namespace Sys2Proof

/-- One byte of a link run or of the DDR memory. -/
abbrev Byte := BitVec 8

/-- A 16-bit value: a sample, a tag, a command code, a sequence number, a check value. -/
abbrev Half := BitVec 16

/-- A 32-bit word of a packet or record (00_scope.md 5.7). -/
abbrev Word := BitVec 32

/-- The highest value of a 32-bit counter (FFFFFFFFh). -/
def counterMax : Nat := 4294967295

/-- A 32-bit counter raised by `n`, saturating at FFFFFFFFh. -/
def satAdd (c n : Nat) : Nat := min (c + n) counterMax

end Sys2Proof
end

