-- ==== Sys2Proof/Syntax.lean ====
section
/-! DEFINITION. The commands: one constructor per row of spec/opcode_table.json, with the row's operands, and the argument words of
each workstation command in the order of Table 12-9 (R167). -/

namespace Sys2Proof

/-- FORMAT_SET 01h: nineteen argument words (Table 12-9). -/
structure FormatSetArgs where
  number : Word
  polarity : Word
  nominalPitch : Word
  k : Word
  tol : Word
  spliceThreshold : Word
  coastLimit : Word
  referenceEdge : Word
  damageCap : Word
  v0 : Word
  u0 : Word
  wOut : Word
  hOut : Word
  irMode : Word
  irThreshold : Word
  clearLevel : Word
  motionThreshold : Word
  spanLimit : Word
  scratchPercentage : Word
  deriving DecidableEq, Repr

/-- MEMORY_PLAN 02h: the five fields of Table 5-1. -/
structure MemoryPlanArgs where
  wIn : Word
  r : Word
  ringBase : Word
  baseA : Word
  baseB : Word
  deriving DecidableEq, Repr

/-- PACE_TABLE_SET 03h: a word for each of levels 1 to 7, then the two watermarks. -/
structure PaceTableArgs where
  level1 : Word
  level2 : Word
  level3 : Word
  level4 : Word
  level5 : Word
  level6 : Word
  level7 : Word
  high : Word
  low : Word
  deriving DecidableEq, Repr

/-- MATRIX_LOAD 11h: the set, nine coefficients in row order, three offsets. -/
structure MatrixLoadArgs where
  set : Word
  rr : Word
  rg : Word
  rb : Word
  gr : Word
  gg : Word
  gb : Word
  br : Word
  bg : Word
  bb : Word
  offR : Word
  offG : Word
  offB : Word
  deriving DecidableEq, Repr

/-- SHELVING_ROW_SET 20h. -/
structure ShelvingRowArgs where
  row : Word
  presence : Word
  metric : Word
  comparison : Word
  threshold : Word
  cls : Word
  deriving DecidableEq, Repr

/-- CLASS_SET 21h. -/
structure ClassSetArgs where
  cls : Word
  presence : Word
  zone : Word
  interval : Word
  flags : Word
  deriving DecidableEq, Repr

/-- REEL_OPEN 22h. `accession` is the 24 bytes of its six words, in order. -/
structure ReelOpenArgs where
  accessionLength : Word
  accession : List Byte
  reelNumber : Word
  format : Word
  initialSet : Word
  presence : Word
  shrinkHint : Word
  previousClass : Word
  paceLevel : Word
  deriving DecidableEq, Repr

/-- One queued command with its argument words, as the Command Interpreter reads it from a packet (R156, R167). `wrongLength` is a known
code whose payload length does not match its arguments; `unknown` is a code the part does not know. -/
inductive Command where
  | formatSet (a : FormatSetArgs)
  | memoryPlan (a : MemoryPlanArgs)
  | paceTableSet (a : PaceTableArgs)
  | paceRequest (level : Word)
  | timingSet (spinUp silence stall : Word)
  | framingNudge (d : Word)
  | lutLoad (set lut first count : Word) (data : List Half)
  | matrixLoad (a : MatrixLoadArgs)
  | setClear (set : Word)
  | setCommit (set : Word)
  | cueAdd (kind set d trigger : Word)
  | cueClear (selector : Word)
  | scratchLoad (items : List Word)
  | scratchClear (selector : Word)
  | shelvingRowSet (a : ShelvingRowArgs)
  | classSet (a : ClassSetArgs)
  | reelOpen (a : ReelOpenArgs)
  | reelClose
  | noticeEnable (cls value : Word)
  | noticeAck (cls : Word)
  | statusQuery (selector : Word)
  | wrongLength
  | unknown
  deriving DecidableEq, Repr

/-- The steps of the part: one constructor per row of spec/opcode_table.json, in the table's order. `run` is the delimited run of bytes
that the link layer delivers (R166); `tag` is the tag of the control packet. -/
inductive Instr where
  | powerOnReset (straps : BitVec 2)
  | memoryInitComplete
  | linePacket (run : List Byte)
  | controlPacket (run : List Byte)
  | unknownKindPacket (run : List Byte)
  | creditGrant (run : List Byte)
  | trunAssertion
  | trunDrop
  | spinUpExpiry
  | silenceTimerExpiry
  | stallTimerExpiry
  | ringCapEvaluation
  | dividerUnderflow
  | arbiterGrant
  | intakeWriteComplete
  | conformanceReadComplete
  | referenceReadComplete
  | referenceWriteComplete
  | repairTakeLine
  | gradingTakeLine
  | placePacket
  | deliveryChoice
  | transmissionComplete
  | classification
  | formatSet (tag : Half) (a : FormatSetArgs)
  | memoryPlan (tag : Half) (a : MemoryPlanArgs)
  | paceTableSet (tag : Half) (a : PaceTableArgs)
  | paceRequest (tag : Half) (level : Word)
  | timingSet (tag : Half) (spinUp silence stall : Word)
  | framingNudge (tag : Half) (d : Word)
  | lutLoad (tag : Half) (set lut first count : Word) (data : List Half)
  | matrixLoad (tag : Half) (a : MatrixLoadArgs)
  | setClear (tag : Half) (set : Word)
  | setCommit (tag : Half) (set : Word)
  | cueAdd (tag : Half) (kind set d trigger : Word)
  | cueClear (tag : Half) (selector : Word)
  | scratchLoad (tag : Half) (items : List Word)
  | scratchClear (tag : Half) (selector : Word)
  | shelvingRowSet (tag : Half) (a : ShelvingRowArgs)
  | classSet (tag : Half) (a : ClassSetArgs)
  | reelOpen (tag : Half) (a : ReelOpenArgs)
  | reelClose (tag : Half)
  | reelAbort (tag : Half)
  | softReset (tag : Half)
  | statusQuery (tag : Half) (selector : Word)
  | noticeEnable (tag : Half) (cls value : Word)
  | noticeAck (tag : Half) (cls : Word)
  | badCommand (tag : Half) (code : Half)
  | timeBaseTick
  deriving DecidableEq, Repr

end Sys2Proof
end

