-- ==== Sys2Proof/Decode.lean ====
section
/-! DEFINITION. Reading a command from the bytes of a control packet (Table 12-5, Table 12-9, R156, R167), the bytes of a command, and
the table's words. No row of spec/opcode_table.json gives bits, so a table word spells no command (LE 2). -/

namespace Sys2Proof

/-- The command that a word spells by the table's bits: no row gives bits. -/
def decodeTableWord (_nbits _w : Nat) : Option Instr := none

/-- The byte at place `i` of a run, 0 beyond its end. -/
def byteAt (bs : List Byte) (i : Nat) : Byte := bs.getD i 0#8

/-- The 16-bit value whose less significant byte stands at place `i`. -/
def halfAt (bs : List Byte) (i : Nat) : Half := byteAt bs (i + 1) ++ byteAt bs i

/-- Word `i` of a run of little-endian words (00_scope.md 5.7, section 12). -/
def wordAt (bs : List Byte) (i : Nat) : Word := halfAt bs (4 * i + 2) ++ halfAt bs (4 * i)

/-- The two bytes of a 16-bit value, the less significant first. -/
def halfBytes (h : Half) : List Byte := [h.extractLsb' 0 8, h.extractLsb' 8 8]

/-- The four bytes of a word, least significant first. -/
def wordBytes (w : Word) : List Byte := [w.extractLsb' 0 8, w.extractLsb' 8 8, w.extractLsb' 16 8, w.extractLsb' 24 8]

/-- The first `n` 16-bit values of a run. -/
def halvesOf : Nat → List Byte → List Half
  | 0, _ => []
  | n + 1, bs => halfAt bs 0 :: halvesOf n (bs.drop 2)

/-- The first `n` words of a run. -/
def wordsOf : Nat → List Byte → List Word
  | 0, _ => []
  | n + 1, bs => wordAt bs 0 :: wordsOf n (bs.drop 4)

/-- The codes of the two immediate commands (Table 12-9). -/
def reelAbortCode : Half := 0x24#16
/-- The code of SOFT_RESET (Table 12-9). -/
def softResetCode : Half := 0x3F#16

/-- R150: REEL_ABORT and SOFT_RESET are immediate. -/
def isImmediate (code : Half) : Bool := code == reelAbortCode || code == softResetCode

/-- A command of fixed arguments: read when the argument bytes number `n`, a wrong length otherwise (R156). -/
def ofLength (n : Nat) (args : List Byte) (c : Command) : Command := if args.length = n then c else .wrongLength

/-- The arguments of FORMAT_SET. -/
def formatSetArgsAt (a : List Byte) : FormatSetArgs :=
  { number := wordAt a 0, polarity := wordAt a 1, nominalPitch := wordAt a 2, k := wordAt a 3, tol := wordAt a 4,
    spliceThreshold := wordAt a 5, coastLimit := wordAt a 6, referenceEdge := wordAt a 7, damageCap := wordAt a 8,
    v0 := wordAt a 9, u0 := wordAt a 10, wOut := wordAt a 11, hOut := wordAt a 12, irMode := wordAt a 13,
    irThreshold := wordAt a 14, clearLevel := wordAt a 15, motionThreshold := wordAt a 16, spanLimit := wordAt a 17,
    scratchPercentage := wordAt a 18 }

/-- The arguments of REEL_OPEN: accession length, 24 accession bytes, then seven words. -/
def reelOpenArgsAt (a : List Byte) : ReelOpenArgs :=
  { accessionLength := wordAt a 0, accession := (a.drop 4).take 24, reelNumber := wordAt a 7, format := wordAt a 8,
    initialSet := wordAt a 9, presence := wordAt a 10, shrinkHint := wordAt a 11, previousClass := wordAt a 12,
    paceLevel := wordAt a 13 }

/-- LUT_LOAD: the number of data entries is read from the length, which must exceed 16 by a positive even number (R167). -/
def lutLoadAt (a : List Byte) : Command :=
  if 16 < a.length ∧ a.length % 2 = 0 then
    .lutLoad (wordAt a 0) (wordAt a 1) (wordAt a 2) (wordAt a 3) (halvesOf ((a.length - 16) / 2) (a.drop 16))
  else .wrongLength

/-- SCRATCH_LOAD: the length must agree with the number the command states (R167). -/
def scratchLoadAt (a : List Byte) : Command :=
  if 4 ≤ a.length ∧ a.length = 4 + 4 * (wordAt a 0).toNat then .scratchLoad (wordsOf (wordAt a 0).toNat (a.drop 4))
  else .wrongLength

/-- The queued command of a code and its argument bytes (Table 12-9). The two immediate codes never come here (R150). -/
def commandOf (code : Half) (a : List Byte) : Command :=
  match code.toNat with
  | 0x01 => ofLength 76 a (.formatSet (formatSetArgsAt a))
  | 0x02 => ofLength 20 a (.memoryPlan
      { wIn := wordAt a 0, r := wordAt a 1, ringBase := wordAt a 2, baseA := wordAt a 3, baseB := wordAt a 4 })
  | 0x03 => ofLength 36 a (.paceTableSet
      { level1 := wordAt a 0, level2 := wordAt a 1, level3 := wordAt a 2, level4 := wordAt a 3, level5 := wordAt a 4,
        level6 := wordAt a 5, level7 := wordAt a 6, high := wordAt a 7, low := wordAt a 8 })
  | 0x04 => ofLength 4 a (.paceRequest (wordAt a 0))
  | 0x05 => ofLength 12 a (.timingSet (wordAt a 0) (wordAt a 1) (wordAt a 2))
  | 0x06 => ofLength 4 a (.framingNudge (wordAt a 0))
  | 0x10 => lutLoadAt a
  | 0x11 => ofLength 52 a (.matrixLoad
      { set := wordAt a 0, rr := wordAt a 1, rg := wordAt a 2, rb := wordAt a 3, gr := wordAt a 4, gg := wordAt a 5,
        gb := wordAt a 6, br := wordAt a 7, bg := wordAt a 8, bb := wordAt a 9, offR := wordAt a 10, offG := wordAt a 11,
        offB := wordAt a 12 })
  | 0x12 => ofLength 4 a (.setClear (wordAt a 0))
  | 0x13 => ofLength 4 a (.setCommit (wordAt a 0))
  | 0x14 => ofLength 16 a (.cueAdd (wordAt a 0) (wordAt a 1) (wordAt a 2) (wordAt a 3))
  | 0x15 => ofLength 4 a (.cueClear (wordAt a 0))
  | 0x18 => scratchLoadAt a
  | 0x19 => ofLength 4 a (.scratchClear (wordAt a 0))
  | 0x20 => ofLength 24 a (.shelvingRowSet
      { row := wordAt a 0, presence := wordAt a 1, metric := wordAt a 2, comparison := wordAt a 3, threshold := wordAt a 4,
        cls := wordAt a 5 })
  | 0x21 => ofLength 20 a (.classSet
      { cls := wordAt a 0, presence := wordAt a 1, zone := wordAt a 2, interval := wordAt a 3, flags := wordAt a 4 })
  | 0x22 => ofLength 56 a (.reelOpen (reelOpenArgsAt a))
  | 0x23 => ofLength 0 a .reelClose
  | 0x28 => ofLength 8 a (.noticeEnable (wordAt a 0) (wordAt a 1))
  | 0x29 => ofLength 4 a (.noticeAck (wordAt a 0))
  | 0x30 => ofLength 4 a (.statusQuery (wordAt a 0))
  | _ => .unknown

/-- The bytes of a list of words in transmission order. -/
def bytesOfWords (ws : List Word) : List Byte := ws.flatMap wordBytes

/-- The command code of Table 12-9; the two forms that stand for no code of their own take 0. -/
def codeOf : Command → Half
  | .formatSet _ => 0x01#16
  | .memoryPlan _ => 0x02#16
  | .paceTableSet _ => 0x03#16
  | .paceRequest _ => 0x04#16
  | .timingSet _ _ _ => 0x05#16
  | .framingNudge _ => 0x06#16
  | .lutLoad _ _ _ _ _ => 0x10#16
  | .matrixLoad _ => 0x11#16
  | .setClear _ => 0x12#16
  | .setCommit _ => 0x13#16
  | .cueAdd _ _ _ _ => 0x14#16
  | .cueClear _ => 0x15#16
  | .scratchLoad _ => 0x18#16
  | .scratchClear _ => 0x19#16
  | .shelvingRowSet _ => 0x20#16
  | .classSet _ => 0x21#16
  | .reelOpen _ => 0x22#16
  | .reelClose => 0x23#16
  | .noticeEnable _ _ => 0x28#16
  | .noticeAck _ => 0x29#16
  | .statusQuery _ => 0x30#16
  | .wrongLength => 0x00#16
  | .unknown => 0x00#16

/-- The argument bytes of a command in the order of Table 12-9. -/
def argBytesOf : Command → List Byte
  | .formatSet a => bytesOfWords
      [a.number, a.polarity, a.nominalPitch, a.k, a.tol, a.spliceThreshold, a.coastLimit, a.referenceEdge, a.damageCap, a.v0,
        a.u0, a.wOut, a.hOut, a.irMode, a.irThreshold, a.clearLevel, a.motionThreshold, a.spanLimit, a.scratchPercentage]
  | .memoryPlan a => bytesOfWords [a.wIn, a.r, a.ringBase, a.baseA, a.baseB]
  | .paceTableSet a => bytesOfWords
      [a.level1, a.level2, a.level3, a.level4, a.level5, a.level6, a.level7, a.high, a.low]
  | .paceRequest l => wordBytes l
  | .timingSet x y z => bytesOfWords [x, y, z]
  | .framingNudge d => wordBytes d
  | .lutLoad s l f n data => bytesOfWords [s, l, f, n] ++ data.flatMap halfBytes
  | .matrixLoad a => bytesOfWords
      [a.set, a.rr, a.rg, a.rb, a.gr, a.gg, a.gb, a.br, a.bg, a.bb, a.offR, a.offG, a.offB]
  | .setClear s => wordBytes s
  | .setCommit s => wordBytes s
  | .cueAdd k s d t => bytesOfWords [k, s, d, t]
  | .cueClear s => wordBytes s
  | .scratchLoad items => wordBytes (BitVec.ofNat 32 items.length) ++ bytesOfWords items
  | .scratchClear s => wordBytes s
  | .shelvingRowSet a => bytesOfWords [a.row, a.presence, a.metric, a.comparison, a.threshold, a.cls]
  | .classSet a => bytesOfWords [a.cls, a.presence, a.zone, a.interval, a.flags]
  | .reelOpen a => wordBytes a.accessionLength ++ a.accession ++ bytesOfWords
      [a.reelNumber, a.format, a.initialSet, a.presence, a.shrinkHint, a.previousClass, a.paceLevel]
  | .reelClose => []
  | .noticeEnable c v => bytesOfWords [c, v]
  | .noticeAck c => wordBytes c
  | .statusQuery s => wordBytes s
  | .wrongLength => []
  | .unknown => []

/-- The payload of a control packet: code and tag, then the argument bytes (Table 12-5). -/
def controlPayload (code tag : Half) (args : List Byte) : List Byte := halfBytes code ++ halfBytes tag ++ args

end Sys2Proof
end

