-- ==== Sys2Proof/Config.lean ====
section
/-! DEFINITION. What an implementation fixes: the free values, each an opaque constant with no body, and the names of the
reported states whose codes the manual does not give. -/

namespace Sys2Proof

/-- The states and marks that a reply or a status record reports and for which Table 12-10 gives no code (LE 7). -/
inductive ReportedState where
  | trackerIdle | trackerSearch | trackerLocked | trackerCoasting
  | memoryNotReady | memoryReady
  | countersStopped | countersRunning
  | spinUpStopped | spinUpRunning
  | conformanceIdle | conformanceGathering | conformanceOffering
  | repairWaiting | repairFetching | repairPassing
  | recordEmpty | recordFilling | recordValid | recordVoid
  | bufferA | bufferB
  | scratchCandidate | scratchTracked | scratchFading
  | setEmpty | setLoading | setReady | setInUse
  | gradingWaiting | gradingPlacing
  | reelNoReel | reelOpen | reelClosing | reelTicketWait
  | latchArmed | latchPending | latchRaised
  | reservedFree | reservedFilled
  deriving DecidableEq, Repr

/-- FREE VALUE (LE 7). The code word a reply or status record carries for a state: R167 writes each item in one word and Table 12-10
lists no code for these. -/
opaque Config.stateCode : ReportedState → Word

/-- FREE VALUE (LE 4). What a byte of DDR memory holds before the part writes it (R58, R70), by memory epoch and address. -/
opaque Config.undefinedByte : Nat → Nat → Byte

/-- FREE VALUE (LE 13). Whether a merge of two scratch entries (moving slot, other slot) that tie in state and first frame keeps the
moving entry's fields: R103 settles a tie of states by the earlier first frame and is silent when those are equal too. -/
opaque Config.mergeTieKeepsMover : Nat → Nat → Bool

end Sys2Proof
end

