-- ==== Sys2Proof/Machine/State.lean ====
section
/-! DEFINITION. The state of the Welgatra 4410 as plain data, block by block (Table 1-1), the reasons a step can stop, and the state
right after power-on reset. -/

namespace Sys2Proof.Machine

/-! ## Samples and formats -/

/-- One pixel of a sensor line or of a conformed line: four 16-bit samples (00_scope.md 5.4). -/
structure Pixel where
  r : Half
  g : Half
  b : Half
  ir : Half
  deriving DecidableEq, Repr

/-- One delivered pixel. -/
structure Rgb where
  r : Half
  g : Half
  b : Half
  deriving DecidableEq, Repr

/-- A pixel record of a reference buffer (R60). -/
structure RefRecord where
  rgb : Rgb
  unrepaired : Bool
  deriving DecidableEq, Repr

/-- Which transition of the filtered perforation signal is an active edge (Table 3-1). -/
inductive Polarity where
  | rising | falling
  deriving DecidableEq, Repr

/-- The tracking fields of a format (Table 3-1). -/
structure TrackingFields where
  polarity : Polarity
  nominalPitch : Nat
  k : Nat
  tol : Nat
  spliceThreshold : Nat
  coastLimit : Nat
  referenceEdge : Int
  damageCap : Nat
  deriving DecidableEq, Repr

/-- The conformance fields of a format (Table 6-1). -/
structure ConformanceFields where
  v0 : Nat
  u0 : Nat
  wOut : Nat
  hOut : Nat
  deriving DecidableEq, Repr

/-- The repair fields of a format (Table 7-1). -/
structure RepairFields where
  irOn : Bool
  irThreshold : Nat
  clearLevel : Nat
  motionThreshold : Nat
  spanLimit : Nat
  scratchPercentage : Nat
  deriving DecidableEq, Repr

/-- One stored format (R72). -/
structure Format where
  tracking : TrackingFields
  conformance : ConformanceFields
  repair : RepairFields
  deriving DecidableEq, Repr

/-! ## Intake Port (R2, R65) -/

inductive IntakeMode where
  | closed | taking | draining
  deriving DecidableEq, Repr

/-- The counters of Table 2-3. -/
structure IntakeCounters where
  linesTaken : Nat
  missingLines : Nat
  gaps : Nat
  duplicates : Nat
  sequenceBreaks : Nat
  lineCrcFailures : Nat
  controlCrcFailures : Nat
  malformedPackets : Nat
  paddedLines : Nat
  truncatedLines : Nat
  deriving DecidableEq, Repr

/-- A numbered line with its image: a staging entry (R65), a line of the source window (Table 6-2). -/
structure SourceLine where
  number : Nat
  pixels : List Pixel
  deriving DecidableEq, Repr

/-- Table 2-2 and the staging buffer (R65). `expected` is none when UNSYNCHRONIZED; `silence` is none when the timer is stopped. -/
structure Intake where
  mode : IntakeMode
  expected : Option Half
  writeLine : Nat
  endMark : Option Nat
  drainTarget : Option Nat
  silence : Option Nat
  counters : IntakeCounters
  staging : List SourceLine
  deriving DecidableEq, Repr

/-! ## Frame Tracker (R18 to R44) -/

inductive TrackerMode where
  | idle | search | locked | coasting
  deriving DecidableEq, Repr

/-- The filtered level (R19). -/
inductive Level where
  | low | high | undefined
  deriving DecidableEq, Repr

/-- A run of agreeing raw samples: its value, its length (1 or 2) and the position of its first sample (R19). -/
structure SampleRun where
  value : Bool
  length : Nat
  first : Nat
  deriving DecidableEq, Repr

/-- The perforation filter (R19). -/
structure Filter where
  level : Level
  run : Option SampleRun
  deriving DecidableEq, Repr

/-- An entry of the Edge Log: the edge position of a received line, none for a missing line (R18). -/
structure EdgeEntry where
  line : Nat
  edge : Option Int
  deriving DecidableEq, Repr

/-- A weave tally (R36). -/
structure Tally where
  firstLine : Nat
  covered : Nat
  received : Nat
  sum : Int
  deriving DecidableEq, Repr

/-- An active edge found in SEARCH (R27). -/
structure Candidate where
  position : Nat
  tally : Tally
  deriving DecidableEq, Repr

/-- The Perf Window: the perforation it was set up from, the predicted pitch and tol (R21). -/
structure PerfWindow where
  q : Nat
  pitch : Nat
  tol : Nat
  deriving DecidableEq, Repr

/-- The status with which a perforation resolved (R22, R23). -/
inductive PerfStatus where
  | accepted | synthesized
  deriving DecidableEq, Repr

/-- The pending top (R38). -/
structure PendingTop where
  position : Nat
  status : PerfStatus
  tally : Tally
  deriving DecidableEq, Repr

/-- The SUSPECT perforation: its position and whether its deviation was positive (R31). -/
structure Suspect where
  position : Nat
  positive : Bool
  deriving DecidableEq, Repr

/-- A frame's top: its position and the frame number it took (R29). -/
structure TopMark where
  position : Nat
  frame : Nat
  deriving DecidableEq, Repr

/-- The tracking counters of Table 3-5. -/
structure TrackerCounters where
  perforationsSeen : Nat
  synthesized : Nat
  spuriousEdges : Nat
  irregular : Nat
  splices : Nat
  pitchSteps : Nat
  lockLosses : Nat
  unframedLines : Nat
  framesLost : Nat
  deriving DecidableEq, Repr

/-- The Frame Tracker (Table 3-5). `fields` is the copy of R17; `lastCut` the top of the last frame cut (R29 step 3); `rephasing` marks
a re-lock whose new top has not resolved (R30); `spanIndex` counts the perforations resolved since the last top (R40);
`lastAccepted` is the status of the perforation resolved last (R33). -/
structure Tracker where
  mode : TrackerMode
  fields : Option TrackingFields
  filter : Filter
  edgeLog : List EdgeEntry
  candidates : List Candidate
  window : Option PerfWindow
  pendingTop : Option PendingTop
  suspect : Option Suspect
  spliceMark : Option Nat
  nudge : Option Nat
  countdown : Option Nat
  qTop : Option TopMark
  lastCut : Option TopMark
  rephasing : Bool
  spanIndex : Option Nat
  lastAccepted : Bool
  synthRun : Nat
  acceptRun : Nat
  history : List Nat
  shrink : Nat
  lastH : Int
  frameCounter : Nat
  counters : TrackerCounters
  deriving DecidableEq, Repr

/-! ## Frame Contexts (R39, R42) -/

/-- The tracker state at a cut (Table 3-6). -/
inductive CutState where
  | locked | coasting
  deriving DecidableEq, Repr

/-- The cue that fired at a frame start (R125). -/
inductive FiredCue where
  | frame (trigger : Nat)
  | splice
  deriving DecidableEq, Repr

/-- One Frame Context (Table 3-6), with the Conformance Engine's finished mark (R86) and the opened mark of R139. -/
structure FrameContext where
  frame : Nat
  reelSequence : Half
  top : Nat
  topStatus : PerfStatus
  synthesized : Nat
  splice : Bool
  appliedS : Nat
  shrinkClamp : Bool
  appliedH : Int
  weaveClamp : Bool
  cutState : CutState
  lastNeeded : Nat
  incomplete : Bool
  substituted : Nat
  temporal : Nat
  spatial : Nat
  scratchPixels : Nat
  unrepaired : Nat
  referenceUsed : Bool
  currentSet : Option (Fin 4)
  targetSet : Option (Fin 4)
  weight : Nat
  firedCue : Option FiredCue
  gradeMiss : Bool
  meanR : Nat
  meanG : Nat
  meanB : Nat
  clipped : Nat
  aborted : Bool
  finished : Bool
  opened : Bool
  deriving DecidableEq, Repr

/-! ## Pace Generator (R45 to R57) -/

/-- A set level of the Pace Table (R47). -/
structure PaceLevel where
  p : Nat
  q : Nat
  deriving DecidableEq, Repr

/-- What RUNNING step counters hold: the loaded level, and the P and Q of that level at the moment it was loaded (R52). -/
structure LoadedLevel where
  level : Nat
  p : Nat
  q : Nat
  deriving DecidableEq, Repr

/-- What the last tick of the time base gave its users (R45) and no step has taken yet: the model's own field (LE 10). `sample`: the TRUN
sample, not yet taken as a change (R46). `ringCap`: the occupancy that a 10 ms tick read for the ring cap (R50). The other three: a timer
whose count the tick brought to its timeout (R53, R11, R15). -/
structure TickDue where
  sample : Bool
  spinUp : Bool
  ringCap : Option Nat
  silence : Bool
  stall : Bool
  deriving DecidableEq, Repr

/-- Nothing waits to be taken. -/
def TickDue.clear : TickDue := ⟨false, false, none, false, false⟩

/-- Table 4-3. Timeouts stand in their units: 100 ms, 100 ms and 10 ms (R56). `counters` is none when STOPPED, else the loaded
level with the P and Q the counters hold (R52). `spinUp` is none when STOPPED, else the count of 1 ms ticks. `tenth` is the phase of the 10 ms tick (R45), `due` what
the last tick gave its users (LE 10). `pulses` counts the PACE_STEP
pulses emitted: the model's own view of the pin (LE 18). -/
structure Pace where
  table : Vector (Option PaceLevel) 7
  high : Nat
  low : Nat
  spinUpTimeout : Nat
  silenceTimeout : Nat
  stallTimeout : Nat
  requested : Nat
  ringCap : Nat
  faultLatch : Bool
  effective : Nat
  counters : Option LoadedLevel
  spinUp : Option Nat
  trun : Bool
  tenth : Nat
  due : TickDue
  pulses : Nat
  deriving DecidableEq, Repr

/-! ## Frame Memory Controller (R58 to R71) -/

/-- The memory plan (Table 5-1). -/
structure MemoryPlan where
  wIn : Nat
  r : Nat
  ringBase : Nat
  baseA : Nat
  baseB : Nat
  deriving DecidableEq, Repr

/-- The four requesters in priority order (Table 5-3). -/
inductive Requester where
  | intakeWrite | conformanceRead | referenceRead | referenceWrite
  deriving DecidableEq, Repr

/-- One count for each requester (R68). -/
structure PerRequester where
  intakeWrite : Nat
  conformanceRead : Nat
  referenceRead : Nat
  referenceWrite : Nat
  deriving DecidableEq, Repr

/-- The transfer in flight, with the byte address it was granted (R61, R67). `stale`, `discard` and `unreported` are the marks of R61
and R68 under which a completion changes no slot, delivers nothing, or is not reported. -/
inductive Transfer where
  | intakeWrite (line slot address : Nat) (pixels : List Pixel) (stale : Bool)
  | conformanceRead (line address count : Nat) (discard : Bool)
  | referenceRead (address count : Nat) (discard : Bool)
  | referenceWrite (address : Nat) (records : List RefRecord) (unreported : Bool)
  deriving DecidableEq, Repr

/-- Table 5-5. `slots` lists the VALID ring slots with their tags, slot numbers rising; an unlisted slot is EMPTY (R61). `bytes` lists the
DDR bytes the part has written, addresses rising; `epoch` counts the events that leave the contents undefined (LE 4). -/
structure FrameMemory where
  size : Nat
  ready : Bool
  plan : Option MemoryPlan
  slots : List (Nat × Nat)
  fillLine : Nat
  channel : Option Transfer
  aging : PerRequester
  grants : PerRequester
  dropped : Nat
  overruns : Nat
  bytes : List Host.Cell
  epoch : Nat
  deriving DecidableEq, Repr

/-! ## Conformance Engine (R79 to R87) -/

/-- The state of one needed source line (Table 6-2). `kept` is READ for a line left in the source window by the previous output line. -/
inductive Verdict where
  | pending | available | read | kept | unavailable
  deriving DecidableEq, Repr

/-- A needed line with its verdict. -/
structure NeededLine where
  line : Nat
  verdict : Verdict
  deriving DecidableEq, Repr

/-- The last source line read, or the line of zero samples marked "initial" (R79). -/
inductive HeldLine where
  | initial
  | line (number : Nat) (pixels : List Pixel)
  deriving DecidableEq, Repr

/-- A built output line (R85). -/
structure OutputLine where
  frame : Nat
  j : Nat
  pixels : List Pixel
  deriving DecidableEq, Repr

/-- The current frame's items of Table 6-2: frame number, its T and applied S, output line, column map, verdicts, previous output line. -/
structure FrameJob where
  frame : Nat
  top : Nat
  appliedS : Nat
  j : Nat
  columns : List (Int × Nat)
  needed : List NeededLine
  previous : Option (List Pixel)
  deriving DecidableEq, Repr

/-- The engine state (Table 6-2). -/
inductive ConformanceMode where
  | idle
  | gathering (job : FrameJob)
  | offering (job : FrameJob) (line : OutputLine)
  deriving DecidableEq, Repr

/-- The copy of R73: the conformance fields, W_in and R. -/
structure ConformanceCopy where
  fields : ConformanceFields
  wIn : Nat
  r : Nat
  deriving DecidableEq, Repr

/-- Table 6-2 and Table 6-3. `readRequest` is the line of a presented conformance read (R82). -/
structure Conformance where
  mode : ConformanceMode
  window : List SourceLine
  held : HeldLine
  copy : Option ConformanceCopy
  readRequest : Option Nat
  deriving DecidableEq, Repr

/-! ## Repair Engine (R88 to R110) -/

inductive Buffer where
  | a | b
  deriving DecidableEq, Repr

/-- A validity record (R94). -/
inductive Validity where
  | empty
  | filling (frame : Nat) (reelSequence : Half)
  | valid (frame : Nat) (reelSequence : Half)
  | void (frame : Nat) (reelSequence : Half)
  deriving DecidableEq, Repr

/-- The state of a LEARNED entry (Table 7-4). -/
inductive LearnedState where
  | candidate | tracked | fading
  deriving DecidableEq, Repr

/-- The origin of an entry: LEARNED with its state and first frame, or LOADED (Table 7-4). -/
inductive Origin where
  | learned (state : LearnedState) (firstFrame : Nat)
  | loaded
  deriving DecidableEq, Repr

/-- A Scratch Table entry (Table 7-4). -/
structure ScratchEntry where
  slot : Nat
  left : Nat
  width : Nat
  origin : Origin
  confirm : Nat
  miss : Nat
  tracked : Nat
  deriving DecidableEq, Repr

/-- A line in hand in FETCHING (Table 7-2). `incomplete` is the copy of R95, made when the line is taken. -/
structure RepairHand where
  line : OutputLine
  incomplete : Bool
  deriving DecidableEq, Repr

/-- A repaired line in hand with its two obligations (R92): taken by the Grading Engine, and written to the fill buffer. -/
structure RepairedHand where
  frame : Nat
  j : Nat
  records : List RefRecord
  incomplete : Bool
  taken : Bool
  written : Bool
  deriving DecidableEq, Repr

/-- The engine state (Table 7-2). -/
inductive RepairMode where
  | waiting
  | fetching (hand : RepairHand)
  | passing (hand : RepairedHand)
  deriving DecidableEq, Repr

/-- The copy of R88. -/
structure RepairCopy where
  fields : RepairFields
  wOut : Nat
  hOut : Nat
  deriving DecidableEq, Repr

/-- Table 7-6. `mask` lists the columns of the frame's scratch mask; `columnCounters` lists the column defect counters from column 0, a
column beyond the list standing at 0. -/
structure Repair where
  mode : RepairMode
  temporal : Bool
  recordA : Validity
  recordB : Validity
  lastWritten : Option Buffer
  scratches : List ScratchEntry
  mask : List Nat
  columnCounters : List Nat
  scratchesTracked : Nat
  copy : Option RepairCopy
  readRequest : Bool
  writeRequest : Bool
  deriving DecidableEq, Repr

/-! ## Grading Engine (R111 to R132) -/

inductive SetState where
  | empty | loading | ready | inUse
  deriving DecidableEq, Repr

/-- The matrix and offsets of a Grade Set (Table 8-1), row c for output channel c. -/
structure Matrix where
  rr : Int
  rg : Int
  rb : Int
  gr : Int
  gg : Int
  gb : Int
  br : Int
  bg : Int
  bb : Int
  offR : Int
  offG : Int
  offB : Int
  deriving DecidableEq, Repr

/-- A Grade Set (R111, R112). Each LUT lists its WRITTEN entries, numbers rising: a listed entry has its written mark set, an unlisted
one is 0 with its mark clear. `matrix` is none while the matrix mark is clear; the matrix and offsets are then 0. -/
structure GradeSet where
  state : SetState
  luts : Vector (List (Nat × Half)) 6
  matrix : Option Matrix
  deriving DecidableEq, Repr

/-- A FRAME cue (R121). -/
structure FrameCue where
  trigger : Nat
  set : Fin 4
  d : Nat
  deriving DecidableEq, Repr

/-- A SPLICE cue (R121). -/
structure SpliceCue where
  set : Fin 4
  d : Nat
  deriving DecidableEq, Repr

/-- The dissolve record (Table 8-4). -/
structure Dissolve where
  target : Fin 4
  d : Nat
  k : Nat
  deriving DecidableEq, Repr

/-- A packet owed for the line in hand (R124). -/
inductive Owed where
  | head | lineOut | tail
  deriving DecidableEq, Repr

/-- A graded line in hand with the packets still to place (R124). -/
structure GradedHand where
  frame : Nat
  j : Nat
  pixels : List Rgb
  owed : List Owed
  deriving DecidableEq, Repr

inductive GradingMode where
  | waiting
  | placing (hand : GradedHand)
  deriving DecidableEq, Repr

/-- The frame accumulators (R130). -/
structure Accumulators where
  sumR : Nat
  sumG : Nat
  sumB : Nat
  clipped : Nat
  deriving DecidableEq, Repr

/-- The grading counters (Table 8-4). -/
structure GradingCounters where
  applied : Nat
  superseded : Nat
  misses : Nat
  deriving DecidableEq, Repr

/-- Table 8-7. `raster` is W_out and H_out in use. -/
structure Grading where
  mode : GradingMode
  sets : Vector GradeSet 4
  cues : List FrameCue
  spliceCues : List SpliceCue
  current : Option (Fin 4)
  dissolve : Option Dissolve
  accumulators : Accumulators
  counters : GradingCounters
  raster : Option (Nat × Nat)
  deriving DecidableEq, Repr

/-! ## Reel Controller (R133 to R149) -/

inductive ReelState where
  | noReel | opened | closing | ticketWait
  deriving DecidableEq, Repr

/-- The reel identity (R133). -/
structure ReelIdentity where
  accession : List Byte
  reelNumber : Nat
  format : Fin 8
  initialSet : Fin 4
  shrinkHint : Option Nat
  previousClass : Option Nat
  paceLevel : Option Nat
  deriving DecidableEq, Repr

/-- The Reel Record (Table 9-4). -/
structure ReelRecord where
  framesDelivered : Nat
  framesIncomplete : Nat
  substitutedLines : Nat
  framesAborted : Nat
  sumS : Nat
  minS : Option Nat
  maxS : Option Nat
  temporal : Nat
  spatial : Nat
  scratchPixels : Nat
  unrepaired : Nat
  clipped : Nat
  pixelsDelivered : Nat
  sumMeanR : Nat
  sumMeanB : Nat
  framesLost : Nat
  perforationsSeen : Nat
  synthesized : Nat
  spurious : Nat
  irregular : Nat
  splices : Nat
  pitchSteps : Nat
  lockLosses : Nat
  unframedLines : Nat
  missingLines : Nat
  droppedLines : Nat
  scratchesTracked : Nat
  deriving DecidableEq, Repr

inductive Comparison where
  | atLeast | atMost
  deriving DecidableEq, Repr

/-- A set row of the Shelving Table (R145). -/
structure ShelvingRow where
  metric : Nat
  comparison : Comparison
  threshold : Nat
  cls : Nat
  deriving DecidableEq, Repr

/-- Handling flags (R146). -/
structure HandlingFlags where
  coldStorage : Bool
  isolate : Bool
  holdForDuplication : Bool
  noProjection : Bool
  deriving DecidableEq, Repr

/-- A set entry of the Class Table (R146). -/
structure ClassEntry where
  zone : Nat
  interval : Nat
  flags : HandlingFlags
  deriving DecidableEq, Repr

inductive ClassChange where
  | better | same | worse
  deriving DecidableEq, Repr

/-- A ticket (Table 9-6). `metrics` holds the twelve values in id order. -/
structure Ticket where
  reelSequence : Half
  accession : List Byte
  reelNumber : Nat
  format : Nat
  cls : Nat
  previousClass : Option Nat
  change : Option ClassChange
  zone : Nat
  interval : Nat
  flags : HandlingFlags
  classUnset : Bool
  matchedRows : List Nat
  metrics : List Nat
  framesDelivered : Nat
  framesLost : Nat
  aborted : Bool
  deriving DecidableEq, Repr

/-- Table 9-3. `classes` holds the entry of class c at place c - 1. -/
structure ReelController where
  state : ReelState
  sequence : Half
  identity : Option ReelIdentity
  record : ReelRecord
  lastMetrics : Option (List Nat)
  held : Option Ticket
  shelving : Vector (Option ShelvingRow) 16
  classes : Vector (Option ClassEntry) 5
  tickets : List Ticket
  deriving DecidableEq, Repr

/-! ## Command Interpreter (R150 to R159) -/

/-- The reply statuses of Table 10-2. -/
inductive ReplyStatus where
  | ok | adjusted | busy | notReady | badCommand | badArg | badState | notConfigured | overlap | setBusy | incompleteSet
  | tableFull | duplicate | aborted
  deriving DecidableEq, Repr

/-- A reply: code and tag of its packet, status, data words (R156, Table 12-7). -/
structure Reply where
  code : Half
  tag : Half
  status : ReplyStatus
  data : List Word
  deriving DecidableEq, Repr

/-- A packet of the Command Queue: its code and tag, and its command with the argument words (R150). -/
structure QueuedCommand where
  code : Half
  tag : Half
  command : Command
  deriving DecidableEq, Repr

/-- An ordinary reply slot (R151). -/
inductive ReplySlot where
  | free
  | claimed
  | filled (reply : Reply)
  deriving DecidableEq, Repr

/-- The name of a reply slot in the fill order (R151). -/
inductive SlotName where
  | ordinary (i : Fin 8)
  | reserved
  deriving DecidableEq, Repr

/-- Table 10-1. `inFlight` is the slot claimed by the head command while it is in flight (R153). -/
structure Interpreter where
  queue : List QueuedCommand
  inFlight : Option (Fin 8)
  ordinary : Vector ReplySlot 8
  reserved : Option Reply
  fillOrder : List SlotName
  dropped : Nat
  unanswered : Nat
  deriving DecidableEq, Repr

/-! ## Notice Unit (R160 to R165) -/

/-- The ten notice classes (Table 11-1), in class order. -/
inductive NoticeClass where
  | lockLost | framesLost | ringOverflow | intakeError | gradeMiss | scratchFull | ticketReady | transportFault | deliveryStall | clamp
  deriving DecidableEq, Repr

/-- The latch of a class; PENDING holds the count that its built notice carries (R160). -/
inductive Latch where
  | armed
  | pending (carried : Nat)
  | raised
  deriving DecidableEq, Repr

/-- One class (R160). -/
structure NoticeState where
  enabled : Bool
  count : Nat
  latch : Latch
  deriving DecidableEq, Repr

/-- The Notice Unit: one state for each class. -/
structure NoticeUnit where
  lockLost : NoticeState
  framesLost : NoticeState
  ringOverflow : NoticeState
  intakeError : NoticeState
  gradeMiss : NoticeState
  scratchFull : NoticeState
  ticketReady : NoticeState
  transportFault : NoticeState
  deliveryStall : NoticeState
  clamp : NoticeState
  deriving DecidableEq, Repr

/-! ## Delivery Port (R12 to R16) -/

/-- A frame packet of the output line queue, composed when it is placed (R131). -/
inductive FramePacket where
  | head (c : FrameContext)
  | lineOut (frame j : Nat) (pixels : List Rgb)
  | tail (c : FrameContext)
  deriving DecidableEq, Repr

/-- The source of the packet in transmission (Table 2-6). -/
inductive Source where
  | reply
  | notice (c : NoticeClass)
  | ticket
  | framePacket
  deriving DecidableEq, Repr

/-- The packet in transmission: its source, its bytes on the link, and whether a SOFT_RESET has meanwhile taken away its completion
effects (R16). -/
structure Transmission where
  source : Source
  run : List Byte
  detached : Bool
  deriving DecidableEq, Repr

/-- The Delivery Port. `stall` is none when the stall timer is stopped, else its count of 10 ms ticks (R15). -/
structure DeliveryPort where
  pool : Nat
  excess : Nat
  badGrants : Nat
  queue : List FramePacket
  stall : Option Nat
  transmission : Option Transmission
  deriving DecidableEq, Repr

/-! ## The machine -/

/-- The state of the part, and the queue of steps that wait to be taken (LE 1). -/
structure State where
  pending : List Instr
  formats : Vector (Option Format) 8
  intake : Intake
  tracker : Tracker
  contexts : List FrameContext
  pace : Pace
  frameMemory : FrameMemory
  conformance : Conformance
  repair : Repair
  grading : Grading
  reel : ReelController
  interpreter : Interpreter
  notices : NoticeUnit
  delivery : DeliveryPort
  deriving DecidableEq, Repr

/-- Why the machine stops with a fault. -/
inductive Fault where
  /-- Raised by a completion of a memory transfer whose bytes do not all lie below the strapped memory size (R58, R59). Safe: the plan of
  a run from reset always fits the memory, so the fault marks only states that no run reaches. -/
  | addressBeyondMemory (address : Nat)
  deriving DecidableEq, Repr

/-- Why a step has no meaning. -/
inductive Refusal where
  /-- Raised by an arm of exec whose row has no meaning yet. Safe: the model stops. No arm answers it. -/
  | notModelled (mnemonic : String)
  deriving DecidableEq, Repr

/-! ## Power-on values -/

/-- Table 2-3 at zero. -/
def IntakeCounters.zero : IntakeCounters := ⟨0, 0, 0, 0, 0, 0, 0, 0, 0, 0⟩

/-- The counters of Table 3-5 at zero. -/
def TrackerCounters.zero : TrackerCounters := ⟨0, 0, 0, 0, 0, 0, 0, 0, 0⟩

/-- The filter at level UNDEFINED with an empty run (R20). -/
def Filter.undefined : Filter := ⟨.undefined, none⟩

/-- Table 2-2, power-on column. -/
def Intake.powerOn : Intake :=
  { mode := .closed, expected := none, writeLine := 0, endMark := none, drainTarget := none, silence := none,
    counters := IntakeCounters.zero, staging := [] }

/-- Table 3-5, power-on column. -/
def Tracker.powerOn : Tracker :=
  { mode := .idle, fields := none, filter := Filter.undefined, edgeLog := [], candidates := [], window := none,
    pendingTop := none, suspect := none, spliceMark := none, nudge := none, countdown := none, qTop := none, lastCut := none,
    rephasing := false, spanIndex := none, lastAccepted := false, synthRun := 0, acceptRun := 0, history := [],
    shrink := 65536, lastH := 0, frameCounter := 0, counters := TrackerCounters.zero }

/-- Table 4-3, power-on column. -/
def Pace.powerOn : Pace :=
  { table := Vector.replicate 7 none, high := 80, low := 50, spinUpTimeout := 20, silenceTimeout := 5, stallTimeout := 100,
    requested := 0, ringCap := 7, faultLatch := false, effective := 0, counters := none, spinUp := none, trun := false,
    tenth := 0, due := .clear, pulses := 0 }

/-- A count of 0 for each requester. -/
def PerRequester.zero : PerRequester := ⟨0, 0, 0, 0⟩

/-- Table 5-5, power-on column, for a strapped size and a memory epoch. -/
def FrameMemory.powerOn (size epoch : Nat) : FrameMemory :=
  { size := size, ready := false, plan := none, slots := [], fillLine := 0, channel := none, aging := PerRequester.zero,
    grants := PerRequester.zero, dropped := 0, overruns := 0, bytes := [], epoch := epoch }

/-- Table 6-3, power-on column. -/
def Conformance.powerOn : Conformance := { mode := .idle, window := [], held := .initial, copy := none, readRequest := none }

/-- Table 7-6, power-on column. -/
def Repair.powerOn : Repair :=
  { mode := .waiting, temporal := false, recordA := .empty, recordB := .empty, lastWritten := none, scratches := [], mask := [],
    columnCounters := [], scratchesTracked := 0, copy := none, readRequest := false, writeRequest := false }

/-- An EMPTY Grade Set (R111). -/
def GradeSet.cleared : GradeSet := { state := .empty, luts := Vector.replicate 6 [], matrix := none }

/-- Table 8-7, power-on column. -/
def Grading.powerOn : Grading :=
  { mode := .waiting, sets := Vector.replicate 4 GradeSet.cleared, cues := [], spliceCues := [], current := none,
    dissolve := none, accumulators := ⟨0, 0, 0, 0⟩, counters := ⟨0, 0, 0⟩, raster := none }

/-- The Reel Record at zero (R133). -/
def ReelRecord.zero : ReelRecord :=
  { framesDelivered := 0, framesIncomplete := 0, substitutedLines := 0, framesAborted := 0, sumS := 0, minS := none,
    maxS := none, temporal := 0, spatial := 0, scratchPixels := 0, unrepaired := 0, clipped := 0, pixelsDelivered := 0,
    sumMeanR := 0, sumMeanB := 0, framesLost := 0, perforationsSeen := 0, synthesized := 0, spurious := 0, irregular := 0,
    splices := 0, pitchSteps := 0, lockLosses := 0, unframedLines := 0, missingLines := 0, droppedLines := 0,
    scratchesTracked := 0 }

/-- Table 9-3, power-on column. -/
def ReelController.powerOn : ReelController :=
  { state := .noReel, sequence := 0#16, identity := none, record := ReelRecord.zero, lastMetrics := none, held := none,
    shelving := Vector.replicate 16 none, classes := Vector.replicate 5 none, tickets := [] }

/-- Table 10-4, power-on column. -/
def Interpreter.powerOn : Interpreter :=
  { queue := [], inFlight := none, ordinary := Vector.replicate 8 .free, reserved := none, fillOrder := [], dropped := 0,
    unanswered := 0 }

/-- A class ON, ARMED, with count 0 (R165). -/
def NoticeState.powerOn : NoticeState := ⟨true, 0, .armed⟩

/-- The table of R165, power-on column. -/
def NoticeUnit.powerOn : NoticeUnit :=
  ⟨NoticeState.powerOn, NoticeState.powerOn, NoticeState.powerOn, NoticeState.powerOn, NoticeState.powerOn,
    NoticeState.powerOn, NoticeState.powerOn, NoticeState.powerOn, NoticeState.powerOn, NoticeState.powerOn⟩

/-- R12 to R15 at power-on. -/
def DeliveryPort.powerOn : DeliveryPort :=
  { pool := 0, excess := 0, badGrants := 0, queue := [], stall := none, transmission := none }

/-- Every block at its power-on values, for a strapped memory size and a memory epoch, with no step waiting. -/
def State.powerOn (size epoch : Nat) : State :=
  { pending := [], formats := Vector.replicate 8 none, intake := Intake.powerOn, tracker := Tracker.powerOn, contexts := [],
    pace := Pace.powerOn, frameMemory := FrameMemory.powerOn size epoch, conformance := Conformance.powerOn,
    repair := Repair.powerOn, grading := Grading.powerOn, reel := ReelController.powerOn,
    interpreter := Interpreter.powerOn, notices := NoticeUnit.powerOn, delivery := DeliveryPort.powerOn }

/-- The machine right after power-on reset, with the straps at 00: 512 MiB (DESIGN CHOICE, LE 3). -/
def State.reset : State := State.powerOn 536870912 0

end Sys2Proof.Machine
end

