-- ==== Sys2Proof/Machine/Ops.lean ====
section
/-! DEFINITION. The named operations over the shared state: sparse tables, the DDR bytes, the notice latches, the Frame Context Queue,
the outcome of a step. The part has no exception entry: an occurrence at the Notice Unit (R160) stands in its place. -/

namespace Sys2Proof.Machine

/-! ## Sparse tables: lists of (key, value) with strictly rising keys -/

/-- The keys rise strictly: the one canonical form of a sparse table. -/
abbrev keysRise {α : Type} (m : List (Nat × α)) : Prop := m.Pairwise (fun x y => x.1 < y.1)

/-- The value listed at a key. -/
def tableGet {α : Type} (m : List (Nat × α)) (k : Nat) : Option α := (m.find? (fun x => x.1 == k)).map (fun x => x.2)

/-- The table without a key. -/
def tableErase {α : Type} (m : List (Nat × α)) (k : Nat) : List (Nat × α) := m.filter (fun x => x.1 != k)

/-- The table with a key's value replaced or added. -/
def tableSet {α : Type} (m : List (Nat × α)) (k : Nat) (v : α) : List (Nat × α) :=
  m.filter (fun x => decide (x.1 < k)) ++ (k, v) :: m.filter (fun x => decide (k < x.1))

/-- The pairs that list the values of a run at consecutive keys. -/
def runAt {α : Type} : Nat → List α → List (Nat × α)
  | _, [] => []
  | k, v :: vs => (k, v) :: runAt (k + 1) vs

/-- The table with the values of a run at consecutive keys from `k`. -/
def tableSetRun {α : Type} (m : List (Nat × α)) (k : Nat) (vs : List α) : List (Nat × α) :=
  m.filter (fun x => decide (x.1 < k)) ++ runAt k vs ++ m.filter (fun x => decide (k + vs.length ≤ x.1))

/-! ## DDR memory (R58, R60) -/

/-- The canonical form of the memory: addresses strictly rising. An unlisted address has no value, so no entry can equal what an
unlisted address reads as. -/
abbrev memoryWf (m : List Host.Cell) : Prop := keysRise m

/-- One byte of memory as the part has written it; none where it has written nothing. -/
def readByte? (m : List Host.Cell) (a : Nat) : Option Byte := tableGet m a

/-- One byte as a transfer reads it: an unwritten byte is a free value (R58, R70, LE 4). -/
def readByte (f : FrameMemory) (a : Nat) : Byte := (readByte? f.bytes a).getD (Config.undefinedByte f.epoch a)

/-- `n` bytes from an address. -/
def readBytes (f : FrameMemory) : Nat → Nat → List Byte
  | _, 0 => []
  | a, n + 1 => readByte f a :: readBytes f (a + 1) n

/-- The memory with a run of bytes stored from an address. -/
def writeBytes (f : FrameMemory) (a : Nat) (bs : List Byte) : FrameMemory := { f with bytes := tableSetRun f.bytes a bs }

/-- The contents of the memory become undefined (R58, R70). -/
def forgetBytes (f : FrameMemory) : FrameMemory := { f with bytes := [], epoch := f.epoch + 1 }

/-! ## Notices (R160) -/

/-- The state of a class. -/
def noticeOf (u : NoticeUnit) : NoticeClass → NoticeState
  | .lockLost => u.lockLost
  | .framesLost => u.framesLost
  | .ringOverflow => u.ringOverflow
  | .intakeError => u.intakeError
  | .gradeMiss => u.gradeMiss
  | .scratchFull => u.scratchFull
  | .ticketReady => u.ticketReady
  | .transportFault => u.transportFault
  | .deliveryStall => u.deliveryStall
  | .clamp => u.clamp

/-- The unit with the state of one class replaced. -/
def setNotice (u : NoticeUnit) (c : NoticeClass) (n : NoticeState) : NoticeUnit :=
  match c with
  | .lockLost => { u with lockLost := n }
  | .framesLost => { u with framesLost := n }
  | .ringOverflow => { u with ringOverflow := n }
  | .intakeError => { u with intakeError := n }
  | .gradeMiss => { u with gradeMiss := n }
  | .scratchFull => { u with scratchFull := n }
  | .ticketReady => { u with ticketReady := n }
  | .transportFault => { u with transportFault := n }
  | .deliveryStall => { u with deliveryStall := n }
  | .clamp => { u with clamp := n }

/-- The ten classes in class order (Table 11-1). -/
def noticeClasses : List NoticeClass :=
  [.lockLost, .framesLost, .ringOverflow, .intakeError, .gradeMiss, .scratchFull, .ticketReady, .transportFault, .deliveryStall,
    .clamp]

/-- The class number of Table 11-1. -/
def classNumber : NoticeClass → Nat
  | .lockLost => 1
  | .framesLost => 2
  | .ringOverflow => 3
  | .intakeError => 4
  | .gradeMiss => 5
  | .scratchFull => 6
  | .ticketReady => 7
  | .transportFault => 8
  | .deliveryStall => 9
  | .clamp => 10

/-- A notice is built: it carries the count as it stands, the count becomes 0 and the latch PENDING (R160). -/
def buildNotice (n : NoticeState) : NoticeState := { n with count := 0, latch := .pending n.count }

/-- R160: an occurrence raises the count, held at 65,535; if the class is ON and ARMED a notice is then built. -/
def occur (n : NoticeState) : NoticeState :=
  let m := { n with count := min (n.count + 1) 65535 }
  if n.enabled ∧ n.latch = .armed then buildNotice m else m

/-- An occurrence of a class is raised at the Notice Unit (R160). -/
def raise (c : NoticeClass) (s : State) : State :=
  { s with notices := setNotice s.notices c (occur (noticeOf s.notices c)) }

/-- A class whose latch is PENDING. -/
def isPending (n : NoticeState) : Bool :=
  match n.latch with
  | .pending _ => true
  | _ => false

/-- R164: ATTN is asserted while the latch of at least one class is PENDING or RAISED. -/
def attn (u : NoticeUnit) : Bool := noticeClasses.any (fun c => (noticeOf u c).latch != .armed)

/-- The lowest-numbered PENDING class (R161). -/
def firstPending (u : NoticeUnit) : Option NoticeClass := noticeClasses.find? (fun c => isPending (noticeOf u c))

/-! ## Frame Context Queue (R42) -/

/-- The context of a frame number. -/
def contextOf (s : State) (n : Nat) : Option FrameContext := s.contexts.find? (fun c => c.frame == n)

/-- The contexts with the context of frame `n` changed by `f`. -/
def changeContext (n : Nat) (f : FrameContext → FrameContext) (cs : List FrameContext) : List FrameContext :=
  cs.map (fun c => if c.frame = n then f c else c)

/-- An owner writes fields of the context of frame `n` (Table 3-6). -/
def writeContext (n : Nat) (f : FrameContext → FrameContext) (s : State) : State :=
  { s with contexts := changeContext n f s.contexts }

/-! ## Requesters (R68) -/

/-- The count of a requester. -/
def countOf (p : PerRequester) : Requester → Nat
  | .intakeWrite => p.intakeWrite
  | .conformanceRead => p.conformanceRead
  | .referenceRead => p.referenceRead
  | .referenceWrite => p.referenceWrite

/-- The counts with one requester's replaced. -/
def setCount (p : PerRequester) (r : Requester) (n : Nat) : PerRequester :=
  match r with
  | .intakeWrite => { p with intakeWrite := n }
  | .conformanceRead => { p with conformanceRead := n }
  | .referenceRead => { p with referenceRead := n }
  | .referenceWrite => { p with referenceWrite := n }

/-! ## Outcomes -/

/-- The outcome of a step of this machine. -/
abbrev StepResult := Host.Outcome State Fault Refusal

/-- A packet waits in the sense of Table 2-6: a reply, a PENDING notice, a ticket or a frame packet (LE 14). -/
def packetWaiting (s : State) : Bool :=
  !s.interpreter.fillOrder.isEmpty || (firstPending s.notices).isSome || !s.reel.tickets.isEmpty || !s.delivery.queue.isEmpty

/-- R15: the stall timer runs while the pool is 0 and a packet is waiting; it starts at 0 and is cleared when either ceases. -/
def stallStands (s : State) : Bool := s.delivery.pool == 0 && packetWaiting s

/-- The stall timer follows its two conditions (R15). -/
def settleStall (s : State) : State :=
  if stallStands s then
    match s.delivery.stall with
    | some _ => s
    | none => { s with delivery := { s.delivery with stall := some 0 } }
  else { s with delivery := { s.delivery with stall := none } }

/-- A step that answers a next state, with the stall timer following its conditions. -/
def done (s : State) : StepResult := .next (settleStall s)

end Sys2Proof.Machine
end

