-- ==== Sys2Proof/Machine/Flags.lean ====
section
/-! DEFINITION. The flags and clamps that the rules compute, and the flag bits of packets and records (11_packet_and_record_layouts.md). -/

namespace Sys2Proof.Machine

/-- Clamping an integer to a range (00_scope.md 5.2), with the mark that the value changed. -/
def clampInt (lo hi x : Int) : Int × Bool :=
  if x < lo then (lo, true) else if hi < x then (hi, true) else (x, false)

/-- Clamping a natural number to a range, with the mark that the value changed. -/
def clampNat (lo hi x : Nat) : Nat × Bool :=
  if x < lo then (lo, true) else if hi < x then (hi, true) else (x, false)

/-- R35: the applied S of a frame, clamped to 62,259 to 66,191, and its SHRINK_CLAMP flag. -/
def appliedShrink (s : Nat) : Nat × Bool := clampNat 62259 66191 s

/-- R34: the tracking range of S. -/
def trackingShrink (s : Nat) : Nat := (clampNat 49152 81920 s).1

/-- R37: the applied H of a frame, clamped to -1024 to +1024, and its WEAVE_CLAMP flag. -/
def appliedWeave (h : Int) : Int × Bool := clampInt (-1024) 1024 h

/-- R118: a matrix value clamped to a sample, and the mark that the channel was clamped. -/
def clampSample (x : Int) : Half × Bool :=
  let c := clampInt 0 65535 x
  (BitVec.ofInt 16 c.1, c.2)

/-- A flag at a bit place: the bit is 1 when the flag is set (section 12). -/
def flagBit (place : Nat) (flag : Bool) : Nat := if flag then 2 ^ place else 0

/-- A word holding a number (the low 32 bits of it). -/
def word (n : Nat) : Word := BitVec.ofNat 32 n

/-- A number of more than 32 bits: two words, low word first (R167). -/
def twoWords (n : Nat) : List Word := [word n, word (n / 4294967296)]

/-- A mark or level as a word. -/
def markWord (b : Bool) : Word := word (flagBit 0 b)

/-- An item that may be absent: its words (0 when absent) and then 1 for present or 0 for absent (R167). -/
def optionalWords {α : Type} (width : Nat) (f : α → List Word) : Option α → List Word
  | some x => f x ++ [1#32]
  | none => List.replicate width 0#32 ++ [0#32]

/-- An absent or present one-word number. -/
def optionalWord (x : Option Nat) : List Word := optionalWords 1 (fun n => [word n]) x

/-- An absent or present position, two words. -/
def optionalPosition (x : Option Nat) : List Word := optionalWords 2 twoWords x

/-- The handling flags in the order of Table 12-8, COLD_STORAGE lowest. -/
def handlingBits (h : HandlingFlags) : Nat :=
  flagBit 0 h.coldStorage + flagBit 1 h.isolate + flagBit 2 h.holdForDuplication + flagBit 3 h.noProjection

/-- The handling flags read from bits 3:0 of a CLASS_SET word. -/
def handlingOf (w : Word) : HandlingFlags :=
  { coldStorage := w.getLsbD 0, isolate := w.getLsbD 1, holdForDuplication := w.getLsbD 2, noProjection := w.getLsbD 3 }

/-- No handling flag. -/
def noHandling : HandlingFlags := ⟨false, false, false, false⟩

/-- R147: the class change against the previous class. -/
def classChange (cls previous : Nat) : ClassChange :=
  if cls < previous then .better else if cls = previous then .same else .worse

/-- The code of a class change in word 2 of Table 12-8, 0 when absent. -/
def changeCode : Option ClassChange → Nat
  | none => 0
  | some .better => 1
  | some .same => 2
  | some .worse => 3

end Sys2Proof.Machine
end

