-- ==== Sys2Proof/Machine/Operands.lean ====
section
/-! DEFINITION. The operand forms of commands (R167): enumerations of Table 12-10, signed and unsigned words, packed words, presence
flags. A reader answers none for a value that cannot belong to its argument at all, which the interpreter refuses BAD_ARG (LE 9). -/

namespace Sys2Proof.Machine

/-- Polarity: RISING 0, FALLING 1. -/
def polarityOf (w : Word) : Option Polarity :=
  if w = 0#32 then some .rising else if w = 1#32 then some .falling else none

/-- IR mode and enable value: OFF 0, ON 1. -/
def onOffOf (w : Word) : Option Bool :=
  if w = 0#32 then some false else if w = 1#32 then some true else none

/-- Presence: 0 unset, 1 set. -/
def presenceOf (w : Word) : Option Bool := onOffOf w

/-- Comparison: AT_LEAST 0, AT_MOST 1. -/
def comparisonOf (w : Word) : Option Comparison :=
  if w = 0#32 then some .atLeast else if w = 1#32 then some .atMost else none

/-- The kind of a cue. -/
inductive CueKind where
  | frame | splice
  deriving DecidableEq, Repr

/-- Cue kind: FRAME 0, SPLICE 1. -/
def cueKindOf (w : Word) : Option CueKind :=
  if w = 0#32 then some .frame else if w = 1#32 then some .splice else none

/-- A selector of one of two collections or both (CUE_CLEAR, SCRATCH_CLEAR). -/
inductive Selection where
  | first | second | all
  deriving DecidableEq, Repr

/-- Selector: FRAME or LEARNED 0, SPLICE or LOADED 1, ALL 2. -/
def selectionOf (w : Word) : Option Selection :=
  if w = 0#32 then some .first else if w = 1#32 then some .second else if w = 2#32 then some .all else none

/-- The selectors of Table 10-3. -/
inductive StatusSelector where
  | identity | tracker | ring | reelRecord | scratchTable | cueList | gradeSets | notices | counters
  deriving DecidableEq, Repr

/-- STATUS_QUERY selector: IDENTITY 1 to COUNTERS 9. -/
def statusSelectorOf (w : Word) : Option StatusSelector :=
  match w.toNat with
  | 1 => some .identity
  | 2 => some .tracker
  | 3 => some .ring
  | 4 => some .reelRecord
  | 5 => some .scratchTable
  | 6 => some .cueList
  | 7 => some .gradeSets
  | 8 => some .notices
  | 9 => some .counters
  | _ => none

/-- A number below a bound, as an index. -/
def indexOf (n : Nat) (x : Nat) : Option (Fin n) := if h : x < n then some ⟨x, h⟩ else none

/-- The fields of FORMAT_SET: unknown enumeration codes do not belong; every number is passed to the owner. -/
def formatOf (a : FormatSetArgs) : Option Format :=
  match polarityOf a.polarity, onOffOf a.irMode with
  | some pol, some ir => some
      { tracking :=
          { polarity := pol, nominalPitch := a.nominalPitch.toNat, k := a.k.toNat, tol := a.tol.toNat,
            spliceThreshold := a.spliceThreshold.toNat, coastLimit := a.coastLimit.toNat,
            referenceEdge := a.referenceEdge.toInt, damageCap := a.damageCap.toNat },
        conformance := { v0 := a.v0.toNat, u0 := a.u0.toNat, wOut := a.wOut.toNat, hOut := a.hOut.toNat },
        repair :=
          { irOn := ir, irThreshold := a.irThreshold.toNat, clearLevel := a.clearLevel.toNat,
            motionThreshold := a.motionThreshold.toNat, spanLimit := a.spanLimit.toNat,
            scratchPercentage := a.scratchPercentage.toNat } }
  | _, _ => none

/-- The five fields of MEMORY_PLAN. -/
def planOf (a : MemoryPlanArgs) : MemoryPlan :=
  { wIn := a.wIn.toNat, r := a.r.toNat, ringBase := a.ringBase.toNat, baseA := a.baseA.toNat, baseB := a.baseB.toNat }

/-- A level word of PACE_TABLE_SET: bit 31 clear is unset, whatever the rest holds; set, bits 7:0 are P and 23:8 are Q, and bits 30:24
lie outside every field. -/
def paceLevelOf (w : Word) : Option (Option PaceLevel) :=
  if w.getLsbD 31 then
    if w.extractLsb' 24 7 = 0#7 then some (some ⟨(w.extractLsb' 0 8).toNat, (w.extractLsb' 8 16).toNat⟩) else none
  else some none

/-- The seven levels of PACE_TABLE_SET. -/
def paceLevelsOf (a : PaceTableArgs) : Option (Vector (Option PaceLevel) 7) :=
  match paceLevelOf a.level1, paceLevelOf a.level2, paceLevelOf a.level3, paceLevelOf a.level4, paceLevelOf a.level5,
    paceLevelOf a.level6, paceLevelOf a.level7 with
  | some l1, some l2, some l3, some l4, some l5, some l6, some l7 => some #v[l1, l2, l3, l4, l5, l6, l7]
  | _, _, _, _, _, _, _ => none

/-- A signed 16-bit value in an argument word. -/
def signedHalfOf (w : Word) : Option Int := if -32768 ≤ w.toInt ∧ w.toInt ≤ 32767 then some w.toInt else none

/-- The twelve values of MATRIX_LOAD. -/
def matrixOf (a : MatrixLoadArgs) : Option Matrix := do
  let rr ← signedHalfOf a.rr
  let rg ← signedHalfOf a.rg
  let rb ← signedHalfOf a.rb
  let gr ← signedHalfOf a.gr
  let gg ← signedHalfOf a.gg
  let gb ← signedHalfOf a.gb
  let br ← signedHalfOf a.br
  let bg ← signedHalfOf a.bg
  let bb ← signedHalfOf a.bb
  let offR ← signedHalfOf a.offR
  let offG ← signedHalfOf a.offG
  let offB ← signedHalfOf a.offB
  return ⟨rr, rg, rb, gr, gg, gb, br, bg, bb, offR, offG, offB⟩

/-- A scratch of SCRATCH_LOAD: left column and width. -/
structure ScratchSpan where
  left : Nat
  width : Nat
  deriving DecidableEq, Repr

/-- A scratch word: bits 15:0 left column, 23:16 width, 31:24 outside every field. -/
def scratchSpanOf (w : Word) : Option ScratchSpan :=
  if w.extractLsb' 24 8 = 0#8 then some ⟨(w.extractLsb' 0 16).toNat, (w.extractLsb' 16 8).toNat⟩ else none

/-- The scratches of SCRATCH_LOAD, in list order. -/
def scratchSpansOf (ws : List Word) : Option (List ScratchSpan) := ws.mapM scratchSpanOf

/-- The row of SHELVING_ROW_SET: none inside for the mark "unset", whose remaining fields are ignored. -/
def shelvingRowOf (a : ShelvingRowArgs) : Option (Option ShelvingRow) :=
  match presenceOf a.presence with
  | none => none
  | some false => some none
  | some true =>
    match comparisonOf a.comparison with
    | none => none
    | some c => some (some ⟨a.metric.toNat, c, a.threshold.toNat, a.cls.toNat⟩)

/-- The entry of CLASS_SET: a zone above 255 or a flag bit above bit 3 does not belong. -/
def classEntryOf (a : ClassSetArgs) : Option (Option ClassEntry) :=
  match presenceOf a.presence with
  | none => none
  | some false => some none
  | some true =>
    if a.zone.toNat ≤ 255 ∧ a.flags.toNat < 16 then some (some ⟨a.zone.toNat, a.interval.toNat, handlingOf a.flags⟩) else none

/-- The request of REEL_OPEN, its optional fields absent when their presence flag is clear. -/
structure ReelRequest where
  accessionLength : Nat
  accession : List Byte
  reelNumber : Nat
  format : Nat
  initialSet : Nat
  shrinkHint : Option Nat
  previousClass : Option Nat
  paceLevel : Option Nat
  deriving DecidableEq, Repr

/-- A word that counts only when its presence flag is set. -/
def whenPresent (flag : Bool) (w : Word) : Option Nat := if flag then some w.toNat else none

/-- REEL_OPEN: a presence bit above bit 2, or an accession byte that is not 0 after the stated end, does not belong (LE 9). The words that
the presence flags cover are not checked here (R167): a pace level of any value is R49's to settle. -/
def reelRequestOf (a : ReelOpenArgs) : Option ReelRequest :=
  let n := a.accessionLength.toNat
  if a.accession.length = 24 ∧ a.presence.toNat < 8 ∧ (a.accession.drop n).all (fun b => b == 0#8) then
    some
      { accessionLength := n, accession := a.accession.take n, reelNumber := a.reelNumber.toNat, format := a.format.toNat,
        initialSet := a.initialSet.toNat, shrinkHint := whenPresent (a.presence.getLsbD 0) a.shrinkHint,
        previousClass := whenPresent (a.presence.getLsbD 1) a.previousClass,
        paceLevel := whenPresent (a.presence.getLsbD 2) a.paceLevel }
  else none

end Sys2Proof.Machine
end

