-- ==== Sys2Proof/Machine/Pace.lean ====
section
/-! DEFINITION. The Pace Generator (03_transport_pacing_and_time_base.md): requested level, ring cap, effective level, step counters,
spin-up timer and transport fault. -/

namespace Sys2Proof.Machine

/-- The Pace Table entry of a level 1 to 7; level 0 has none (R47). -/
def paceEntry (p : Pace) (level : Nat) : Option PaceLevel :=
  if 1 ≤ level then (p.table[level - 1]?).join else none

/-- A level is set: level 0 never is, levels 1 to 7 when the table holds an entry. -/
def isSetLevel (p : Pace) (level : Nat) : Bool := (paceEntry p level).isSome

/-- The highest set level at or below a level, or 0 (R51). -/
def highestSet (p : Pace) : Nat → Nat
  | 0 => 0
  | n + 1 => if isSetLevel p (n + 1) then n + 1 else highestSet p n

/-- The damage cap in use: that of the reel's format, while the reel is OPEN and the Tracker is COASTING or SEARCH (R51). -/
def damageCapInUse (s : State) : Option Nat :=
  match s.reel.state, s.tracker.mode, s.tracker.fields with
  | .opened, .search, some f => some f.damageCap
  | .opened, .coasting, some f => some f.damageCap
  | _, _, _ => none

/-- The least of the requested level, the ring cap and the damage cap in use (R51). -/
def leastLevel (s : State) : Nat :=
  match damageCapInUse s with
  | some c => min (min s.pace.requested s.pace.ringCap) c
  | none => min s.pace.requested s.pace.ringCap

/-- A reel is being scanned or closed: the pace level may be above 0 (R51). -/
def reelMoves (s : State) : Bool := s.reel.state == .opened || s.reel.state == .closing

/-- The effective level that R51 forms from its inputs. -/
def formedLevel (s : State) : Nat :=
  if s.pace.faultLatch || !reelMoves s then 0 else highestSet s.pace (min (leastLevel s) 7)

/-- R52: the counters loaded with a level, with the P and Q that the Pace Table gives it now. Level 0 leaves them STOPPED; so does a
level that the table leaves unset (LE 31: none is ever the effective level). -/
def loadCounters (p : Pace) (level : Nat) : Option LoadedLevel :=
  (paceEntry p level).map (fun e => { level := level, p := e.p, q := e.q })

/-- R51 to R53: the effective level is formed anew. A rise from 0 with the counters STOPPED starts them at once, and with them the
spin-up timer while the held TRUN level is DEASSERTED; a fall to 0 stops the timer. -/
def withLevel (level : Nat) (p : Pace) : Pace :=
  if level = 0 then { p with effective := 0, spinUp := none }
  else if p.effective = 0 ∧ p.counters = none then
    { p with effective := level, counters := loadCounters p level, spinUp := if p.trun then none else some 0 }
  else { p with effective := level }

/-- The effective level is formed anew from the standing inputs (R51). -/
def formEffective (s : State) : State := { s with pace := withLevel (formedLevel s) s.pace }

/-- The requested level is forced to 0 (R49) and the effective level formed anew. -/
def forceStop (s : State) : State := formEffective { s with pace := { s.pace with requested := 0 } }

/-- R55: a transport fault. -/
def transportFault (s : State) : State :=
  raise .transportFault
    (formEffective { s with pace := { s.pace with faultLatch := true, requested := 0, spinUp := none } })

/-- R50, Table 4-2: the new ring cap from the occupancy. -/
def newRingCap (p : Pace) (r occupancy : Nat) : Nat :=
  if r - 1 ≤ occupancy then 0
  else if r * p.high / 100 ≤ occupancy then max (p.ringCap - 1) 1
  else if occupancy ≤ r * p.low / 100 then min (p.ringCap + 1) 7
  else p.ringCap

/-- R52: one divider underflow. RUNNING counters emit a pulse, then reload with the P and Q of the standing effective level, or
become STOPPED when it is 0. -/
def underflow (p : Pace) : Pace :=
  match p.counters with
  | none => p
  | some _ => { p with pulses := p.pulses + 1, counters := loadCounters p p.effective }

/-- The level a request asks for after clamping: a level above 7 stands for 7 (R48). -/
def clampLevel (level : Nat) : Nat := min level 7

/-- R48: the requested level after PACE_REQUEST, and the status of its reply. -/
def requestLevel (level : Nat) (p : Pace) : Nat × ReplyStatus :=
  if clampLevel level = 0 then (0, .ok)
  else if isSetLevel p (clampLevel level) then (clampLevel level, if 7 < level then .adjusted else .ok)
  else (p.requested, .badState)

/-- R49: the requested level that REEL_OPEN leaves. -/
def openingLevel (level : Option Nat) (p : Pace) : Nat :=
  match level with
  | none => p.requested
  | some l => if isSetLevel p (clampLevel l) then clampLevel l else 0

/-- R47: for any two set levels a below b, (P + 1)(Q + 1) of a is at least that of b. -/
def ratesRise (t : List (Option PaceLevel)) : Bool :=
  decide ((t.filterMap id).Pairwise (fun a b => (b.p + 1) * (b.q + 1) ≤ (a.p + 1) * (a.q + 1)))

/-- R47: P lies in 0 to 255 and Q in 1 to 65535 in every set level. -/
def levelsInRange (t : List (Option PaceLevel)) : Bool :=
  (t.filterMap id).all (fun l => l.p ≤ 255 && 1 ≤ l.q && l.q ≤ 65535)

/-- R47: the ranges of the watermarks. -/
def watermarksInRange (high low : Nat) : Bool := 50 ≤ high && high ≤ 95 && 10 ≤ low && low ≤ high - 10

/-- R56: a timeout after TIMING_SET: 0 keeps it, a value above its range is clamped to the top. -/
def newTimeout (limit old asked : Nat) : Nat := if asked = 0 then old else min asked limit

/-- R53: the spin-up timeout in 1 ms ticks. -/
def spinUpTicks (p : Pace) : Nat := p.spinUpTimeout * 100

/-- R11: the silence timeout in 10 ms ticks. -/
def silenceTicks (p : Pace) : Nat := p.silenceTimeout * 10

/-- R15: the stall timeout in 10 ms ticks. -/
def stallTicks (p : Pace) : Nat := p.stallTimeout

/-- A running timer's count equals or exceeds its timeout. -/
def atTimeout (timer : Option Nat) (ticks : Nat) : Bool :=
  match timer with
  | some c => ticks ≤ c
  | none => false

end Sys2Proof.Machine
end

