-- ==== Sys2Proof/Machine/FrameMemory.lean ====
section
/-! DEFINITION. The Frame Memory Controller (04_frame_memory.md): memory plan, protect boundary, availability, staging, arbiter, and the
layout of lines and records in memory. -/

namespace Sys2Proof.Machine

/-! ## Size and plan (R58, R59) -/

/-- Table 1-6: the strapped memory size in bytes, DSIZE1 the higher bit. -/
def strappedSize (straps : BitVec 2) : Nat := 536870912 * 2 ^ straps.toNat

/-- The ring window in bytes (R59). -/
def ringBytes (p : MemoryPlan) : Nat := p.r * p.wIn * 8

/-- A reference window in bytes: 128 MiB (R59). -/
def referenceBytes : Nat := 134217728

/-- R59, check 3: the ranges of W_in and R, the alignment of the bases, the ends of the windows. -/
def planInRange (size : Nat) (p : MemoryPlan) : Bool :=
  1024 ≤ p.wIn && p.wIn ≤ 4096 && p.wIn % 16 == 0 && 1024 ≤ p.r && p.r ≤ 16384
    && p.ringBase % 4096 == 0 && p.baseA % 4096 == 0 && p.baseB % 4096 == 0
    && p.ringBase + ringBytes p ≤ size && p.baseA + referenceBytes ≤ size && p.baseB + referenceBytes ≤ size

/-- Two windows share a byte. -/
def windowsMeet (base1 size1 base2 size2 : Nat) : Bool := base1 < base2 + size2 && base2 < base1 + size1

/-- R59, check 4: any two of the three windows share a byte. -/
def planOverlaps (p : MemoryPlan) : Bool :=
  windowsMeet p.ringBase (ringBytes p) p.baseA referenceBytes || windowsMeet p.ringBase (ringBytes p) p.baseB referenceBytes
    || windowsMeet p.baseA referenceBytes p.baseB referenceBytes

/-- R73: the geometry of a format fits W_in and R. -/
def geometryFits (f : ConformanceFields) (p : MemoryPlan) : Bool := f.v0 / 16 + f.hOut ≤ p.r / 2 && f.u0 + f.wOut ≤ p.wIn

/-- R59, check 5: the lowest-numbered stored format that fails the geometry checks. -/
def firstMisfit (formats : Vector (Option Format) 8) (p : MemoryPlan) : Option Nat :=
  (List.range 8).find? (fun i =>
    match (formats[i]?).join with
    | some f => !geometryFits f.conformance p
    | none => false)

/-! ## Layout (R60) -/

/-- Byte address of ring slot `s`. -/
def slotAddress (p : MemoryPlan) (s : Nat) : Nat := p.ringBase + s * p.wIn * 8

/-- Byte address of output line `j` in a reference buffer. -/
def referenceAddress (p : MemoryPlan) (buffer : Buffer) (j : Nat) : Nat :=
  (match buffer with
    | .a => p.baseA
    | .b => p.baseB) + 4096 * j * 8

/-- The eight bytes of a pixel: R, G, B and IR, each little-endian (LE 5). -/
def pixelBytes (p : Pixel) : List Byte := halfBytes p.r ++ halfBytes p.g ++ halfBytes p.b ++ halfBytes p.ir

/-- The eight bytes of a reference record; the fourth 16-bit word is 1 for UNREPAIRED. -/
def recordBytes (x : RefRecord) : List Byte :=
  halfBytes x.rgb.r ++ halfBytes x.rgb.g ++ halfBytes x.rgb.b ++ halfBytes (if x.unrepaired then 1#16 else 0#16)

/-- The pixel that eight bytes hold. -/
def pixelAt (bs : List Byte) : Pixel := ⟨halfAt bs 0, halfAt bs 2, halfAt bs 4, halfAt bs 6⟩

/-- The first `n` pixels of a run of bytes. -/
def pixelsOf : Nat → List Byte → List Pixel
  | 0, _ => []
  | n + 1, bs => pixelAt bs :: pixelsOf n (bs.drop 8)

/-- The record that a stored pixel's eight bytes hold. -/
def recordOf (p : Pixel) : RefRecord := ⟨⟨p.r, p.g, p.b⟩, p.ir == 1#16⟩

/-- The `n` pixels stored from an address. -/
def readPixels (f : FrameMemory) (a n : Nat) : List Pixel := pixelsOf n (readBytes f a (8 * n))

/-- A transfer of `n` bytes from an address stays inside the strapped memory. -/
def insideMemory (f : FrameMemory) (a n : Nat) : Bool := a + n ≤ f.size

/-! ## Protect boundary and occupancy (R43, R62, R63) -/

/-- R43: the earliest needed line E_t that the Tracker reports. -/
def earliestNeeded (t : Tracker) (writeLine : Nat) : Nat :=
  match t.mode with
  | .idle => writeLine
  | .search =>
    match t.candidates with
    | c :: _ => c.position / 16
    | [] => writeLine
  | _ =>
    match t.pendingTop, t.window with
    | some p, _ => p.position / 16
    | none, some w => w.q / 16
    | none, none => writeLine

/-- The oldest context that the Conformance Engine has not finished and that is not marked ABORTED (R62, R80). -/
def oldestUnfinished (s : State) : Option FrameContext := s.contexts.find? (fun c => !c.finished && !c.aborted)

/-- R62: the protect boundary P. -/
def protectBoundary (s : State) : Nat :=
  match oldestUnfinished s with
  | some c => min (earliestNeeded s.tracker s.intake.writeLine) (c.top / 16)
  | none => earliestNeeded s.tracker s.intake.writeLine

/-- R63: the ring occupancy. -/
def occupancy (s : State) : Nat := s.frameMemory.fillLine - protectBoundary s

/-! ## Availability (R69) -/

/-- Line L is in an intake write transfer of this reel. -/
def inIntakeTransfer (f : FrameMemory) (l : Nat) : Bool :=
  match f.channel with
  | some (.intakeWrite n _ _ _ stale) => n == l && !stale
  | _ => false

/-- Slot L mod R is VALID with tag L. -/
def holdsLine (f : FrameMemory) (l : Nat) : Bool :=
  match f.plan with
  | some p => tableGet f.slots (l % p.r) == some l
  | none => false

/-- Line L is at or beyond the end-of-lines mark. -/
def beyondEnd (i : Intake) (l : Nat) : Bool :=
  match i.endMark with
  | some m => m ≤ l
  | none => false

/-- R69, Table 5-4: the first row that holds. -/
def availability (s : State) (l : Nat) : Verdict :=
  if holdsLine s.frameMemory l then .available
  else if beyondEnd s.intake l then .unavailable
  else if s.intake.staging.any (fun e => e.number == l) || inIntakeTransfer s.frameMemory l || s.intake.writeLine ≤ l then .pending
  else .unavailable

/-! ## Requests and choice (R65, R67, R68) -/

/-- The head staging entry is already being transferred. -/
def headInTransfer (s : State) : Bool :=
  match s.intake.staging with
  | e :: _ => inIntakeTransfer s.frameMemory e.number
  | [] => false

/-- A requester presents a request (Table 5-3). -/
def presented (s : State) : Requester → Bool
  | .intakeWrite => !s.intake.staging.isEmpty && !headInTransfer s && s.frameMemory.plan.isSome
  | .conformanceRead => s.conformance.readRequest.isSome
  | .referenceRead => s.repair.readRequest
  | .referenceWrite => s.repair.writeRequest

/-- The requesters in priority order. -/
def requesters : List Requester := [.intakeWrite, .conformanceRead, .referenceRead, .referenceWrite]

/-- R68: a presented requester with a count of 8 goes first, the highest priority deciding; else the highest priority presented. -/
def chooseRequester (s : State) : Option Requester :=
  match requesters.find? (fun r => presented s r && countOf s.frameMemory.aging r == 8) with
  | some r => some r
  | none => requesters.find? (fun r => presented s r)

/-- R68: the counts after a choice that granted `g`. -/
def agedCounts (s : State) (g : Requester) : PerRequester :=
  requesters.foldl
    (fun p r => if r = g then setCount p r 0 else if presented s r then setCount p r (min (countOf p r + 1) 8) else p)
    s.frameMemory.aging

/-- A requester that withdraws its request without a grant has its count set to 0 (R68). -/
def withdrawCount (s : State) (r : Requester) (p : PerRequester) : PerRequester := if presented s r then setCount p r 0 else p

/-- R65: the staging buffer is emptied, without counting, and its request withdrawn. -/
def emptyStaging (s : State) : State :=
  { s with
    intake := { s.intake with staging := [] },
    frameMemory := { s.frameMemory with aging := withdrawCount s .intakeWrite s.frameMemory.aging } }

/-- R61: an intake write in flight becomes stale. -/
def staleTransfer : Option Transfer → Option Transfer
  | some (.intakeWrite n slot a px _) => some (.intakeWrite n slot a px true)
  | t => t

/-- R68: a read in flight is discarded at completion and a reference write completes unreported, once their engine is reset. -/
def discardTransfer : Option Transfer → Option Transfer
  | some (.conformanceRead l a n _) => some (.conformanceRead l a n true)
  | some (.referenceRead a n _) => some (.referenceRead a n true)
  | some (.referenceWrite a x _) => some (.referenceWrite a x true)
  | t => t

/-- R68: the engines' requests are withdrawn and their transfers in flight lose their effect on them. -/
def withdrawEngines (s : State) : State :=
  { s with
    frameMemory :=
      { s.frameMemory with
        aging := withdrawCount s .referenceWrite (withdrawCount s .referenceRead
          (withdrawCount s .conformanceRead s.frameMemory.aging)),
        channel := discardTransfer s.frameMemory.channel },
    conformance := { s.conformance with readRequest := none },
    repair := { s.repair with readRequest := false, writeRequest := false } }

/-- R65, R66: a received line joins staging, or overwrites the newest of four entries, which becomes missing. -/
def stageLine (l : SourceLine) (s : State) : State :=
  if s.intake.staging.length < 4 then { s with intake := { s.intake with staging := s.intake.staging ++ [l] } }
  else
    { s with
      intake :=
        { s.intake with
          staging := s.intake.staging.dropLast ++ [l],
          counters :=
            { s.intake.counters with
              linesTaken := s.intake.counters.linesTaken - 1,
              missingLines := satAdd s.intake.counters.missingLines 1 } },
      frameMemory := { s.frameMemory with overruns := satAdd s.frameMemory.overruns 1 } }

end Sys2Proof.Machine
end

