-- ==== Sys2Proof/Machine/Conformance.lean ====
section
/-! DEFINITION. The Conformance Engine (05_geometric_conformance.md): the mapping, gathering, substitution and handing on of lines. -/

namespace Sys2Proof.Machine

/-! ## Mapping (R74 to R78) -/

/-- Two samples blended with weights `total - w` and `w`, half the total added before the floor (R75, R76, R117, R120). -/
def mixSamples (total w : Nat) (a b : Half) : Half :=
  BitVec.ofNat 16 (((total - w) * a.toNat + w * b.toNat + total / 2) / total)

/-- The four channels of two pixels blended. -/
def mixPixels (total w : Nat) (x y : Pixel) : Pixel :=
  ⟨mixSamples total w x.r y.r, mixSamples total w x.g y.g, mixSamples total w x.b y.b, mixSamples total w x.ir y.ir⟩

/-- R74: the vertical position of output line `j` in fine steps. -/
def verticalPosition (top appliedS v0 j : Nat) : Nat := 16 * top + ((16 * v0 + 256 * j) * appliedS + 32768) / 65536

/-- R78: the last needed line of a frame. -/
def lastNeededLine (top appliedS : Nat) (f : ConformanceFields) : Nat :=
  verticalPosition top appliedS f.v0 (f.hOut - 1) / 256 + 1

/-- R76: column and fraction of output pixel `i`, the column before clamping. -/
def columnOf (u0 : Nat) (h : Int) (i : Nat) : Int × Nat :=
  let x := 16 * ((u0 : Int) + (i : Int)) + h
  (x / 16, (x % 16).toNat)

/-- The column map of a frame (Table 6-2). -/
def columnMap (f : ConformanceFields) (h : Int) : List (Int × Nat) := (List.range f.wOut).map (columnOf f.u0 h)

/-- R77: a column clamped to 0 to W_in - 1. -/
def clampColumn (wIn : Nat) (x : Int) : Nat := min x.toNat (wIn - 1)

/-- A pixel of zero samples. -/
def zeroPixel : Pixel := ⟨0#16, 0#16, 0#16, 0#16⟩

/-- R75: the vertical intermediate of two source lines. -/
def verticalIntermediate (f : Nat) (a b : List Pixel) : List Pixel :=
  if f = 0 then a else List.zipWith (mixPixels 256 f) a b

/-- R76, R77: an output line from an intermediate line. -/
def horizontalLine (wIn : Nat) (columns : List (Int × Nat)) (inter : List Pixel) : List Pixel :=
  columns.map (fun c =>
    mixPixels 16 c.2 (inter.getD (clampColumn wIn c.1) zeroPixel) (inter.getD (clampColumn wIn (c.1 + 1)) zeroPixel))

/-- The pixels of the held line: zero samples while it is marked "initial" (R79). -/
def heldPixels (wIn : Nat) : HeldLine → List Pixel
  | .initial => List.replicate wIn zeroPixel
  | .line _ px => px

/-! ## Gathering (R81, R82) -/

/-- The source lines that output line `j` needs (R74). -/
def neededLines (y : Nat) : List Nat := if y % 256 = 0 then [y / 256] else [y / 256, y / 256 + 1]

/-- A line stands in the source window. -/
def inWindow (w : List SourceLine) (l : Nat) : Bool := w.any (fun x => x.number == l)

/-- The pixels of a line of the source window. -/
def windowPixels (w : List SourceLine) (l : Nat) : List Pixel :=
  match w.find? (fun x => x.number == l) with
  | some x => x.pixels
  | none => []

/-- READ, whether read for this output line or kept from the previous one. -/
def isRead (v : Verdict) : Bool := v == .read || v == .kept

/-- A verdict that settles its line (R81). -/
def isSettled (v : Verdict) : Bool := isRead v || v == .unavailable

/-- A read of the engine's own is presented or in transfer (R82). DESIGN CHOICE (LE 33): a read that an abort or SOFT_RESET has marked
discarded is no longer the engine's own, so the next reel may present one beside it. -/
def readOutstanding (s : State) : Bool :=
  s.conformance.readRequest.isSome ||
    match s.frameMemory.channel with
    | some (.conformanceRead _ _ _ discard) => !discard
    | _ => false

/-- R82: the engine presents a read for the lowest AVAILABLE line, one at a time. -/
def presentRead (job : FrameJob) (s : State) : State :=
  if readOutstanding s then s
  else
    match job.needed.find? (fun n => n.verdict == .available) with
    | some n => { s with conformance := { s.conformance with readRequest := some n.line } }
    | none => s

/-! ## Building an output line (R83 to R85) -/

/-- The pixels of a needed line, none when it is UNAVAILABLE. -/
def neededPixels (w : List SourceLine) (n : NeededLine) : Option (List Pixel) :=
  if isRead n.verdict then some (windowPixels w n.line) else none

/-- R83, Table 6-4: what an output line is built from. -/
inductive LineSource where
  | lines (a b : List Pixel) (substituted : Bool)
  | repeatPrevious (px : List Pixel)

/-- R83, Table 6-4: the sources of an output line, with the held line as it stood when gathering began. -/
def lineSource (held : List Pixel) (previous : Option (List Pixel)) (a : Option (List Pixel)) (b : Option (Option (List Pixel))) :
    LineSource :=
  match a, b with
  | some x, none => .lines x x false
  | none, none => .lines held held true
  | some x, some (some y) => .lines x y false
  | some x, some none => .lines x x true
  | none, some (some y) => .lines held y true
  | none, some none =>
    match previous with
    | some p => .repeatPrevious p
    | none => .lines held held true

/-- The pixels of an output line from its sources, and whether a substitution was made (R83). -/
def outputPixels (wIn f : Nat) (columns : List (Int × Nat)) : LineSource → List Pixel × Bool
  | .lines a b sub => (horizontalLine wIn columns (verticalIntermediate f a b), sub)
  | .repeatPrevious px => (px, true)

/-- R85, step 1: the held line after a build: the highest line read for it, if any. -/
def heldAfter (w : List SourceLine) (needed : List NeededLine) (held : HeldLine) : HeldLine :=
  match (needed.filter (fun n => n.verdict == .read)).getLast? with
  | some n => .line n.line (windowPixels w n.line)
  | none => held

/-- R85, step 3: the READ needed lines stay in the source window. -/
def windowAfter (w : List SourceLine) (needed : List NeededLine) : List SourceLine :=
  w.filter (fun x => needed.any (fun n => n.line == x.number && isRead n.verdict))

/-- R84: a substitution marks the context INCOMPLETE and counts the line. -/
def markSubstituted (c : FrameContext) : FrameContext := { c with incomplete := true, substituted := c.substituted + 1 }

/-- R85: the settled output line is built, kept as the previous line and offered. -/
def buildLine (copy : ConformanceCopy) (job : FrameJob) (s : State) : State :=
  let c := s.conformance
  let y := verticalPosition job.top job.appliedS copy.fields.v0 job.j
  let a := (job.needed.head?).bind (neededPixels c.window)
  let b := (job.needed[1]?).map (neededPixels c.window)
  let out := outputPixels copy.wIn (y % 256) job.columns (lineSource (heldPixels copy.wIn c.held) job.previous a b)
  let s := if out.2 then writeContext job.frame markSubstituted s else s
  { s with
    conformance :=
      { c with
        mode := .offering { job with previous := some out.1 } ⟨job.frame, job.j, out.1⟩,
        held := heldAfter c.window job.needed c.held,
        window := windowAfter c.window job.needed } }

/-- The output line is built if every needed line is settled; otherwise a read is presented if one can be (R81, R82). -/
def advanceLine (s : State) : State :=
  match s.conformance.mode, s.conformance.copy with
  | .gathering job, some copy =>
    if job.needed.all (fun n => isSettled n.verdict) then buildLine copy job s else presentRead job s
  | _, _ => s

/-- R81: the engine enters GATHERING for output line `j`. -/
def enterGathering (copy : ConformanceCopy) (job : FrameJob) (j : Nat) (s : State) : State :=
  let lines := neededLines (verticalPosition job.top job.appliedS copy.fields.v0 j)
  let needed := lines.map (fun l =>
    ({ line := l, verdict := if inWindow s.conformance.window l then .kept else availability s l } : NeededLine))
  advanceLine { s with conformance := { s.conformance with mode := .gathering { job with j := j, needed := needed } } }

/-- R81: the controller reports a change, and the engine asks again about its PENDING lines. -/
def reportChange (s : State) : State :=
  match s.conformance.mode with
  | .gathering job =>
    let needed := job.needed.map (fun n => if n.verdict = .pending then { n with verdict := availability s n.line } else n)
    advanceLine { s with conformance := { s.conformance with mode := .gathering { job with needed := needed } } }
  | _ => s

/-! ## Taking and finishing frames (R80, R86) -/

/-- R80: the engine, with no frame in hand, takes the oldest unfinished context, or is IDLE. -/
def takeFrame (s : State) : State :=
  let s := { s with conformance := { s.conformance with mode := .idle, window := [] } }
  match oldestUnfinished s, s.conformance.copy with
  | some c, some copy =>
    enterGathering copy
      { frame := c.frame, top := c.top, appliedS := c.appliedS, j := 0, columns := columnMap copy.fields c.appliedH, needed := [],
        previous := none } 0 s
  | _, _ => s

/-- R80: a context has been created; an IDLE engine takes it. -/
def takeIfIdle (s : State) : State :=
  match s.conformance.mode with
  | .idle => takeFrame s
  | _ => s

/-- R86: the frame is finished and its protection released; the engine goes to the next context. -/
def finishFrame (n : Nat) (s : State) : State := takeFrame (writeContext n (fun c => { c with finished := true }) s)

/-- R85, R86: the Repair Engine has taken the offered line. -/
def lineTaken (s : State) : State :=
  match s.conformance.mode, s.conformance.copy with
  | .offering job _, some copy =>
    if job.j + 1 < copy.fields.hOut then enterGathering copy job (job.j + 1) s else finishFrame job.frame s
  | _, _ => s

/-- R82: a read line enters the source window, a line no longer needed giving up its buffer, and its verdict becomes READ. -/
def lineRead (l : Nat) (px : List Pixel) (s : State) : State :=
  match s.conformance.mode with
  | .gathering job =>
    let kept := s.conformance.window.filter (fun x => job.needed.any (fun n => n.line == x.number && n.line != l))
    let needed := job.needed.map (fun n => if n.line = l then { n with verdict := .read } else n)
    advanceLine
      { s with
        conformance :=
          { s.conformance with window := kept ++ [⟨l, px⟩], mode := .gathering { job with needed := needed } } }
  | _ => s

/-- Table 6-3, reel abort column: the held line and the copy are kept. -/
def Conformance.abort (c : Conformance) : Conformance := { c with mode := .idle, window := [], readRequest := none }

/-- Table 6-3, SOFT_RESET column. -/
def Conformance.softReset (c : Conformance) : Conformance := { c.abort with held := .initial }

/-- Table 6-3, REEL_OPEN column. -/
def Conformance.opening (f : ConformanceFields) (p : MemoryPlan) : Conformance :=
  { mode := .idle, window := [], held := .initial, copy := some ⟨f, p.wIn, p.r⟩, readRequest := none }

end Sys2Proof.Machine
end

