-- ==== Sys2Proof/Machine/Tracker.lean ====
section
/-! DEFINITION. The Frame Tracker (02_frame_tracking.md): perforation filter, Perf Window, resolution, lock and lock loss, splices and
pitch steps, shrink and weave, cutting of frames. -/

namespace Sys2Proof.Machine

/-- The tracker's block replaced. -/
def setTracker (t : Tracker) (s : State) : State := { s with tracker := t }

/-- The counters of the tracker changed. -/
def countTracker (f : TrackerCounters → TrackerCounters) (s : State) : State :=
  setTracker { s.tracker with counters := f s.tracker.counters } s

/-- A change of tracker state, reported at once to the Pace Generator (Table 3-2, R51). -/
def setMode (m : TrackerMode) (s : State) : State := formEffective (setTracker { s.tracker with mode := m } s)

/-! ## Arithmetic of the tracker -/

/-- R21: the predicted pitch from S. -/
def predictedPitch (f : TrackingFields) (shrink : Nat) : Nat := (f.nominalPitch * shrink + 32768) / 65536

/-- R34: S from the pitches held, before clamping. -/
def shrinkOf (nominalPitch : Nat) (history : List Nat) : Nat :=
  let d := history.length * nominalPitch
  (65536 * history.sum + d / 2) / d

/-- R37: H from a tally, before clamping; none when no line was received. -/
def weaveOf (referenceEdge : Int) (t : Tally) : Option Int :=
  if t.received = 0 then none
  else
    let n : Int := t.received
    some (((t.sum - n * referenceEdge) + n / 2) / n)

/-- R30: the elapsed count of a position from q_top, half rounded up. -/
def elapsedCount (qTop position pitch : Nat) : Nat := (2 * (position - qTop) + pitch) / (2 * pitch)

/-! ## Perforation filter (R19, R20) -/

/-- An edge: whether it rises, and its position. -/
structure Edge where
  rising : Bool
  position : Nat
  deriving DecidableEq, Repr

/-- The run after a further sample of value `v` at `pos`, the run's length raised by 1 or started anew. -/
def extendRun (run : Option SampleRun) (v : Bool) (pos : Nat) : SampleRun :=
  match run with
  | some r => if r.value = v then { r with length := r.length + 1 } else ⟨v, 1, pos⟩
  | none => ⟨v, 1, pos⟩

/-- The level a raw value settles to. -/
def levelOf (v : Bool) : Level := if v then .high else .low

/-- R19: one raw sample through the filter, with the edge it records. -/
def filterSample (f : Filter) (v : Bool) (pos : Nat) : Filter × Option Edge :=
  if f.level = levelOf v then ({ f with run := none }, none)
  else
    let r := extendRun f.run v pos
    if 3 ≤ r.length then
      (⟨levelOf v, none⟩, if f.level = .undefined then none else some ⟨v, r.first⟩)
    else ({ f with run := some r }, none)

/-- R20: a sample of a missing line clears the run. -/
def filterMissing (f : Filter) : Filter := { f with run := none }

/-- An edge in the polarity of the format (R19). -/
def isActive (p : Polarity) (e : Edge) : Bool :=
  match p with
  | .rising => e.rising
  | .falling => !e.rising

/-! ## Edge Log and weave tallies (R18, R36) -/

/-- The tally takes one line's edge entry while it has covered fewer than 16 lines. -/
def tallyTake (t : Tally) (e : EdgeEntry) : Tally :=
  if t.covered < 16 then
    match e.edge with
    | some x => { t with covered := t.covered + 1, received := t.received + 1, sum := t.sum + x }
    | none => { t with covered := t.covered + 1 }
  else t

/-- R36: the tally of a perforation, opened from the Edge Log up to the line being examined. -/
def openTally (log : List EdgeEntry) (position : Nat) : Tally :=
  (log.filter (fun e => position / 16 ≤ e.line)).foldl tallyTake ⟨position / 16, 0, 0, 0⟩

/-- R18: the log holds the 160 lines examined most recently. -/
def logEntry (log : List EdgeEntry) (e : EdgeEntry) : List EdgeEntry := (log ++ [e]).drop (log.length + 1 - 160)

/-- R18, steps 2 and 3: the line's entry joins the log and every open tally. -/
def takeEntry (e : EdgeEntry) (t : Tracker) : Tracker :=
  { t with
    edgeLog := logEntry t.edgeLog e,
    candidates := t.candidates.map (fun c => { c with tally := tallyTake c.tally e }),
    pendingTop := t.pendingTop.map (fun p => { p with tally := tallyTake p.tally e }) }

/-! ## Cutting a frame (R35, R37, R39, R40) -/

/-- R37: the H of the pending top, the last frame's H when no line was received. -/
def pendingWeave (t : Tracker) (top : PendingTop) : Int :=
  match t.fields with
  | some f => (weaveOf f.referenceEdge top.tally).getD t.lastH
  | none => t.lastH

/-- R40: 1 for a synthesized perforation. -/
def synthCount (st : PerfStatus) : Nat := if st = .synthesized then 1 else 0

/-- R32: a standing splice mark at or before the top is consumed by the frame. -/
def takesMark (mark : Option Nat) (top : Nat) : Bool :=
  match mark with
  | some m => m ≤ top
  | none => false

/-- R78: the last needed line at creation, 0 while no format is copied. -/
def creationLastNeeded (s : State) (top appliedS : Nat) : Nat :=
  match s.conformance.copy with
  | some c => lastNeededLine top appliedS c.fields
  | none => 0

/-- Table 3-6: the context created at a cut. DESIGN CHOICE (LE 37): the table gives the current set, the weight and GRADE_MISS no value
before the frame's start in grading; they stand absent, 0 and clear until then. -/
def newContext (s : State) (top : PendingTop) (at_ : CutState) (synthesized : Nat) : FrameContext :=
  let t := s.tracker
  let a := appliedShrink t.shrink
  let h := appliedWeave (pendingWeave t top)
  { frame := t.frameCounter, reelSequence := s.reel.sequence, top := top.position, topStatus := top.status,
    synthesized := synthesized, splice := takesMark t.spliceMark top.position, appliedS := a.1, shrinkClamp := a.2,
    appliedH := h.1, weaveClamp := h.2, cutState := at_, lastNeeded := creationLastNeeded s top.position a.1,
    incomplete := false, substituted := 0, temporal := 0, spatial := 0, scratchPixels := 0, unrepaired := 0,
    referenceUsed := false, currentSet := none, targetSet := none, weight := 0, firedCue := none, gradeMiss := false,
    meanR := 0, meanG := 0, meanB := 0, clipped := 0, aborted := false, finished := false, opened := false }

/-- The tracker after a cut: the number is consumed, H kept, the mark consumed, the top no longer pending (R32, R37, R39). -/
def afterCut (t : Tracker) (top : PendingTop) : Tracker :=
  { t with
    pendingTop := none,
    frameCounter := t.frameCounter + 1,
    lastH := (appliedWeave (pendingWeave t top)).1,
    lastCut := some ⟨top.position, t.frameCounter⟩,
    spliceMark := if takesMark t.spliceMark top.position then none else t.spliceMark }

/-- An occurrence raised when a mark is set. -/
def raiseIf (b : Bool) (c : NoticeClass) (s : State) : State := if b then raise c s else s

/-- Frames lost: the counter rises and one occurrence is raised (R30, R39). -/
def loseFrames (n : Nat) (s : State) : State :=
  if n = 0 then s
  else raise .framesLost (countTracker (fun c => { c with framesLost := satAdd c.framesLost n }) s)

/-- R39: the pending frame, if any, is cut. `extra` is the cutting perforation's part of the span count (R40). -/
def cutFrame (at_ : CutState) (extra : Nat) (s : State) : State :=
  match s.tracker.pendingTop with
  | none => s
  | some top =>
    let c := newContext s top at_ (synthCount top.status + extra)
    let s := setTracker (afterCut s.tracker top) s
    if s.contexts.length < 32 then
      takeIfIdle (raiseIf c.weaveClamp .clamp (raiseIf c.shrinkClamp .clamp { s with contexts := s.contexts ++ [c] }))
    else loseFrames 1 s

/-! ## Resolution (R24 and the rules of its steps) -/

/-- How a perforation resolved: accepted with its deviation, or synthesized (R22, R23). -/
inductive Resolution where
  | accepted (d : Int)
  | synthesized
  deriving DecidableEq, Repr

/-- The status of a resolution. -/
def statusOf : Resolution → PerfStatus
  | .accepted _ => .accepted
  | .synthesized => .synthesized

/-- Step 1 of R24. -/
def countResolution (r : Resolution) (s : State) : State :=
  countTracker
    (fun c =>
      { c with
        perforationsSeen := satAdd c.perforationsSeen 1,
        synthesized := satAdd c.synthesized (synthCount (statusOf r)) }) s

/-- Step 2 of R24: R26. -/
def moveState (r : Resolution) (s : State) : State :=
  let t := s.tracker
  match r with
  | .synthesized => setMode .coasting (setTracker { t with synthRun := t.synthRun + 1, acceptRun := 0 } s)
  | .accepted _ =>
    match t.mode with
    | .coasting =>
      if 2 ≤ t.acceptRun + 1 then setMode .locked (setTracker { t with synthRun := 0, acceptRun := 2 } s)
      else setTracker { t with synthRun := 0, acceptRun := t.acceptRun + 1 } s
    | _ => setTracker { t with synthRun := 0 } s

/-- The verdict that a resolution gives on a SUSPECT perforation (Table 3-3). -/
inductive SuspectVerdict where
  | splice | pitchStep | irregular | droppedBySynthesis
  deriving DecidableEq, Repr

/-- Table 3-3. -/
def verdictOn (threshold : Nat) (suspect : Suspect) : Resolution → SuspectVerdict
  | .synthesized => .droppedBySynthesis
  | .accepted d =>
    if d.natAbs < threshold then .splice
    else if (0 < d) = suspect.positive then .pitchStep
    else .irregular

/-- The tracker after a verdict: the counters and the splice mark (R31, R32); the history is step 4's. -/
def applyVerdict (v : SuspectVerdict) (suspect : Suspect) (t : Tracker) : Tracker :=
  let t := { t with suspect := none }
  match v with
  | .splice =>
    { t with
      spliceMark := some (t.spliceMark.getD suspect.position),
      counters := { t.counters with splices := satAdd t.counters.splices 1 } }
  | .pitchStep => { t with counters := { t.counters with pitchSteps := satAdd t.counters.pitchSteps 1 } }
  | _ => { t with counters := { t.counters with irregular := satAdd t.counters.irregular 1 } }

/-- Step 3 of R24: a verdict on an earlier SUSPECT, or a new SUSPECT. The verdict given, if any, is answered beside the tracker. -/
def judgeSuspect (threshold position : Nat) (r : Resolution) (t : Tracker) : Tracker × Option SuspectVerdict :=
  match t.suspect with
  | some suspect =>
    let v := verdictOn threshold suspect r
    (applyVerdict v suspect t, some v)
  | none =>
    match r with
    | .accepted d => if threshold ≤ d.natAbs then ({ t with suspect := some ⟨position, 0 < d⟩ }, none) else (t, none)
    | .synthesized => (t, none)

/-- R34: a pitch has entered: S is recomputed and held within the tracking range. -/
def withHistory (nominalPitch : Nat) (history : List Nat) (t : Tracker) : Tracker :=
  { t with history := history, shrink := trackingShrink (shrinkOf nominalPitch history) }

/-- R33: a pitch enters the history, the oldest of sixteen leaving. -/
def pushPitch (history : List Nat) (pitch : Nat) : List Nat := (history ++ [pitch]).drop (history.length + 1 - 16)

/-- Step 4 of R24: R33. `nearSuspect` says that the previous perforation was SUSPECT before step 3; `previous` is its position. -/
def updateShrink (nominalPitch position : Nat) (previous : Option Nat) (nearSuspect : Bool) (verdict : Option SuspectVerdict)
    (r : Resolution) (t : Tracker) : Tracker :=
  match r, previous with
  | .accepted _, some q =>
    if verdict = some .pitchStep then
      if t.mode = .locked then withHistory nominalPitch [position - q] t else { t with history := [] }
    else if t.mode = .locked ∧ t.lastAccepted ∧ ¬nearSuspect ∧ t.suspect = none then
      withHistory nominalPitch (pushPitch t.history (position - q)) t
    else t
  | _, _ => t

/-- R30: a re-lock's new top takes its number: q_top's plus elapsed div K, at least one more (LE 16); the skipped frames are lost. -/
def rephase (f : TrackingFields) (position : Nat) (s : State) : State :=
  match s.tracker.rephasing, s.tracker.qTop with
  | true, some q =>
    let frames := max 1 (elapsedCount q.position position (predictedPitch f s.tracker.shrink) / f.k)
    loseFrames (frames - 1) (setTracker { s.tracker with rephasing := false, frameCounter := q.frame + frames } s)
  | _, _ => s

/-- Step 6 of R24: R38. The countdown moves; at 0 the perforation is the next top, with the tally given. -/
def moveCountdown (f : TrackingFields) (position : Nat) (st : PerfStatus) (tally : Tally) (s : State) : State :=
  let t := s.tracker
  match t.countdown with
  | none => s
  | some c =>
    if c ≤ 1 then
      rephase f position
        (setTracker
          { t with countdown := some f.k, pendingTop := some ⟨position, st, tally⟩, nudge := none, spanIndex := some 0 } s)
    else setTracker { t with countdown := some (c - 1), spanIndex := t.spanIndex.map (· + 1) } s

/-- Step 7 of R24: R40. A synthesized perforation of the span, the third or a later one, counts on the span's frame until conformance
has finished it. -/
def updateSpan (f : TrackingFields) (st : PerfStatus) (s : State) : State :=
  match s.tracker.spanIndex, s.tracker.lastCut with
  | some i, some cut =>
    if 2 ≤ i ∧ i < f.k then
      writeContext cut.frame
        (fun c => if c.finished then c else { c with synthesized := c.synthesized + synthCount st }) s
    else s
  | _, _ => s

/-- Step 8 of R24: R21. -/
def setWindow (f : TrackingFields) (position : Nat) (st : PerfStatus) (s : State) : State :=
  setTracker
    { s.tracker with
      window := some ⟨position, predictedPitch f s.tracker.shrink, f.tol⟩,
      lastAccepted := decide (st = .accepted) } s

/-- The state at a cut outside IDLE and SEARCH. -/
def cutStateOf (m : TrackerMode) : CutState := if m = .coasting then .coasting else .locked

/-- R40: the cutting perforation's part of the count at creation: it is in the span when K is 2 or more. -/
def cutterCount (k : Nat) (st : PerfStatus) : Nat := if 2 ≤ k then synthCount st else 0

/-- Steps 5 to 8 of R24. -/
def finishResolution (f : TrackingFields) (position : Nat) (st : PerfStatus) (tally : Tally) (s : State) : State :=
  setWindow f position st
    (updateSpan f st
      (moveCountdown f position st tally (cutFrame (cutStateOf s.tracker.mode) (cutterCount f.k st) s)))

/-- Steps 3 and 4 of R24. -/
def judgeAndMeasure (f : TrackingFields) (position : Nat) (r : Resolution) (t : Tracker) : Tracker :=
  let judged := judgeSuspect f.spliceThreshold position r t
  updateShrink f.nominalPitch position (t.window.map (·.q)) t.suspect.isSome judged.2 r judged.1

/-- R24: one resolution in LOCKED or COASTING, its eight steps in order. -/
def resolve (f : TrackingFields) (position : Nat) (r : Resolution) (s : State) : State :=
  let s := moveState r (countResolution r s)
  let s := setTracker (judgeAndMeasure f position r s.tracker) s
  finishResolution f position (statusOf r) (openTally s.tracker.edgeLog position) s

/-! ## Lock and lock loss (R27 to R30) -/

/-- R28: a candidate resolves at lock: R24 without its steps 2 to 4. -/
def resolveCandidate (f : TrackingFields) (c : Candidate) (s : State) : State :=
  finishResolution f c.position .accepted c.tally (countResolution (.accepted 0) s)

/-- R28, R30: the top countdown set before e1 resolves. -/
def lockCountdown (f : TrackingFields) (t : Tracker) (e1 e2 e3 : Candidate) : Nat :=
  match t.qTop with
  | none => 1
  | some q =>
    let elapsed := fun (c : Candidate) => elapsedCount q.position c.position (predictedPitch f t.shrink)
    let isTop := fun (c : Candidate) => decide (0 < elapsed c ∧ elapsed c % f.k = 0)
    if isTop e1 then 1
    else if isTop e2 then 2
    else if isTop e3 then 3
    else 3 + f.k - elapsed e3 % f.k

/-- R28: lock is acquired on three candidates. -/
def acquireLock (f : TrackingFields) (e1 e2 e3 : Candidate) (s : State) : State :=
  let t := s.tracker
  let s := setMode .locked
    (setTracker
      { t with
        synthRun := 0, acceptRun := 0, candidates := [], countdown := some (lockCountdown f t e1 e2 e3),
        rephasing := t.qTop.isSome, spanIndex := none } s)
  resolveCandidate f e3 (resolveCandidate f e2 (resolveCandidate f e1 s))

/-- R27: two positions lie within tol of the predicted pitch. -/
def nearPitch (pitch tol : Nat) (a b : Nat) : Bool := b - a ≤ pitch + tol && pitch ≤ (b - a) + tol

/-- R27: a new active edge in SEARCH joins the candidate list, the oldest of three leaving, and may complete the lock. -/
def addCandidate (f : TrackingFields) (position : Nat) (s : State) : State :=
  let t := s.tracker
  let kept := if 3 ≤ t.candidates.length then t.candidates.drop 1 else t.candidates
  let list := kept ++ [⟨position, openTally t.edgeLog position⟩]
  let s := setTracker { t with candidates := list } s
  match list with
  | [e1, e2, e3] =>
    let pitch := predictedPitch f t.shrink
    if nearPitch pitch f.tol e1.position e2.position && nearPitch pitch f.tol e2.position e3.position then acquireLock f e1 e2 e3 s
    else s
  | _ => s

/-- R29, steps 1 and 3 to 5, on the tracker: the suspect is dropped, q_top kept, window, countdown and nudge discarded, the candidate
list empty, and after a sequence break the filter reset. -/
def loosen (atBreak : Bool) (t : Tracker) : Tracker :=
  { t with
    qTop := t.lastCut, window := none, countdown := none, nudge := none, candidates := [], rephasing := false,
    spanIndex := none, filter := if atBreak then Filter.undefined else t.filter }

/-- R29, step 1: a SUSPECT perforation is dropped without a verdict and counted irregular. -/
def dropSuspect (t : Tracker) : Tracker :=
  match t.suspect with
  | some _ => { t with suspect := none, counters := { t.counters with irregular := satAdd t.counters.irregular 1 } }
  | none => t

/-- R29: the Tracker loses its lock. -/
def loseLock (atBreak : Bool) (s : State) : State :=
  let s := setTracker (dropSuspect s.tracker) s
  let s := cutFrame (cutStateOf s.tracker.mode) 0 s
  let s := setMode .search (setTracker (loosen atBreak s.tracker) s)
  raise .lockLost (countTracker (fun c => { c with lockLosses := satAdd c.lockLosses 1 }) s)

/-! ## The window (R22, R23) and the samples of a line (R18) -/

/-- R22: an active edge reaches an open window. -/
def windowEdge (f : TrackingFields) (w : PerfWindow) (e : Nat) (s : State) : State :=
  if e + w.tol < w.q + w.pitch then countTracker (fun c => { c with spuriousEdges := satAdd c.spuriousEdges 1 }) s
  else if e ≤ w.q + w.pitch + w.tol then resolve f e (.accepted ((e : Int) - ((w.q : Int) + (w.pitch : Int)))) s
  else s

/-- An active edge goes to the window in LOCKED and COASTING and to the candidate list in SEARCH (Table 3-2). -/
def takeEdge (f : TrackingFields) (e : Nat) (s : State) : State :=
  match s.tracker.mode with
  | .search => addCandidate f e s
  | .idle => s
  | _ =>
    match s.tracker.window with
    | some w => windowEdge f w e s
    | none => s

/-- R23, R26: the window closes without an edge at position q + pitch + tol + 2: a perforation is synthesized, or the lock is lost. -/
def closeWindow (f : TrackingFields) (pos : Nat) (s : State) : State :=
  match s.tracker.window with
  | some w =>
    if w.q + w.pitch + w.tol + 2 ≤ pos then
      if s.tracker.synthRun < f.coastLimit then resolve f (w.q + w.pitch) .synthesized s else loseLock false s
    else s
  | none => s

/-- One sample of a line: the filter, the edge it records, then the closing test (R19, R22, R23). `v` is none in a missing line. -/
def examineSample (f : TrackingFields) (v : Option Bool) (pos : Nat) (s : State) : State :=
  match v with
  | none => closeWindow f pos (setTracker { s.tracker with filter := filterMissing s.tracker.filter } s)
  | some b =>
    let r := filterSample s.tracker.filter b pos
    let s := setTracker { s.tracker with filter := r.1 } s
    let s :=
      match r.2 with
      | some e => if isActive f.polarity e then takeEdge f e.position s else s
      | none => s
    closeWindow f pos s

/-- The samples of a line from phase `p`, `n` of them, in phase order (R18, step 4). -/
def examineFrom (f : TrackingFields) (line : Nat) (perf : Option Half) : Nat → Nat → State → State
  | _, 0, s => s
  | p, n + 1, s =>
    examineFrom f line perf (p + 1) n (examineSample f (perf.map (fun w => w.getLsbD p)) (16 * line + p) s)

/-- R18, step 1: a sequence break is acted on before any sample (R27, R29). -/
def actOnBreak (s : State) : State :=
  match s.tracker.mode with
  | .search => setTracker { s.tracker with candidates := [], filter := Filter.undefined } s
  | .idle => s
  | _ => loseLock true s

/-- A line record as the Intake Port hands it on: the line number, the edge position and perf sample word of a received line, and the
sequence-break mark (R18). -/
structure LineRecord where
  line : Nat
  received : Option (Int × Half)
  atBreak : Bool
  deriving DecidableEq, Repr

/-- R18: a received line examined in SEARCH is unframed. DESIGN CHOICE (LE 42): the state is the one in which the samples' examination
begins; a lock gained or lost within the line's own samples does not change the count. -/
def countUnframed (r : LineRecord) (s : State) : State :=
  if s.tracker.mode = .search ∧ r.received.isSome then
    countTracker (fun c => { c with unframedLines := satAdd c.unframedLines 1 }) s
  else s

/-- R18: the Tracker acts on a line record. Whether the line counts as unframed is judged after its break, if any, has been acted on
(LE 29), and before its first sample is examined (LE 42). -/
def trackLine (r : LineRecord) (s : State) : State :=
  match s.tracker.mode, s.tracker.fields with
  | .idle, _ => s
  | _, none => s
  | _, some f =>
    let s := if r.atBreak then actOnBreak s else s
    let s := countUnframed r s
    let s := setTracker (takeEntry ⟨r.line, r.received.map (·.1)⟩ s.tracker) s
    examineFrom f r.line (r.received.map (·.2)) 0 16 s

/-! ## IDLE and the resets (R25, R44) -/

/-- R25: on entering IDLE everything that belongs to frames not yet cut is discarded. -/
def Tracker.idled (t : Tracker) : Tracker :=
  { t with
    mode := .idle, filter := Filter.undefined, edgeLog := [], candidates := [], window := none, pendingTop := none,
    suspect := none, spliceMark := none, nudge := none, countdown := none, rephasing := false, spanIndex := none, synthRun := 0,
    acceptRun := 0 }

/-- Table 3-5, SOFT_RESET column. -/
def Tracker.softReset (t : Tracker) : Tracker := { t.idled with qTop := none, lastCut := none }

/-- Table 3-5, REEL_OPEN column, with the copy of R17 and S from the hint (R34). -/
def Tracker.opening (f : TrackingFields) (hint : Option Nat) : Tracker :=
  { Tracker.powerOn with
    mode := .search, fields := some f,
    shrink := match hint with
      | some h => trackingShrink h
      | none => 65536 }

/-- R41: FRAMING_NUDGE on the tracker: the status of its reply, and the tracker it leaves. -/
def nudgeTracker (d : Nat) (t : Tracker) : ReplyStatus × Tracker :=
  match t.fields with
  | none => (.badState, t)
  | some f =>
    if f.k = 1 then (.badState, t)
    else if t.mode = .idle ∨ t.mode = .search ∨ t.nudge.isSome then (.badState, t)
    else if d < 1 ∨ f.k - 1 < d then (.badArg, t)
    else (.ok, { t with nudge := some d, countdown := t.countdown.map (· + d) })

end Sys2Proof.Machine
end

