-- ==== Sys2Proof/Machine/Links.lean ====
section
/-! DEFINITION. The two links (01 R1, 11 R166): CRC-16, framing of packets, the reading of an arriving run, and the payloads of the
packets the part sends (Tables 12-6 to 12-8). -/

namespace Sys2Proof.Machine

/-! ## CRC-16 (R1) -/

/-- One bit of the shift register with generator 1021h. -/
def crcShift (c : Half) : Half := if c.msb then (c <<< 1) ^^^ 0x1021#16 else c <<< 1

/-- `n` shifts. -/
def crcShifts : Nat → Half → Half
  | 0, c => c
  | n + 1, c => crcShifts n (crcShift c)

/-- One byte, most significant bit first. -/
def crcByte (c : Half) (b : Byte) : Half := crcShifts 8 (c ^^^ (b ++ 0#8))

/-- R1: the CRC-16 of a run of bytes, initial value FFFFh, no reflection, no final inversion. -/
def crc16 (bs : List Byte) : Half := bs.foldl crcByte 0xFFFF#16

/-! ## Framing (Table 12-1) -/

/-- The payload words that hold `n` bytes. -/
def payloadWords (n : Nat) : Nat := (n + 3) / 4

/-- Header word, payload and pad bytes of a packet. -/
def packetBody (kind : Byte) (payload : List Byte) : List Byte :=
  [kind, 0#8] ++ halfBytes (BitVec.ofNat 16 payload.length) ++ payload
    ++ List.replicate (4 * payloadWords payload.length - payload.length) 0#8

/-- A whole packet with its check word. -/
def packetRun (kind : Byte) (payload : List Byte) : List Byte :=
  packetBody kind payload ++ halfBytes (crc16 (packetBody kind payload)) ++ [0#8, 0#8]

/-- The payload length that the header states. -/
def statedLength (run : List Byte) : Nat := (halfAt run 2).toNat

/-- R166: the run is a whole number of words that fits the stated length, and its check value is the CRC of what precedes it. -/
def runIntact (run : List Byte) : Bool :=
  run.length == 4 * (payloadWords (statedLength run) + 2)
    && halfAt run (run.length - 4) == crc16 (run.take (run.length - 4))

/-- The payload that the header states. -/
def payloadOf (run : List Byte) : List Byte := (run.drop 4).take (statedLength run)

/-- What the Intake Port settles of an arriving run (R4, R166): its kind, and its payload when its CRC and framing are good. -/
inductive Arrival where
  | line (payload : Option (List Byte))
  | control (payload : Option (List Byte))
  | unknown
  deriving DecidableEq, Repr

/-- The payload of an intact run. -/
def goodPayload (run : List Byte) : Option (List Byte) := if runIntact run then some (payloadOf run) else none

/-- R4, R166: the kind is read from the header whether or not the CRC is good; a run too short for a header and a check word has no
known kind. -/
def arrivalOf (run : List Byte) : Arrival :=
  if run.length < 8 then .unknown
  else if byteAt run 0 = 0x01#8 then .line (goodPayload run)
  else if byteAt run 0 = 0x02#8 then .control (goodPayload run)
  else .unknown

/-- A good LINE payload (Table 12-4): sequence number, perf sample word, edge position, and the complete pixels. -/
structure LinePayload where
  sequence : Half
  perf : Half
  edge : Int
  pixels : List Pixel
  deriving DecidableEq, Repr

/-- R166: a payload below 8 bytes is a CRC failure; a trailing group of 1 to 7 bytes is discarded. -/
def linePayloadOf (payload : List Byte) : Option LinePayload :=
  if payload.length < 8 then none
  else some
    { sequence := halfAt payload 0, perf := halfAt payload 2, edge := (wordAt payload 1).toInt,
      pixels := pixelsOf ((payload.length - 8) / 8) (payload.drop 8) }

/-- R12, R166: the count of a credit grant whose run is one word with a good check, none for a failed one. -/
def grantCount (run : List Byte) : Option Nat :=
  if run.length = 4 ∧ halfAt run 2 = crc16 (run.take 2) then some (byteAt run 0).toNat else none

/-! ## Delivered payloads (Tables 12-6 to 12-8) -/

/-- The word with a given number, as its bytes. -/
def numberBytes (n : Nat) : List Byte := wordBytes (word n)

/-- The number of an optional grade set, 0 when absent. -/
def setNumber (x : Option (Fin 4)) : Nat :=
  match x with
  | some i => i.val
  | none => 0

/-- Kind and trigger of the fired cue: words 6 and 7 of FRAME_HEAD. -/
def firedCueWords : Option FiredCue → Nat × Nat
  | none => (0, 0)
  | some (.frame t) => (1, t)
  | some .splice => (2, 0)

/-- Word 2 of FRAME_HEAD. -/
def headFlags (c : FrameContext) : Nat :=
  c.reelSequence.toNat + flagBit 16 (c.topStatus == .synthesized) + flagBit 17 (c.cutState == .coasting) + flagBit 18 c.splice
    + flagBit 19 c.shrinkClamp + flagBit 20 c.weaveClamp + flagBit 21 c.gradeMiss + (c.top % 16) * 2 ^ 24

/-- Word 5 of FRAME_HEAD. -/
def headGrading (c : FrameContext) : Nat :=
  (BitVec.ofInt 16 c.appliedH).toNat + (c.weight % 256) * 2 ^ 16 + setNumber c.currentSet * 2 ^ 24
    + flagBit 26 c.targetSet.isSome + setNumber c.targetSet * 2 ^ 27

/-- The 28 bytes of FRAME_HEAD. -/
def headPayload (c : FrameContext) : List Byte :=
  [c.frame, headFlags c, c.top / 16, c.appliedS, headGrading c, (firedCueWords c.firedCue).1, (firedCueWords c.firedCue).2].flatMap
    numberBytes

/-- The bytes of one delivered pixel. -/
def rgbBytes (p : Rgb) : List Byte := halfBytes p.r ++ halfBytes p.g ++ halfBytes p.b

/-- The 8 + 6 W_out bytes of LINE_OUT. -/
def lineOutPayload (frame j : Nat) (px : List Rgb) : List Byte := numberBytes frame ++ numberBytes j ++ px.flatMap rgbBytes

/-- Word 2 of FRAME_TAIL. -/
def tailFlags (c : FrameContext) : Nat :=
  c.reelSequence.toNat + (c.synthesized % 8) * 2 ^ 16 + flagBit 19 c.incomplete + flagBit 20 c.referenceUsed + flagBit 21 c.aborted

/-- The 40 bytes of FRAME_TAIL. -/
def tailPayload (c : FrameContext) : List Byte :=
  [c.frame, tailFlags c, c.substituted, c.temporal, c.spatial, c.scratchPixels, c.unrepaired, c.clipped,
    c.meanR + c.meanG * 2 ^ 16, c.meanB].flatMap numberBytes

/-- The status code of Table 12-7. -/
def statusCode : ReplyStatus → Nat
  | .ok => 0
  | .adjusted => 1
  | .busy => 2
  | .notReady => 3
  | .badCommand => 4
  | .badArg => 5
  | .badState => 6
  | .notConfigured => 7
  | .overlap => 8
  | .setBusy => 9
  | .incompleteSet => 10
  | .tableFull => 11
  | .duplicate => 12
  | .aborted => 13

/-- REPLY: code and tag, status and data length in bytes, data. -/
def replyPayload (r : Reply) : List Byte :=
  halfBytes r.code ++ halfBytes r.tag ++ numberBytes (statusCode r.status + (4 * r.data.length) * 2 ^ 16) ++ bytesOfWords r.data

/-- NOTICE: class, and the count carried. -/
def noticePayload (c : NoticeClass) (carried : Nat) : List Byte := numberBytes (classNumber c + carried * 2 ^ 16)

/-- The matched rows as a set of bits (word 3 of Table 12-8). -/
def rowBits (rows : List Nat) : Nat := (rows.map (fun r => 2 ^ r)).sum

/-- An accession in 24 bytes, 0 after its end. -/
def accessionBytes (a : List Byte) : List Byte := a ++ List.replicate (24 - a.length) 0#8

/-- The 92 bytes of TICKET (Table 12-8). -/
def ticketPayload (t : Ticket) : List Byte :=
  numberBytes (t.reelSequence.toNat + t.reelNumber * 2 ^ 16 + t.format * 2 ^ 24 + t.cls * 2 ^ 27 + flagBit 30 t.aborted
      + flagBit 31 t.classUnset)
    ++ numberBytes (t.previousClass.getD 0 + changeCode t.change * 2 ^ 3 + t.zone * 2 ^ 8 + t.interval * 2 ^ 16
      + handlingBits t.flags * 2 ^ 24)
    ++ numberBytes (rowBits t.matchedRows + t.accession.length * 2 ^ 16)
    ++ accessionBytes t.accession ++ t.metrics.flatMap numberBytes ++ numberBytes t.framesDelivered ++ numberBytes t.framesLost

/-- The whole packet of a frame packet. -/
def framePacketRun : FramePacket → List Byte
  | .head c => packetRun 0x10#8 (headPayload c)
  | .lineOut frame j px => packetRun 0x11#8 (lineOutPayload frame j px)
  | .tail c => packetRun 0x12#8 (tailPayload c)

/-- The whole packet of a reply. -/
def replyRun (r : Reply) : List Byte := packetRun 0x20#8 (replyPayload r)

/-- The whole packet of a notice. -/
def noticeRun (c : NoticeClass) (carried : Nat) : List Byte := packetRun 0x21#8 (noticePayload c carried)

/-- The whole packet of a ticket. -/
def ticketRun (t : Ticket) : List Byte := packetRun 0x22#8 (ticketPayload t)

/-- The run of a LINE packet with given fields (Table 12-4). -/
def lineRun (sequence perf : Half) (edge : Int) (px : List Pixel) : List Byte :=
  packetRun 0x01#8 (halfBytes sequence ++ halfBytes perf ++ wordBytes (BitVec.ofInt 32 edge) ++ px.flatMap pixelBytes)

/-- The run of a CONTROL packet that carries a command (Table 12-5). -/
def controlRun (code tag : Half) (args : List Byte) : List Byte := packetRun 0x02#8 (controlPayload code tag args)

/-- The run of a credit grant (Table 12-3). -/
def grantRun (count : Byte) : List Byte := [count, 0#8] ++ halfBytes (crc16 [count, 0#8])

end Sys2Proof.Machine
end

