-- ==== Sys2Proof/Machine/IntakePort.lean ====
section
/-! DEFINITION. The Intake Port (01 R2 to R11): numbering of lines, gaps and breaks, width, draining, and the end of lines. -/

namespace Sys2Proof.Machine

/-- The intake block replaced. -/
def setIntake (i : Intake) (s : State) : State := { s with intake := i }

/-- The intake counters changed. -/
def countIntake (f : IntakeCounters → IntakeCounters) (s : State) : State :=
  setIntake { s.intake with counters := f s.intake.counters } s

/-- The drain ends: the mode becomes CLOSED and the silence timer stops (R10, R11), and the Reel Controller forces the requested level
to 0 (R137, R49). -/
def endDrain (s : State) : State := forceStop (setIntake { s.intake with mode := .closed, silence := none } s)

/-- R10: in DRAINING, the next number would exceed the drain target. -/
def pastTarget (i : Intake) : Bool :=
  match i.mode, i.drainTarget with
  | .draining, some t => t < i.writeLine
  | _, _ => false

/-- R7: the next line number is consumed by a missing line. -/
def consumeMissing (atBreak : Bool) (s : State) : State :=
  let n := s.intake.writeLine
  let s := setIntake { s.intake with writeLine := n + 1 } s
  let s := countIntake (fun c => { c with missingLines := satAdd c.missingLines 1 }) s
  reportChange (trackLine ⟨n, none, atBreak⟩ s)

/-- R9: a line brought to the width W_in: the last pixel repeated, or the rest discarded. -/
def fitWidth (wIn : Nat) (px : List Pixel) : List Pixel :=
  px.take wIn ++ List.replicate (wIn - px.length) (px.getLastD zeroPixel)

/-- R9: the counters of a padded or truncated line. -/
def countWidth (wIn width : Nat) (c : IntakeCounters) : IntakeCounters :=
  if width < wIn then { c with paddedLines := satAdd c.paddedLines 1 }
  else if wIn < width then { c with truncatedLines := satAdd c.truncatedLines 1 }
  else c

/-- The width that a received line is brought to: W_in of the plan, the line's own while no plan is set. -/
def intakeWidth (s : State) (width : Nat) : Nat :=
  match s.frameMemory.plan with
  | some p => p.wIn
  | none => width

/-- R6, R9: the next line number is consumed by a received line, which is staged and handed to the Tracker (LE 12). -/
def consumeReceived (l : LinePayload) (atBreak : Bool) (s : State) : State :=
  let n := s.intake.writeLine
  let w := intakeWidth s l.pixels.length
  let s := setIntake { s.intake with writeLine := n + 1 } s
  let s := countIntake (fun c => countWidth w l.pixels.length { c with linesTaken := satAdd c.linesTaken 1 }) s
  let s := stageLine ⟨n, fitWidth w l.pixels⟩ s
  reportChange (trackLine ⟨n, some (l.edge, l.perf), atBreak⟩ s)

/-- The packet itself takes the next number: a received line, or a missing one when it has no pixel (R8). -/
def consumePacket (l : LinePayload) (atBreak : Bool) (s : State) : State :=
  if l.pixels = [] then consumeMissing atBreak s else consumeReceived l atBreak s

/-- The expected sequence number after a packet that was not dropped (R6). -/
def expectAfter (sequence : Half) (s : State) : State := setIntake { s.intake with expected := some (sequence + 1#16) } s

/-- R10: the packet takes the next number unless the drain ends there, when it is discarded. -/
def takeNumber (l : LinePayload) (atBreak : Bool) (s : State) : State :=
  if pastTarget s.intake then endDrain s else consumePacket l atBreak (expectAfter l.sequence s)

/-- R7, R10: `n` members of a gap are consumed, as far as the drain target lets them, and then the packet that ends the gap. -/
def consumeGap (l : LinePayload) : Nat → State → State
  | 0, s => takeNumber l false s
  | n + 1, s => if pastTarget s.intake then endDrain s else consumeGap l n (consumeMissing false s)

/-- A gap is counted, with its occurrence, if at least one member is assigned (R6, R10, LE 15). -/
def startGap (s : State) : State :=
  if pastTarget s.intake then s else raise .intakeError (countIntake (fun c => { c with gaps := satAdd c.gaps 1 }) s)

/-- A sequence break is counted, with its occurrence, if its number is assigned (R6, R10). -/
def startBreak (s : State) : State :=
  if pastTarget s.intake then s
  else raise .intakeError (countIntake (fun c => { c with sequenceBreaks := satAdd c.sequenceBreaks 1 }) s)

/-- R6, Table 2-4: a good line packet in TAKING or DRAINING. -/
def goodLine (l : LinePayload) (s : State) : State :=
  match s.intake.expected with
  | none => takeNumber l false s
  | some e =>
    let diff := (l.sequence - e).toNat
    if diff = 0 then takeNumber l false s
    else if diff ≤ 4095 then consumeGap l diff (startGap s)
    else if diff = 65535 then countIntake (fun c => { c with duplicates := satAdd c.duplicates 1 }) s
    else takeNumber l true (startBreak s)

/-- R8: a line packet that fails its CRC occupies the next number as a missing line. -/
def failedLine (s : State) : State :=
  if pastTarget s.intake then endDrain s
  else
    let s := countIntake (fun c => { c with lineCrcFailures := satAdd c.lineCrcFailures 1 }) s
    let s := setIntake { s.intake with expected := s.intake.expected.map (· + 1#16) } s
    consumeMissing false (raise .intakeError s)

/-- R11: a line packet that arrives while the silence timer runs restarts its count. -/
def restartSilence (s : State) : State := setIntake { s.intake with silence := s.intake.silence.map (fun _ => 0) } s

/-- R5: a LINE packet according to the intake mode. -/
def receiveLine (payload : Option (List Byte)) (s : State) : State :=
  match s.intake.mode with
  | .closed => s
  | _ =>
    let s := restartSilence s
    match payload.bind linePayloadOf with
    | some l => goodLine l s
    | none => failedLine s

/-- R4: a packet of no known kind, or a control packet of unacceptable length, is dropped. -/
def malformed (s : State) : State :=
  raise .intakeError (countIntake (fun c => { c with malformedPackets := satAdd c.malformedPackets 1 }) s)

/-- R4: a control packet that fails its CRC is dropped. -/
def controlCrcFailure (s : State) : State :=
  raise .intakeError (countIntake (fun c => { c with controlCrcFailures := satAdd c.controlCrcFailures 1 }) s)

/-- R11: the silence timer expires: the end-of-lines mark is set to the write line and the drain ends. -/
def silenceExpires (s : State) : State :=
  reportChange (endDrain (setIntake { s.intake with endMark := some s.intake.writeLine } s))

/-- R3: the start of a REEL_CLOSE at the Intake Port, from the newest context's last needed line. -/
def startDrain (s : State) : State :=
  match s.contexts.getLast? with
  | some c => setIntake { s.intake with mode := .draining, drainTarget := some c.lastNeeded, silence := some 0 } s
  | none => endDrain (setIntake { s.intake with drainTarget := none } s)

/-- R2, R3: a reel abort at the Intake Port. -/
def Intake.abort (i : Intake) : Intake := { i with mode := .closed, drainTarget := none, silence := none }

/-- Table 2-2, SOFT_RESET column, with the staging buffer (R65). -/
def Intake.softReset (i : Intake) : Intake := { i.abort with expected := none, endMark := none, staging := [] }

/-- Table 2-2, REEL_OPEN column, with the staging buffer (R65). -/
def Intake.opening : Intake := { Intake.powerOn with mode := .taking }

end Sys2Proof.Machine
end

