-- ==== Sys2Proof/Machine/RepairEngine.lean ====
section
/-! DEFINITION. The Repair Engine (06_damage_repair.md): defects, temporal and spatial repair, reference validity, the Scratch Table. -/

namespace Sys2Proof.Machine

/-- The repair block replaced. -/
def setRepair (r : Repair) (s : State) : State := { s with repair := r }

/-! ## Reference validity (R90, R94, R96) -/

/-- The buffer other than a buffer. -/
def otherBuffer : Buffer → Buffer
  | .a => .b
  | .b => .a

/-- R90, step 1: the fill buffer, the one not last written, A when none is. -/
def fillBuffer (r : Repair) : Buffer :=
  match r.lastWritten with
  | some x => otherBuffer x
  | none => .a

/-- The record of a buffer. -/
def recordFor (r : Repair) : Buffer → Validity
  | .a => r.recordA
  | .b => r.recordB

/-- A buffer's record replaced. -/
def setRecord (x : Buffer) (v : Validity) (r : Repair) : Repair :=
  match x with
  | .a => { r with recordA := v }
  | .b => { r with recordB := v }

/-- R96: temporal repair is available for a frame. -/
def temporalAvailable (r : Repair) (c : FrameContext) : Bool :=
  match r.lastWritten with
  | none => false
  | some x =>
    match recordFor r x with
    | .valid n q => n + 1 == c.frame && q == c.reelSequence && !c.splice
    | _ => false

/-! ## Scratch Table (R100 to R108) -/

/-- Column ranges [l1, l1 + w1) and [l2, l2 + w2) share a column. -/
def shareColumn (l1 w1 l2 w2 : Nat) : Bool := l1 < l2 + w2 && l2 < l1 + w1

/-- An entry that repairs: LOADED, TRACKED or FADING (R100). -/
def isRepairing (e : ScratchEntry) : Bool :=
  match e.origin with
  | .loaded => true
  | .learned .candidate _ => false
  | .learned _ _ => true

/-- A LEARNED entry. -/
def isLearned (e : ScratchEntry) : Bool :=
  match e.origin with
  | .loaded => false
  | .learned _ _ => true

/-- R100: the scratch mask: the columns below W_out that the repairing entries cover. -/
def maskOf (wOut : Nat) (es : List ScratchEntry) : List Nat :=
  ((es.filter isRepairing).flatMap (fun e => (List.range e.width).map (e.left + ·))).filter (· < wOut)

/-- R106: TRACKED becomes FADING with miss count 0. -/
def fadeEntry (e : ScratchEntry) : ScratchEntry :=
  match e.origin with
  | .learned .tracked n => { e with origin := .learned .fading n, miss := 0 }
  | _ => e

/-- An entry inserted at the place its left column takes (R100). -/
def insertEntry (e : ScratchEntry) : List ScratchEntry → List ScratchEntry
  | [] => [e]
  | x :: xs => if e.left ≤ x.left then e :: x :: xs else x :: insertEntry e xs

/-- The table in ascending left column. -/
def sortEntries (es : List ScratchEntry) : List ScratchEntry := es.foldr insertEntry []

/-- R100: the lowest slot number not in use. -/
def freeScratchSlot (es : List ScratchEntry) : Nat :=
  ((List.range 32).find? (fun i => es.all (fun e => e.slot != i))).getD 32

/-- A run of scratched columns (R101). -/
structure ColumnRun where
  left : Nat
  width : Nat
  deriving DecidableEq, Repr

/-- The longest stretches of columns whose counters reach the threshold, from column `col`, with the stretch open so far. -/
def stretches (threshold : Nat) : Nat → Option ColumnRun → List Nat → List ColumnRun
  | _, open?, [] => open?.toList
  | col, open?, c :: cs =>
    if threshold ≤ c then
      let r := match open? with
        | some r => { r with width := r.width + 1 }
        | none => ⟨col, 1⟩
      stretches threshold (col + 1) (some r) cs
    else open?.toList ++ stretches threshold (col + 1) none cs

/-- R101: the runs of a frame, those wider than 16 columns discarded, in ascending left column. -/
def frameRuns (threshold : Nat) (counters : List Nat) : List ColumnRun :=
  (stretches threshold 0 none counters).filter (fun r => r.width ≤ 16)

/-- R101, R107: a run matches an entry: they share a column, or at most 2 columns lie between them. An entry's columns at or above W_out
never meet a run. -/
def runMatches (wOut : Nat) (r : ColumnRun) (e : ScratchEntry) : Bool :=
  e.left < wOut && r.left < min (e.left + e.width) wOut + 3 && e.left < r.left + r.width + 3

/-- R101: each entry, in ascending left column, takes the lowest-left run that matches it and is not taken. Answers each entry with its
run, and the unmatched runs. -/
def matchRuns (wOut : Nat) :
    List ScratchEntry → List ColumnRun → List (ScratchEntry × Option ColumnRun) × List ColumnRun
  | [], runs => ([], runs)
  | e :: es, runs =>
    match runs.find? (fun r => runMatches wOut r e) with
    | some r =>
      let rest := matchRuns wOut es (runs.erase r)
      ((e, some r) :: rest.1, rest.2)
    | none =>
      let rest := matchRuns wOut es runs
      ((e, none) :: rest.1, rest.2)

/-- R102, Table 7-5: an entry after a frame end, none when it is removed. -/
def updateEntry (e : ScratchEntry) (isMatched : Bool) : Option ScratchEntry :=
  let seen := satAdd e.tracked 1
  match e.origin, isMatched with
  | .loaded, true => some { e with tracked := seen }
  | .loaded, false => some e
  | .learned .candidate n, true =>
    if e.confirm + 1 = 3 then some { e with confirm := 3, miss := 0, origin := .learned .tracked n }
    else some { e with confirm := e.confirm + 1 }
  | .learned .candidate _, false => none
  | .learned .tracked _, true => some { e with miss := 0, tracked := seen }
  | .learned .tracked _, false => if 8 ≤ e.miss + 1 then none else some { e with miss := e.miss + 1, tracked := seen }
  | .learned .fading n, true => some { e with miss := 0, tracked := seen, origin := .learned .tracked n }
  | .learned .fading _, false => if 3 ≤ e.miss + 1 then none else some { e with miss := e.miss + 1, tracked := seen }

/-- R102: a CANDIDATE becomes TRACKED at this frame end. -/
def becomesTracked (e : ScratchEntry) (isMatched : Bool) : Bool :=
  match e.origin with
  | .learned .candidate _ => isMatched && e.confirm + 1 == 3
  | _ => false

/-- How advanced a state is, in the order CANDIDATE, FADING, TRACKED (R103). -/
def advancement : Origin → Nat
  | .learned .candidate _ => 0
  | .learned .fading _ => 1
  | .learned .tracked _ => 2
  | .loaded => 3

/-- The first frame of a LEARNED entry, 0 for a LOADED one. -/
def firstFrameOf : Origin → Nat
  | .learned _ n => n
  | .loaded => 0

/-- R103: the entry whose fields a merge keeps: the more advanced, then the earlier first frame, then a free choice (LE 13). -/
def mergeKeeps (mover other : ScratchEntry) : ScratchEntry :=
  if advancement other.origin < advancement mover.origin then mover
  else if advancement mover.origin < advancement other.origin then other
  else if firstFrameOf mover.origin < firstFrameOf other.origin then mover
  else if firstFrameOf other.origin < firstFrameOf mover.origin then other
  else if Config.mergeTieKeepsMover mover.slot other.slot then mover else other

/-- Left column and width of the union of a run and an entry. -/
def unionSpan (r : ColumnRun) (e : ScratchEntry) : Nat × Nat :=
  let l := min r.left e.left
  (l, max (r.left + r.width) (e.left + e.width) - l)

/-- R103: the move of the entry of a slot to its run, against the columns held at that moment. DESIGN CHOICE (LE 34): an entry whose slot
an earlier merge has freed is not moved; one whose slot a merge has kept moves from the union to its own run. -/
def moveEntry (slot : Nat) (r : ColumnRun) (table : List ScratchEntry) : List ScratchEntry :=
  match table.find? (fun e => e.slot == slot) with
  | none => table
  | some mover =>
    let others := table.filter (fun e => e.slot != slot)
    match others.filter (fun e => shareColumn r.left r.width e.left e.width) with
    | [] => sortEntries ({ mover with left := r.left, width := r.width } :: others)
    | met :: more =>
      if (met :: more).any (fun e => !isLearned e) then others
      else if more = [] ∧ (unionSpan r met).2 ≤ 16 then
        sortEntries
          ({ mergeKeeps mover met with left := (unionSpan r met).1, width := (unionSpan r met).2 }
            :: others.filter (fun e => e.slot != met.slot))
      else table

/-- R103: the moves, one at a time, in ascending order of the left columns before the moves. DESIGN CHOICE (LE 34): each matched entry has
its turn even if a merge has met it before. -/
def moveAll : List (ScratchEntry × Option ColumnRun) → List ScratchEntry → List ScratchEntry
  | [], table => table
  | (e, some r) :: rest, table => moveAll rest (if isLearned e then moveEntry e.slot r table else table)
  | (_, none) :: rest, table => moveAll rest table

/-- R104: an unmatched run offered as a new entry: the table, and 1 when it is discarded at a full table. -/
def offerRun (frame : Nat) (r : ColumnRun) (table : List ScratchEntry) : List ScratchEntry × Nat :=
  if table.any (fun e => shareColumn r.left r.width e.left e.width) then (table, 0)
  else if 32 ≤ table.length then (table, 1)
  else
    (sortEntries
      ({ slot := freeScratchSlot table, left := r.left, width := r.width, origin := .learned .candidate frame, confirm := 1,
          miss := 0, tracked := 0 } :: table), 0)

/-- R104: the unmatched runs in ascending left column: the table, and the number of runs discarded at a full table. -/
def offerAll (frame : Nat) : List ColumnRun → List ScratchEntry → List ScratchEntry × Nat
  | [], table => (table, 0)
  | r :: rs, table =>
    let one := offerRun frame r table
    let rest := offerAll frame rs one.1
    (rest.1, one.2 + rest.2)

/-- What a frame end makes of the table: the table, the candidates that became TRACKED, the runs discarded at a full table. -/
structure ScratchUpdate where
  table : List ScratchEntry
  newlyTracked : Nat
  discarded : Nat
  deriving DecidableEq, Repr

/-- R101 to R104: the Scratch Table at the end of a frame. -/
def scratchFrameEnd (wOut frame threshold : Nat) (counters : List Nat) (table : List ScratchEntry) : ScratchUpdate :=
  let matched := matchRuns wOut table (frameRuns threshold counters)
  let updated := matched.1.filterMap (fun x => (updateEntry x.1 x.2.isSome).map (fun e => (e, x.2)))
  let moved := moveAll updated (updated.map (·.1))
  let offered := offerAll frame matched.2 moved
  { table := offered.1,
    newlyTracked := (matched.1.filter (fun x => becomesTracked x.1 x.2.isSome)).length,
    discarded := offered.2 }

/-- R107: LOADED entries created in list order, each with the lowest free slot: the table, and the slots given. -/
def loadScratches : List ScratchSpan → List ScratchEntry → List ScratchEntry × List Nat
  | [], table => (table, [])
  | x :: xs, table =>
    let slot := freeScratchSlot table
    let rest := loadScratches xs
      (sortEntries
        ({ slot := slot, left := x.left, width := x.width, origin := .loaded, confirm := 0, miss := 0, tracked := 0 } :: table))
    (rest.1, slot :: rest.2)

/-- R107: the list is empty or too long, a scratch lies outside its ranges, or two of the list share a column. -/
def scratchListBad (xs : List ScratchSpan) : Bool :=
  xs.isEmpty || 32 < xs.length || xs.any (fun x => x.width < 1 || 16 < x.width || 4096 < x.left + x.width)
    || !decide (xs.Pairwise (fun a b => shareColumn a.left a.width b.left b.width = false))

/-- R107: an entry shares a column with a scratch of the list. -/
def meetsList (xs : List ScratchSpan) (e : ScratchEntry) : Bool := xs.any (fun x => shareColumn x.left x.width e.left e.width)

/-! ## Repairing a line (R93, R97 to R99) -/

/-- R93: a pixel is IR-defective. -/
def irDefective (f : RepairFields) (p : Pixel) : Bool := f.irOn && p.ir.toNat * 256 < f.irThreshold * f.clearLevel

/-- The outcome of a defective pixel (R99), or no defect. -/
inductive PixelOutcome where
  | sound | temporal | spatial | scratch | unrepaired
  deriving DecidableEq, Repr

/-- The line as the pixel rules see it: its pixels, which columns are defective and which are masked, and the reference line when
temporal repair is available. -/
structure RepairView where
  pixels : List Pixel
  defective : List Bool
  mask : List Nat
  reference : Option (List RefRecord)
  deriving DecidableEq, Repr

/-- The pixel of a column. -/
def viewPixel (v : RepairView) (i : Nat) : Pixel := v.pixels.getD i zeroPixel

/-- A column exists and its pixel is not defective. -/
def isSound (v : RepairView) (i : Nat) : Bool := i < v.pixels.length && !v.defective.getD i true

/-- A record of zero samples, for a column that no record covers. -/
def zeroRecord : RefRecord := ⟨⟨0#16, 0#16, 0#16⟩, true⟩

/-- R97, step 1: the columns within 4 on either side, nearest first, left first. -/
def nearColumns (i : Nat) : List Nat :=
  [1, 2, 3, 4].flatMap (fun d => (if d ≤ i then [i - d] else []) ++ [i + d])

/-- R97, step 1: the non-defective ones among them, at most 4. -/
def motionColumns (v : RepairView) (i : Nat) : List Nat := ((nearColumns i).filter (isSound v)).take 4

/-- The absolute difference of two samples. -/
def sampleDistance (a b : Half) : Nat := (a.toNat - b.toNat) + (b.toNat - a.toNat)

/-- R97, steps 2 and 3: the motion check passes. -/
def motionPasses (threshold : Nat) (v : RepairView) (ref : List RefRecord) (i : Nat) : Bool :=
  let cs := motionColumns v i
  let total := (cs.map (fun c => sampleDistance (viewPixel v c).g (ref.getD c zeroRecord).rgb.g)).sum
  !cs.isEmpty && total / cs.length ≤ threshold && !(ref.getD i zeroRecord).unrepaired

/-- R98: the distance to the nearest non-defective pixel to the left, within the span. -/
def leftDistance (v : RepairView) (span i : Nat) : Option Nat :=
  ((List.range span).map (· + 1)).find? (fun d => d ≤ i && isSound v (i - d))

/-- R98: the distance to the nearest non-defective pixel to the right, within the span. -/
def rightDistance (v : RepairView) (span i : Nat) : Option Nat :=
  ((List.range span).map (· + 1)).find? (fun d => isSound v (i + d))

/-- R98: the blend of the two sides' samples. -/
def blendSides (dl dr : Nat) (a b : Half) : Half :=
  BitVec.ofNat 16 ((a.toNat * dr + b.toNat * dl + (dl + dr) / 2) / (dl + dr))

/-- The three delivered channels of a pixel. -/
def rgbOf (p : Pixel) : Rgb := ⟨p.r, p.g, p.b⟩

/-- R98: the spatial repair of a pixel, none when neither side lies within the span. -/
def spatialValue (v : RepairView) (span i : Nat) : Option Rgb :=
  match leftDistance v span i, rightDistance v span i with
  | some dl, some dr =>
    let a := viewPixel v (i - dl)
    let b := viewPixel v (i + dr)
    if dl + dr ≤ span then some ⟨blendSides dl dr a.r b.r, blendSides dl dr a.g b.g, blendSides dl dr a.b b.b⟩
    else if dl ≤ dr then some (rgbOf a)
    else some (rgbOf b)
  | some dl, none => some (rgbOf (viewPixel v (i - dl)))
  | none, some dr => some (rgbOf (viewPixel v (i + dr)))
  | none, none => none

/-- R97, R98: one pixel repaired, with its outcome. -/
def repairPixel (f : RepairFields) (v : RepairView) (i : Nat) : RefRecord × PixelOutcome :=
  let masked := v.mask.contains i
  let spatially :=
    match spatialValue v f.spanLimit i with
    | some x => ((⟨x, false⟩ : RefRecord), if masked then PixelOutcome.scratch else .spatial)
    | none => (⟨rgbOf (viewPixel v i), true⟩, .unrepaired)
  if !v.defective.getD i true then (⟨rgbOf (viewPixel v i), false⟩, .sound)
  else if masked then spatially
  else
    match v.reference with
    | some ref =>
      if motionPasses f.motionThreshold v ref i then (⟨(ref.getD i zeroRecord).rgb, false⟩, .temporal) else spatially
    | none => spatially

/-- R93: which columns of a line are IR-defective. -/
def irDefects (f : RepairFields) (px : List Pixel) : List Bool := px.map (irDefective f)

/-- R93: which columns of a line are defective. -/
def defects (f : RepairFields) (mask : List Nat) (px : List Pixel) : List Bool :=
  px.mapIdx (fun i p => irDefective f p || mask.contains i)

/-- R101: the column defect counters after a line. -/
def advanceCounters : List Nat → List Bool → List Nat
  | cs, [] => cs
  | [], b :: bs => b.toNat :: advanceCounters [] bs
  | c :: cs, b :: bs => (c + b.toNat) :: advanceCounters cs bs

/-- R92: every pixel of the line in hand repaired. -/
def repairPixels (f : RepairFields) (mask : List Nat) (px : List Pixel) (ref : Option (List RefRecord)) :
    List (RefRecord × PixelOutcome) :=
  let v : RepairView := ⟨px, defects f mask px, mask, ref⟩
  (List.range px.length).map (repairPixel f v)

/-- The number of pixels with an outcome. -/
def outcomeCount (o : PixelOutcome) (xs : List (RefRecord × PixelOutcome)) : Nat := (xs.filter (fun x => x.2 == o)).length

/-- R99: the four repair counts advance in the context. -/
def countRepairs (xs : List (RefRecord × PixelOutcome)) (c : FrameContext) : FrameContext :=
  { c with
    temporal := c.temporal + outcomeCount .temporal xs,
    spatial := c.spatial + outcomeCount .spatial xs,
    scratchPixels := c.scratchPixels + outcomeCount .scratch xs,
    unrepaired := c.unrepaired + outcomeCount .unrepaired xs }

/-- R92: the line in hand is repaired; the engine enters PASSING, presents the reference write and offers the line. -/
def repairLine (copy : RepairCopy) (hand : RepairHand) (ref : Option (List RefRecord)) (s : State) : State :=
  let r := s.repair
  let out := repairPixels copy.fields r.mask hand.line.pixels ref
  setRepair
    { r with
      mode := .passing
        { frame := hand.line.frame, j := hand.line.j, records := out.map (·.1), incomplete := hand.incomplete, taken := false,
          written := false },
      columnCounters := if copy.fields.irOn then advanceCounters r.columnCounters (irDefects copy.fields hand.line.pixels)
        else r.columnCounters,
      writeRequest := true }
    (writeContext hand.line.frame (countRepairs out) s)

/-! ## Frame start, frame end, line cycle (R89 to R95) -/

/-- R90: the frame start. -/
def repairFrameStart (copy : RepairCopy) (c : FrameContext) (s : State) : State :=
  let r := s.repair
  let usable := temporalAvailable r c
  let table := if c.splice then r.scratches.map fadeEntry else r.scratches
  setRepair
    { setRecord (fillBuffer r) (.filling c.frame c.reelSequence) r with
      temporal := usable, scratches := table, mask := maskOf copy.wOut table,
      columnCounters := List.replicate copy.wOut 0 }
    (writeContext c.frame (fun x => { x with referenceUsed := usable }) s)

/-- Occurrences of a class, `n` of them. -/
def raiseTimes (c : NoticeClass) : Nat → State → State
  | 0, s => s
  | n + 1, s => raiseTimes c n (raise c s)

/-- R94: the fill buffer's record at a frame end. -/
def closeRecord (incomplete : Bool) : Validity → Validity
  | .filling n q => if incomplete then .void n q else .valid n q
  | v => v

/-- R101: the column threshold of a frame. -/
def columnThreshold (copy : RepairCopy) : Nat := copy.hOut * copy.fields.scratchPercentage / 100

/-- R95: the frame end. -/
def repairFrameEnd (copy : RepairCopy) (frame : Nat) (incomplete : Bool) (s : State) : State :=
  let r := s.repair
  let fill := fillBuffer r
  let r := { setRecord fill (closeRecord incomplete (recordFor r fill)) r with lastWritten := some fill }
  if copy.fields.irOn then
    let u := scratchFrameEnd copy.wOut frame (columnThreshold copy) r.columnCounters r.scratches
    raiseTimes .scratchFull u.discarded
      (setRepair { r with scratches := u.table, scratchesTracked := satAdd r.scratchesTracked u.newlyTracked } s)
  else setRepair r s

/-- R92: when both obligations of the line in hand have ended, the frame end follows its last line, and the engine is WAITING. -/
def settleObligations (s : State) : State :=
  match s.repair.mode, s.repair.copy with
  | .passing hand, some copy =>
    if hand.taken ∧ hand.written then
      let s := if hand.j + 1 < copy.hOut then s else repairFrameEnd copy hand.frame hand.incomplete s
      setRepair { s.repair with mode := .waiting } s
    else s
  | _, _ => s

/-- R89, R90: the frame start, at output line 0 of a frame. -/
def startFrameAt (copy : RepairCopy) (line : OutputLine) (s : State) : State :=
  if line.j = 0 then
    match contextOf s line.frame with
    | some c => repairFrameStart copy c s
    | none => s
  else s

/-- R89, R95: the line in hand, with its copy of the frame's INCOMPLETE flag. -/
def handOf (s : State) (line : OutputLine) : RepairHand := ⟨line, ((contextOf s line.frame).map (·.incomplete)).getD true⟩

/-- R89: with the line in hand, a fetch of its reference line or the repair at once. -/
def fetchOrRepair (copy : RepairCopy) (hand : RepairHand) (s : State) : State :=
  if s.repair.temporal then setRepair { s.repair with mode := .fetching hand, readRequest := true } s
  else repairLine copy hand none s

/-- R89: the engine takes the offered line: the frame start at line 0, then a fetch or the repair at once. The Conformance Engine goes on
to its next line or finishes the frame (R85, R86). -/
def takeOffered (copy : RepairCopy) (line : OutputLine) (s : State) : State :=
  fetchOrRepair copy (handOf s line) (lineTaken (startFrameAt copy line s))

/-! ## Abort and resets (R109, R110) -/

/-- Table 7-6, reel abort column. -/
def Repair.abort (r : Repair) : Repair :=
  { r with
    mode := .waiting, temporal := false, recordA := .empty, recordB := .empty, lastWritten := none, mask := [],
    columnCounters := [], readRequest := false, writeRequest := false }

/-- The table without its LEARNED entries. -/
def dropLearned (es : List ScratchEntry) : List ScratchEntry := es.filter (fun e => !isLearned e)

/-- Table 7-6, SOFT_RESET column. -/
def Repair.softReset (r : Repair) : Repair := { r.abort with scratches := dropLearned r.scratches }

/-- R88: a span limit of 0 is copied as 16. -/
def copyRepairFields (f : RepairFields) : RepairFields := { f with spanLimit := if f.spanLimit = 0 then 16 else f.spanLimit }

/-- Table 7-6, REEL_OPEN column. -/
def Repair.opening (f : Format) (r : Repair) : Repair :=
  { r.softReset with
    scratchesTracked := 0,
    copy := some ⟨copyRepairFields f.repair, f.conformance.wOut, f.conformance.hOut⟩ }

end Sys2Proof.Machine
end

