-- ==== Sys2Proof/Machine/GradingEngine.lean ====
section
/-! DEFINITION. The Grading Engine (07_grading.md): pixel arithmetic, frame start, measurements, frame packets, dissolves, and the state
of the Grade Sets. -/

namespace Sys2Proof.Machine

/-- The grading block replaced. -/
def setGrading (g : Grading) (s : State) : State := { s with grading := g }

/-! ## Pixel arithmetic (R117 to R120) -/

/-- Entry `k` of a LUT: 0 where nothing is written, and E[4096] taken to be E[4095] (R117). -/
def lutEntry (lut : List (Nat × Half)) (k : Nat) : Half := (tableGet lut (min k 4095)).getD 0#16

/-- R117: a sample through a LUT. -/
def lutLookup (lut : List (Nat × Half)) (v : Half) : Half :=
  mixSamples 16 (v.toNat % 16) (lutEntry lut (v.toNat / 16)) (lutEntry lut (v.toNat / 16 + 1))

/-- The matrix of a cleared set. -/
def zeroMatrix : Matrix := ⟨0, 0, 0, 0, 0, 0, 0, 0, 0, 0, 0, 0⟩

/-- R118: one matrix row with its offset, and the mark that the channel was clamped. -/
def matrixRow (mR mG mB off : Int) (p : Rgb) : Half × Bool :=
  clampSample ((mR * p.r.toNat + mG * p.g.toNat + mB * p.b.toNat + 2048) / 4096 + off)

/-- A graded pixel and whether it was clipped. -/
structure GradedPixel where
  px : Rgb
  clipped : Bool
  deriving DecidableEq, Repr

/-- R117 to R119: a pixel through one set. -/
def gradeInSet (g : GradeSet) (p : Rgb) : GradedPixel :=
  let m := g.matrix.getD zeroMatrix
  let q : Rgb := ⟨lutLookup g.luts[0] p.r, lutLookup g.luts[1] p.g, lutLookup g.luts[2] p.b⟩
  let r := matrixRow m.rr m.rg m.rb m.offR q
  let gr := matrixRow m.gr m.gg m.gb m.offG q
  let b := matrixRow m.br m.bg m.bb m.offB q
  ⟨⟨lutLookup g.luts[3] r.1, lutLookup g.luts[4] gr.1, lutLookup g.luts[5] b.1⟩, r.2 || gr.2 || b.2⟩

/-- R120: the results of the current set and the target set blended at a weight. -/
def blendGraded (w : Nat) (a b : GradedPixel) : GradedPixel :=
  ⟨⟨mixSamples 256 w a.px.r b.px.r, mixSamples 256 w a.px.g b.px.g, mixSamples 256 w a.px.b b.px.b⟩, a.clipped || b.clipped⟩

/-- R119, R120: a pixel through the current set, and through the target set as well while a dissolve runs. -/
def gradePixel (current : GradeSet) (target : Option GradeSet) (w : Nat) (p : Rgb) : GradedPixel :=
  match target with
  | none => gradeInSet current p
  | some t => blendGraded w (gradeInSet current p) (gradeInSet t p)

/-! ## Sets and their states (R111, Table 8-2) -/

/-- The four sets, each changed by its number. -/
def mapSets (f : Fin 4 → GradeSet → GradeSet) (v : Vector GradeSet 4) : Vector GradeSet 4 :=
  #v[f 0 v[0], f 1 v[1], f 2 v[2], f 3 v[3]]

/-- R127: a set in use is IN_USE; every other set that was IN_USE returns to READY. -/
def settleSet (used : Bool) (g : GradeSet) : GradeSet :=
  if used then { g with state := .inUse } else if g.state = .inUse then { g with state := .ready } else g

/-- The target set of a dissolve record. -/
def targetOf (d : Option Dissolve) : Option (Fin 4) := d.map (·.target)

/-- The states of the sets follow the current set and the target set (R111). -/
def settleSets (g : Grading) : Grading :=
  { g with sets := mapSets (fun i x => settleSet (g.current == some i || targetOf g.dissolve == some i) x) g.sets }

/-! ## The frame start (R125 to R128) -/

/-- A collected cue: how it fired, its set and its D. -/
structure Candidature where
  fired : FiredCue
  set : Fin 4
  d : Nat
  deriving DecidableEq, Repr

/-- What collection leaves: the two collections, the candidate, and the number of cues superseded. -/
structure Collection where
  cues : List FrameCue
  spliceCues : List SpliceCue
  candidate : Option Candidature
  superseded : Nat
  deriving DecidableEq, Repr

/-- The FRAME candidate of a frame: the due cue with the highest trigger frame (R125). -/
def frameCandidate (n : Nat) (cues : List FrameCue) : Option Candidature :=
  ((cues.filter (fun c => c.trigger ≤ n)).getLast?).map (fun c => ⟨.frame c.trigger, c.set, c.d⟩)

/-- R125: the cues collected at the start of frame `n`. -/
def collectCues (n : Nat) (splice : Bool) (cues : List FrameCue) (spliceCues : List SpliceCue) : Collection :=
  let due := (cues.filter (fun c => c.trigger ≤ n)).length
  let rest := cues.filter (fun c => n < c.trigger)
  match splice, spliceCues, frameCandidate n cues with
  | true, _ :: more, some c => ⟨rest, more, some c, due - 1 + 1⟩
  | true, x :: more, none => ⟨rest, more, some ⟨.splice, x.set, x.d⟩, 0⟩
  | _, _, some c => ⟨rest, spliceCues, some c, due - 1⟩
  | _, _, none => ⟨rest, spliceCues, none, 0⟩

/-- R126: the candidate's set can be brought into use. -/
def canBeUsed (st : SetState) : Bool := st == .ready || st == .inUse

/-- R127, steps 3 and 4: the current set and the dissolve record after a candidate is applied. -/
def applyCue (set : Fin 4) (d : Nat) (current : Option (Fin 4)) (dissolve : Option Dissolve) :
    Option (Fin 4) × Option Dissolve :=
  let standing := match dissolve with
    | some x => some x.target
    | none => current
  if d = 0 ∨ standing = some set then (some set, none) else (standing, some ⟨set, d, 0⟩)

/-- R128: the weight of a frame. -/
def dissolveWeight : Option Dissolve → Nat
  | some x => 256 * (x.k + 1) / (x.d + 1)
  | none => 0

/-- The candidate to apply, none when its set is EMPTY or LOADING (R126). -/
def applicable (g : Grading) (c : Option Candidature) : Option Candidature := c.filter (fun x => canBeUsed g.sets[x.set].state)

/-- R125 to R127 on the grading block, with the accumulators cleared (R130). -/
def frameStartGrading (n : Nat) (splice : Bool) (g : Grading) : Grading :=
  let col := collectCues n splice g.cues g.spliceCues
  let g :=
    { g with
      cues := col.cues, spliceCues := col.spliceCues, accumulators := ⟨0, 0, 0, 0⟩,
      counters := { g.counters with superseded := satAdd g.counters.superseded col.superseded } }
  match col.candidate, applicable g col.candidate with
  | none, _ => settleSets g
  | some _, none => settleSets { g with counters := { g.counters with misses := satAdd g.counters.misses 1 } }
  | some _, some x =>
    let after := applyCue x.set x.d g.current g.dissolve
    settleSets
      { g with
        current := after.1, dissolve := after.2, counters := { g.counters with applied := satAdd g.counters.applied 1 } }

/-- R126: the frame start misses: there is a candidate and its set is EMPTY or LOADING. -/
def frameStartMisses (n : Nat) (splice : Bool) (g : Grading) : Bool :=
  let col := collectCues n splice g.cues g.spliceCues
  col.candidate.isSome && (applicable g col.candidate).isNone

/-- R125, R128: the grading fields of the frame's context. -/
def writeGrading (fired : Option FiredCue) (miss : Bool) (g : Grading) (c : FrameContext) : FrameContext :=
  { c with
    currentSet := g.current, targetSet := targetOf g.dissolve, weight := dissolveWeight g.dissolve, firedCue := fired,
    gradeMiss := miss }

/-- The frame start of frame `n` (R125 to R128). -/
def gradingFrameStart (c : FrameContext) (s : State) : State :=
  let fired := ((collectCues c.frame c.splice s.grading.cues s.grading.spliceCues).candidate).map (·.fired)
  let miss := frameStartMisses c.frame c.splice s.grading
  let g := frameStartGrading c.frame c.splice s.grading
  raiseIf miss .gradeMiss (writeContext c.frame (writeGrading fired miss g) (setGrading g s))

/-! ## Grading a line (R124, R130) -/

/-- The line graded with the sets standing after the frame start. -/
def gradeLine (g : Grading) (current : Fin 4) (px : List Rgb) : List GradedPixel :=
  px.map (gradePixel g.sets[current] ((targetOf g.dissolve).map (fun t => g.sets[t])) (dissolveWeight g.dissolve))

/-- R130: the accumulators after a line: the samples as received from the Repair Engine, and the clipped pixels. -/
def accumulate (px : List Rgb) (graded : List GradedPixel) (a : Accumulators) : Accumulators :=
  { sumR := a.sumR + (px.map (fun p => p.r.toNat)).sum,
    sumG := a.sumG + (px.map (fun p => p.g.toNat)).sum,
    sumB := a.sumB + (px.map (fun p => p.b.toNat)).sum,
    clipped := a.clipped + (graded.filter (·.clipped)).length }

/-- R130: the means of a frame. -/
def writeMeans (pixels : Nat) (a : Accumulators) (c : FrameContext) : FrameContext :=
  { c with meanR := a.sumR / pixels, meanG := a.sumG / pixels, meanB := a.sumB / pixels }

/-- R124: the packets owed for output line `j` of a frame of `hOut` lines. -/
def owedPackets (hOut j : Nat) : List Owed :=
  (if j = 0 then [.head] else []) ++ [.lineOut] ++ (if j + 1 = hOut then [.tail] else [])

/-- R124, steps 2 to 4: the line graded, measured and owed. -/
def gradeInHand (raster : Nat × Nat) (current : Fin 4) (hand : RepairedHand) (s : State) : State :=
  let px := hand.records.map (·.rgb)
  let graded := gradeLine s.grading current px
  let acc := accumulate px graded s.grading.accumulators
  let s := writeContext hand.frame (fun c => { c with clipped := acc.clipped }) s
  let s := if hand.j + 1 = raster.2 then writeContext hand.frame (writeMeans (raster.1 * raster.2) acc) s else s
  setGrading
    { s.grading with
      accumulators := acc,
      mode := .placing { frame := hand.frame, j := hand.j, pixels := graded.map (·.px), owed := owedPackets raster.2 hand.j } } s

/-- R124, step 1: the frame start, at output line 0 of a frame. -/
def startGradingAt (hand : RepairedHand) (s : State) : State :=
  if hand.j = 0 then
    match contextOf s hand.frame with
    | some c => gradingFrameStart c s
    | none => s
  else s

/-- R92: the Repair Engine's obligation towards the Grading Engine has ended. -/
def markTaken (hand : RepairedHand) (s : State) : State :=
  setRepair { s.repair with mode := .passing { hand with taken := true } } s

/-- R124: the engine takes a repaired line, doing the frame start at line 0. -/
def takeRepaired (raster : Nat × Nat) (hand : RepairedHand) (s : State) : State :=
  let t := startGradingAt hand s
  match t.grading.current with
  | some current => settleObligations (gradeInHand raster current hand (markTaken hand t))
  | none => t

/-! ## Placing packets (R124, R128, R131) -/

/-- R131: a frame packet composed from its context. -/
def composePacket (hand : GradedHand) (c : FrameContext) : Owed → FramePacket
  | .head => .head c
  | .lineOut => .lineOut hand.frame hand.j hand.pixels
  | .tail => .tail c

/-- R128: a running dissolve advances at a frame end. -/
def advanceDissolve (g : Grading) : Grading :=
  match g.dissolve with
  | none => g
  | some x =>
    if x.k + 1 = x.d then settleSets { g with current := some x.target, dissolve := none }
    else { g with dissolve := some { x with k := x.k + 1 } }

/-- R124: the packets owed after one has been placed; with none left the engine is WAITING. -/
def afterPlacing (hand : GradedHand) (rest : List Owed) (g : Grading) : Grading :=
  { g with mode := if rest = [] then .waiting else .placing { hand with owed := rest } }

/-- R124: one owed packet is placed. -/
def placeOwed (hand : GradedHand) (o : Owed) (rest : List Owed) (c : FrameContext) (s : State) : State :=
  let g := if o = .tail then advanceDissolve s.grading else s.grading
  setGrading (afterPlacing hand rest g)
    { s with delivery := { s.delivery with queue := s.delivery.queue ++ [composePacket hand c o] } }

/-! ## Reels, aborts and resets (R132, Table 8-7) -/

/-- The current set and any target set return to READY; both become absent. -/
def releaseSets (g : Grading) : Grading := settleSets { g with current := none, dissolve := none }

/-- Table 8-7, end of close. -/
def Grading.endOfClose (g : Grading) : Grading :=
  { releaseSets g with mode := .waiting, accumulators := ⟨0, 0, 0, 0⟩ }

/-- Table 8-7, reel abort. -/
def Grading.abort (g : Grading) : Grading :=
  { releaseSets g with mode := .waiting, accumulators := ⟨0, 0, 0, 0⟩, cues := [], spliceCues := [] }

/-- Table 8-7, SOFT_RESET: the values of the abort in every reel state. -/
def Grading.softReset (g : Grading) : Grading := g.abort

/-- Table 8-7, REEL_OPEN. -/
def Grading.opening (f : ConformanceFields) (initial : Fin 4) (g : Grading) : Grading :=
  settleSets
    { g with
      mode := .waiting, cues := [], spliceCues := [], current := some initial, dissolve := none,
      accumulators := ⟨0, 0, 0, 0⟩, counters := ⟨0, 0, 0⟩, raster := some (f.wOut, f.hOut) }

end Sys2Proof.Machine
end

