-- ==== Sys2Proof/Machine/Replies.lean ====
section
/-! DEFINITION. The Reply Queue (09 R151, R153, R154) and the answers that owners give. -/

namespace Sys2Proof.Machine

/-- The answer of a command's owner: status and data words (R156). -/
structure Answer where
  status : ReplyStatus
  data : List Word
  deriving DecidableEq, Repr

/-- A command carried out and answered: its answer and the state it leaves. -/
abbrev Carried := Answer × State

/-- A refusal without data: nothing changes (R156). -/
def refuse (status : ReplyStatus) (s : State) : Carried := (⟨status, []⟩, s)

/-- The interpreter block replaced. -/
def setInterpreter (x : Interpreter) (s : State) : State := { s with interpreter := x }

/-- A slot is FREE. -/
def isFree : ReplySlot → Bool
  | .free => true
  | _ => false

/-- The eight ordinary slot numbers. -/
def slotNumbers : List (Fin 8) := [0, 1, 2, 3, 4, 5, 6, 7]

/-- A FREE ordinary slot: the lowest-numbered (LE 23). -/
def freeSlot (x : Interpreter) : Option (Fin 8) := slotNumbers.find? (fun i => isFree x.ordinary[i])

/-- R151: a reply is built into an ordinary slot and joins the end of the fill order. -/
def fillOrdinary (i : Fin 8) (r : Reply) (x : Interpreter) : Interpreter :=
  { x with ordinary := x.ordinary.set i (.filled r), fillOrder := x.fillOrder ++ [.ordinary i] }

/-- R154: a reply is built into the reserved slot. -/
def fillReserved (r : Reply) (x : Interpreter) : Interpreter :=
  { x with reserved := some r, fillOrder := x.fillOrder ++ [.reserved] }

/-- R152, R153: the head command starts: a slot is CLAIMED for it and it is in flight. -/
def claimSlot (i : Fin 8) (x : Interpreter) : Interpreter :=
  { x with ordinary := x.ordinary.set i .claimed, inFlight := some i }

/-- R152, R153: the command in flight is answered in its slot and leaves the head of the queue. -/
def answerHead (a : Answer) (x : Interpreter) : Interpreter :=
  match x.inFlight, x.queue with
  | some i, q :: rest => { fillOrdinary i ⟨q.code, q.tag, a.status, a.data⟩ x with inFlight := none, queue := rest }
  | _, _ => x

/-- R154: the reply of an immediate command: the reserved slot, else a FREE ordinary slot, else no reply. -/
def replyImmediate (r : Reply) (x : Interpreter) : Interpreter :=
  match x.reserved, freeSlot x with
  | none, _ => fillReserved r x
  | some _, some i => fillOrdinary i r x
  | some _, none => { x with unanswered := satAdd x.unanswered 1 }

/-- The reply that a slot of the fill order holds. -/
def slotReply (x : Interpreter) : SlotName → Option Reply
  | .reserved => x.reserved
  | .ordinary i =>
    match x.ordinary[i] with
    | .filled r => some r
    | _ => none

/-- R151: the first reply of the fill order leaves it and its slot becomes FREE. -/
def freeReply (x : Interpreter) : Interpreter :=
  match x.fillOrder with
  | [] => x
  | .reserved :: rest => { x with reserved := none, fillOrder := rest }
  | .ordinary i :: rest => { x with ordinary := x.ordinary.set i .free, fillOrder := rest }

end Sys2Proof.Machine
end

