-- ==== Sys2Proof/Machine/OwnerCommands.lean ====
section
/-! DEFINITION. What the owners of queued commands check and do (Table 10-6), but for the Reel Controller's REEL_OPEN and REEL_CLOSE and
for STATUS_QUERY. Each answers with the first refusal that applies. -/

namespace Sys2Proof.Machine

/-! ## Format store (R17, R72, R73) -/

/-- R17: the ranges of Table 3-1 and the checks that combine fields. -/
def trackingInRange (f : TrackingFields) : Bool :=
  3200 ≤ f.nominalPitch && f.nominalPitch ≤ 64000 && 1 ≤ f.k && f.k ≤ 4 && 16 ≤ f.tol && f.tol ≤ 2048
    && 8 ≤ f.spliceThreshold && f.spliceThreshold < f.tol && 1 ≤ f.coastLimit && f.coastLimit ≤ 15
    && decide (-32768 ≤ f.referenceEdge) && decide (f.referenceEdge ≤ 32767) && f.damageCap ≤ 7
    && 9600 ≤ f.k * f.nominalPitch && f.tol ≤ f.nominalPitch / 4

/-- The ranges of Table 6-1. -/
def conformanceInRange (f : ConformanceFields) : Bool :=
  f.v0 ≤ 65535 && f.u0 ≤ 4095 && 256 ≤ f.wOut && f.wOut ≤ 4096 && f.wOut % 16 == 0 && 256 ≤ f.hOut && f.hOut ≤ 4096

/-- The ranges of Table 7-1. -/
def repairInRange (f : RepairFields) : Bool :=
  f.irThreshold ≤ 255 && f.clearLevel ≤ 65535 && f.motionThreshold ≤ 65535
    && (f.spanLimit == 0 || (4 ≤ f.spanLimit && f.spanLimit ≤ 32)) && 50 ≤ f.scratchPercentage && f.scratchPercentage ≤ 100

/-- R72, check 3: every field lies inside its range. -/
def formatInRange (f : Format) : Bool :=
  trackingInRange f.tracking && conformanceInRange f.conformance && repairInRange f.repair

/-- R72, check 2: a reel is open with this format. -/
def reelUsesFormat (s : State) (i : Fin 8) : Bool :=
  s.reel.state != .noReel &&
    match s.reel.identity with
    | some x => x.format == i
    | none => false

/-- R73: the geometry checks against the plan, none made while it is unset. -/
def geometryAccepted (s : State) (f : Format) : Bool :=
  match s.frameMemory.plan with
  | some p => geometryFits f.conformance p
  | none => true

/-- R72: FORMAT_SET. -/
def formatSetOwner (n : Nat) (f : Format) (s : State) : Carried :=
  match indexOf 8 n with
  | none => refuse .badArg s
  | some i =>
    if reelUsesFormat s i then refuse .badState s
    else if !formatInRange f then refuse .badArg s
    else if !geometryAccepted s f then refuse .badArg s
    else (⟨.ok, []⟩, { s with formats := s.formats.set i (some f) })

/-! ## Frame Memory Controller (R59) -/

/-- R59, R61, R65, R70: an accepted plan: every slot EMPTY, staging emptied, the transfer in flight stale, the contents undefined. -/
def acceptPlan (p : MemoryPlan) (s : State) : State :=
  let s := emptyStaging s
  { s with
    frameMemory := forgetBytes
      { s.frameMemory with plan := some p, slots := [], channel := staleTransfer s.frameMemory.channel } }

/-- R59: MEMORY_PLAN. -/
def memoryPlanOwner (p : MemoryPlan) (s : State) : Carried :=
  if !s.frameMemory.ready then refuse .notReady s
  else if s.reel.state != .noReel then refuse .badState s
  else if !planInRange s.frameMemory.size p then refuse .badArg s
  else if planOverlaps p then refuse .overlap s
  else
    match firstMisfit s.formats p with
    | some n => (⟨.badArg, [word n]⟩, s)
    | none => (⟨.ok, twoWords s.frameMemory.size ++ [word (ringBytes p), word referenceBytes]⟩, acceptPlan p s)

/-! ## Pace Generator (R47, R48, R56) -/

/-- The Pace Generator's block replaced. -/
def setPace (p : Pace) (s : State) : State := { s with pace := p }

/-- R47: PACE_TABLE_SET. -/
def paceTableOwner (t : Vector (Option PaceLevel) 7) (high low : Nat) (s : State) : Carried :=
  if s.reel.state != .noReel then refuse .badState s
  else if !(levelsInRange t.toList && watermarksInRange high low) then refuse .badArg s
  else if !ratesRise t.toList then refuse .badArg s
  else
    let p := { s.pace with table := t, high := high, low := low }
    if p.requested = 0 ∨ isSetLevel p p.requested then (⟨.ok, [word p.requested]⟩, formEffective (setPace p s))
    else (⟨.adjusted, [word 0]⟩, formEffective (setPace { p with requested := 0 } s))

/-- R48: PACE_REQUEST: the fault latch is cleared whatever the reply, and every reply carries the requested level (LE 24). -/
def paceRequestOwner (level : Nat) (s : State) : Carried :=
  let r := requestLevel level s.pace
  (⟨r.2, [word r.1]⟩, formEffective (setPace { s.pace with faultLatch := false, requested := r.1 } s))

/-- R56: TIMING_SET. DESIGN CHOICE (LE 32): the reply carries the timeouts in the units of R56 (100, 100 and 10 ms), not in
milliseconds. -/
def timingSetOwner (spinUp silence stall : Nat) (s : State) : Carried :=
  let p :=
    { s.pace with
      spinUpTimeout := newTimeout 50 s.pace.spinUpTimeout spinUp,
      silenceTimeout := newTimeout 50 s.pace.silenceTimeout silence,
      stallTimeout := newTimeout 255 s.pace.stallTimeout stall }
  (⟨if 50 < spinUp ∨ 50 < silence ∨ 255 < stall then .adjusted else .ok,
      [word p.spinUpTimeout, word p.silenceTimeout, word p.stallTimeout]⟩, setPace p s)

/-! ## Frame Tracker (R41) -/

/-- R41: FRAMING_NUDGE. -/
def framingNudgeOwner (d : Nat) (s : State) : Carried :=
  let r := nudgeTracker d s.tracker
  (⟨r.1, []⟩, setTracker r.2 s)

/-! ## Grading Engine (R113 to R116, R122, R123) -/

/-- One set replaced. -/
def setGradeSet (i : Fin 4) (x : GradeSet) (s : State) : State :=
  setGrading { s.grading with sets := s.grading.sets.set i x } s

/-- A chunk of a LUT is covered: all 512 of its entries are written (R112). -/
def chunkCovered (lut : List (Nat × Half)) (c : Nat) : Bool := (lut.filter (fun e => e.1 / 512 == c)).length == 512

/-- The numbers of the eight chunks. -/
def chunkNumbers : List Nat := [0, 1, 2, 3, 4, 5, 6, 7]

/-- The eight chunk flags of a LUT, bit c being chunk c. -/
def chunkFlags (lut : List (Nat × Half)) : Nat := (chunkNumbers.map (fun c => flagBit c (chunkCovered lut c))).sum

/-- R112: the coverage of a set is complete. -/
def isComplete (x : GradeSet) : Bool :=
  x.luts.toList.all (fun lut => chunkNumbers.all (chunkCovered lut)) && x.matrix.isSome

/-- R116: what an INCOMPLETE_SET reply lists: per LUT the chunks not covered, then the missing matrix. -/
def missingWords (x : GradeSet) : List Word :=
  x.luts.toList.map (fun lut => word (255 - chunkFlags lut)) ++ [markWord x.matrix.isNone]

/-- R113: a count of 0 means 512. -/
def loadCount (count : Nat) : Nat := if count = 0 then 512 else count

/-- R113: the entries written: data entry i while the list holds one, and its last entry after. -/
def loadRun (n : Nat) (data : List Half) : List Half :=
  data.take n ++ List.replicate (n - data.length) (data.getLastD 0#16)

/-- R113, Table 8-2: a written set is LOADING. -/
def writeLut (lut : Fin 6) (first : Nat) (run : List Half) (x : GradeSet) : GradeSet :=
  { x with luts := x.luts.set lut (tableSetRun x.luts[lut] first run), state := .loading }

/-- R113: LUT_LOAD. -/
def lutLoadOwner (set lut first count : Nat) (data : List Half) (s : State) : Carried :=
  match indexOf 4 set, indexOf 6 lut with
  | some i, some l =>
    if 4095 < first ∨ 512 < count ∨ data = [] ∨ loadCount count < data.length then refuse .badArg s
    else if s.grading.sets[i].state = .inUse then refuse .setBusy s
    else
      let n := min (loadCount count) (4096 - first)
      let x := writeLut l first (loadRun n data) s.grading.sets[i]
      (⟨if n < loadCount count then .adjusted else .ok, [word n, word (chunkFlags x.luts[l])]⟩, setGradeSet i x s)
  | _, _ => refuse .badArg s

/-- R114: MATRIX_LOAD. -/
def matrixLoadOwner (set : Nat) (m : Matrix) (s : State) : Carried :=
  match indexOf 4 set with
  | none => refuse .badArg s
  | some i =>
    if s.grading.sets[i].state = .inUse then refuse .setBusy s
    else (⟨.ok, []⟩, setGradeSet i { s.grading.sets[i] with matrix := some m, state := .loading } s)

/-- R115: SET_CLEAR. -/
def setClearOwner (set : Nat) (s : State) : Carried :=
  match indexOf 4 set with
  | none => refuse .badArg s
  | some i => if s.grading.sets[i].state = .inUse then refuse .setBusy s else (⟨.ok, []⟩, setGradeSet i GradeSet.cleared s)

/-- The reported state of a Grade Set. -/
def reportedSet : SetState → ReportedState
  | .empty => .setEmpty
  | .loading => .setLoading
  | .ready => .setReady
  | .inUse => .setInUse

/-- R116: SET_COMMIT. An OK reply carries the set's state afterwards. -/
def setCommitOwner (set : Nat) (s : State) : Carried :=
  match indexOf 4 set with
  | none => refuse .badArg s
  | some i =>
    let x := s.grading.sets[i]
    match x.state with
    | .loading =>
      if isComplete x then (⟨.ok, [Config.stateCode .setReady]⟩, setGradeSet i { x with state := .ready } s)
      else (⟨.incompleteSet, missingWords x⟩, s)
    | .empty => (⟨.incompleteSet, missingWords x⟩, s)
    | st => (⟨.ok, [Config.stateCode (reportedSet st)]⟩, s)

/-- R122: a FRAME cue at the place its trigger takes. -/
def insertCue (c : FrameCue) (cues : List FrameCue) : List FrameCue :=
  cues.filter (fun x => x.trigger < c.trigger) ++ c :: cues.filter (fun x => c.trigger < x.trigger)

/-- R122: CUE_ADD. -/
def cueAddOwner (kind : CueKind) (set d trigger : Nat) (s : State) : Carried :=
  match indexOf 4 set with
  | none => refuse .badArg s
  | some i =>
    if 64 < d then refuse .badArg s
    else if s.reel.state = .noReel ∨ s.reel.state = .ticketWait then refuse .badState s
    else
      match kind with
      | .frame =>
        if s.grading.cues.any (fun c => c.trigger == trigger) then refuse .duplicate s
        else if 64 ≤ s.grading.cues.length then refuse .tableFull s
        else (⟨.ok, []⟩, setGrading { s.grading with cues := insertCue ⟨trigger, i, d⟩ s.grading.cues } s)
      | .splice =>
        if 16 ≤ s.grading.spliceCues.length then refuse .tableFull s
        else (⟨.ok, []⟩, setGrading { s.grading with spliceCues := s.grading.spliceCues ++ [⟨i, d⟩] } s)

/-- R123: CUE_CLEAR, with the numbers of FRAME and SPLICE cues removed. -/
def cueClearOwner (which : Selection) (s : State) : Carried :=
  let frames := decide (which ≠ .second)
  let splices := decide (which ≠ .first)
  let g := s.grading
  (⟨.ok, [word (if frames then g.cues.length else 0), word (if splices then g.spliceCues.length else 0)]⟩,
    setGrading
      { g with cues := if frames then [] else g.cues, spliceCues := if splices then [] else g.spliceCues } s)

/-! ## Repair Engine (R107, R108) -/

/-- R107: SCRATCH_LOAD, with the list of the slots given. -/
def scratchLoadOwner (xs : List ScratchSpan) (s : State) : Carried :=
  let table := s.repair.scratches
  if scratchListBad xs then refuse .badArg s
  else if table.any (fun e => !isLearned e && meetsList xs e) then refuse .overlap s
  else
    let kept := table.filter (fun e => !meetsList xs e)
    if 32 < kept.length + xs.length then refuse .tableFull s
    else
      let r := loadScratches xs kept
      (⟨.ok, word r.2.length :: r.2.map word⟩, setRepair { s.repair with scratches := r.1 } s)

/-- R108: an entry that a selector names. -/
def selectedEntry (which : Selection) (e : ScratchEntry) : Bool :=
  match which with
  | .first => isLearned e
  | .second => !isLearned e
  | .all => true

/-- R108: SCRATCH_CLEAR, with the number of entries removed. -/
def scratchClearOwner (which : Selection) (s : State) : Carried :=
  let table := s.repair.scratches
  (⟨.ok, [word (table.filter (selectedEntry which)).length]⟩,
    setRepair { s.repair with scratches := table.filter (fun e => !selectedEntry which e) } s)

/-! ## Reel Controller's tables (R145, R146) -/

/-- The Reel Controller's block replaced. -/
def setReel (r : ReelController) (s : State) : State := { s with reel := r }

/-- R145: the ranges of a set row. -/
def rowInRange : Option ShelvingRow → Bool
  | none => true
  | some r => 1 ≤ r.metric && r.metric ≤ 12 && 1 ≤ r.cls && r.cls ≤ 5

/-- R145: SHELVING_ROW_SET. -/
def shelvingRowOwner (row : Nat) (r : Option ShelvingRow) (s : State) : Carried :=
  match indexOf 16 row with
  | none => refuse .badArg s
  | some i =>
    if rowInRange r then (⟨.ok, []⟩, setReel { s.reel with shelving := s.reel.shelving.set i r } s) else refuse .badArg s

/-- R146: the ranges of a set entry. -/
def entryInRange : Option ClassEntry → Bool
  | none => true
  | some e => 1 ≤ e.interval && e.interval ≤ 240

/-- R146: CLASS_SET. -/
def classSetOwner (cls : Nat) (e : Option ClassEntry) (s : State) : Carried :=
  if cls = 0 then refuse .badArg s
  else
    match indexOf 5 (cls - 1) with
    | none => refuse .badArg s
    | some i =>
      if entryInRange e then (⟨.ok, []⟩, setReel { s.reel with classes := s.reel.classes.set i e } s) else refuse .badArg s

/-! ## Notice Unit (R162, R163) -/

/-- The class of a number, 1 to 10. -/
def classOfNumber (n : Nat) : Option NoticeClass := noticeClasses.find? (fun c => classNumber c == n)

/-- The reported state of a latch. -/
def reportedLatch : Latch → ReportedState
  | .armed => .latchArmed
  | .pending _ => .latchPending
  | .raised => .latchRaised

/-- R162: an acknowledgement of a class. -/
def acknowledge (n : NoticeState) : NoticeState :=
  match n.latch with
  | .raised => if 0 < n.count ∧ n.enabled then buildNotice n else { n with latch := .armed }
  | _ => n

/-- R162: NOTICE_ACK. -/
def noticeAckOwner (cls : Nat) (s : State) : Carried :=
  match classOfNumber cls with
  | none => refuse .badArg s
  | some c =>
    let n := acknowledge (noticeOf s.notices c)
    (⟨.ok, [Config.stateCode (reportedLatch n.latch), word n.count]⟩, { s with notices := setNotice s.notices c n })

/-- R163: the enable of a class set; a class set ON while it is ARMED with a count above 0 builds a notice at once. -/
def enableClass (on : Bool) (n : NoticeState) : NoticeState :=
  if on ∧ n.latch = .armed ∧ 0 < n.count then buildNotice { n with enabled := on } else { n with enabled := on }

/-- The classes that NOTICE_ENABLE names: one, or all for FFh. -/
def namedClasses (cls : Nat) : List NoticeClass :=
  if cls = 255 then noticeClasses else (classOfNumber cls).toList

/-- The unit with the named classes set. -/
def enableAll (on : Bool) (cs : List NoticeClass) (u : NoticeUnit) : NoticeUnit :=
  cs.foldl (fun v c => setNotice v c (enableClass on (noticeOf v c))) u

/-- The ten enables, in class order. -/
def enableWords (u : NoticeUnit) : List Word := noticeClasses.map (fun c => markWord (noticeOf u c).enabled)

/-- R163: NOTICE_ENABLE. -/
def noticeEnableOwner (cls : Nat) (on : Bool) (s : State) : Carried :=
  match namedClasses cls with
  | [] => refuse .badArg s
  | cs =>
    let u := enableAll on cs s.notices
    (⟨.ok, enableWords u⟩, { s with notices := u })

end Sys2Proof.Machine
end

