-- ==== Sys2Proof/Machine/Reel.lean ====
section
/-! DEFINITION. The Reel Controller (08_reels_condition_and_shelving.md): opening, closing and aborting a reel, the Reel Record, the
metrics, the classification and the ticket. -/

namespace Sys2Proof.Machine

/-! ## Opening (R134, R135) -/

/-- An accession character. -/
def isAccessionChar (b : Byte) : Bool := 0x20 ≤ b.toNat && b.toNat ≤ 0x7E

/-- The previous class, when present, lies in 1 to 5. -/
def previousClassInRange : Option Nat → Bool
  | none => true
  | some c => 1 ≤ c && c ≤ 5

/-- The request's format and initial set as indexes, and its remaining fields inside their ranges (R134, check 1). -/
def checkRequest (r : ReelRequest) : Option (Fin 8 × Fin 4) :=
  if 1 ≤ r.accessionLength ∧ r.accessionLength ≤ 24 ∧ r.accession.all isAccessionChar ∧ 1 ≤ r.reelNumber ∧ r.reelNumber ≤ 255
      ∧ previousClassInRange r.previousClass then
    match indexOf 8 r.format, indexOf 4 r.initialSet with
    | some f, some i => some (f, i)
    | _, _ => none
  else none

/-- The reel identity that REEL_OPEN carries (R133). -/
def identityOf (r : ReelRequest) (f : Fin 8) (i : Fin 4) : ReelIdentity :=
  { accession := r.accession, reelNumber := r.reelNumber, format := f, initialSet := i, shrinkHint := r.shrinkHint,
    previousClass := r.previousClass, paceLevel := r.paceLevel }

/-- Table 4-3, REEL_OPEN column, before the effective level is formed. An evaluation of the ring cap that waits from the reel before is
over (LE 10). -/
def Pace.opening (level : Option Nat) (p : Pace) : Pace :=
  { p with
    requested := openingLevel level p, ringCap := 7, faultLatch := false, due := { p.due with ringCap := none } }

/-- Table 5-5, REEL_OPEN column. -/
def FrameMemory.opening (f : FrameMemory) : FrameMemory :=
  { f with slots := [], fillLine := 0, channel := staleTransfer f.channel, dropped := 0, overruns := 0 }

/-- Table 9-3, REEL_OPEN column. -/
def ReelController.opening (x : ReelIdentity) (r : ReelController) : ReelController :=
  { r with
    state := .opened, sequence := r.sequence + 1#16, identity := some x, record := ReelRecord.zero, lastMetrics := none,
    held := none }

/-- R135: the accepted REEL_OPEN at every block. -/
def openReel (x : ReelIdentity) (f : Format) (p : MemoryPlan) (s : State) : State :=
  let s := emptyStaging s
  formEffective
    { s with
      intake := Intake.opening, tracker := Tracker.opening f.tracking x.shrinkHint, pace := s.pace.opening x.paceLevel,
      frameMemory := s.frameMemory.opening, conformance := Conformance.opening f.conformance p, repair := s.repair.opening f,
      grading := s.grading.opening f.conformance x.initialSet, reel := s.reel.opening x }

/-- R134: REEL_OPEN. -/
def reelOpenOwner (r : ReelRequest) (s : State) : Carried :=
  match checkRequest r with
  | none => refuse .badArg s
  | some (f, i) =>
    if s.reel.state ≠ .noReel ∨ s.contexts ≠ [] then refuse .badState s
    else
      match s.frameMemory.plan, s.formats[f], s.grading.sets[i].state with
      | some p, some format, .ready =>
        let t := openReel (identityOf r f i) format p s
        (⟨.ok, [word t.reel.sequence.toNat]⟩, t)
      | _, _, _ => refuse .notConfigured s

/-! ## Closing (R136, R137) -/

/-- R136: the start of an accepted close. DESIGN CHOICE (LE 43): the effective level is formed once, after all that the start changes: the
reel CLOSING, the Tracker IDLE, and with an empty queue the requested level already 0. The lifting of the damage cap alone starts no
counter before that 0. -/
def startClose (s : State) : State :=
  formEffective
    (startDrain { s with reel := { s.reel with state := .closing }, tracker := s.tracker.idled })

/-- R137: the close is ready for classification. -/
def closeReady (s : State) : Bool :=
  s.reel.state == .closing && s.intake.mode == .closed && s.contexts.isEmpty && s.repair.mode == .waiting

/-! ## The Reel Record (R142, R143) -/

/-- The lesser of an optional value and a value. -/
def minWith (x : Option Nat) (n : Nat) : Option Nat := some (match x with
  | some m => min m n
  | none => n)

/-- The greater of an optional value and a value. -/
def maxWith (x : Option Nat) (n : Nat) : Option Nat := some (match x with
  | some m => max m n
  | none => n)

/-- R142: a retired frame added to the Reel Record. -/
def addFrame (raster : Nat × Nat) (c : FrameContext) (r : ReelRecord) : ReelRecord :=
  { r with
    framesDelivered := satAdd r.framesDelivered 1,
    framesIncomplete := satAdd r.framesIncomplete c.incomplete.toNat,
    substitutedLines := satAdd r.substitutedLines c.substituted,
    sumS := r.sumS + c.appliedS, minS := minWith r.minS c.appliedS, maxS := maxWith r.maxS c.appliedS,
    temporal := r.temporal + c.temporal, spatial := r.spatial + c.spatial, scratchPixels := r.scratchPixels + c.scratchPixels,
    unrepaired := r.unrepaired + c.unrepaired, clipped := r.clipped + c.clipped,
    pixelsDelivered := r.pixelsDelivered + raster.1 * raster.2,
    sumMeanR := r.sumMeanR + c.meanR, sumMeanB := r.sumMeanB + c.meanB }

/-- R143: the block counters copied into the Reel Record. -/
def copyCounters (s : State) (r : ReelRecord) : ReelRecord :=
  { r with
    framesLost := s.tracker.counters.framesLost, perforationsSeen := s.tracker.counters.perforationsSeen,
    synthesized := s.tracker.counters.synthesized, spurious := s.tracker.counters.spuriousEdges,
    irregular := s.tracker.counters.irregular, splices := s.tracker.counters.splices,
    pitchSteps := s.tracker.counters.pitchSteps, lockLosses := s.tracker.counters.lockLosses,
    unframedLines := s.tracker.counters.unframedLines, missingLines := s.intake.counters.missingLines,
    droppedLines := s.frameMemory.dropped, scratchesTracked := s.repair.scratchesTracked }

/-! ## Metrics (R144) -/

/-- Metric 1, 0 when no frame is delivered or S_mean is at or above 65536. -/
def shrinkPm (r : ReelRecord) : Nat :=
  if r.framesDelivered = 0 then 0 else (65536 - r.sumS / r.framesDelivered) * 1000 / 65536

/-- Metric 2, 0 when minimum and maximum are absent. -/
def shrinkSpreadPm (r : ReelRecord) : Nat :=
  match r.minS, r.maxS with
  | some a, some b => (b - a) * 1000 / 65536
  | _, _ => 0

/-- Table 9-5: the twelve metrics in id order. A division by 0 is 0. -/
def metricsOf (r : ReelRecord) : List Nat :=
  [shrinkPm r, shrinkSpreadPm r, r.splices, r.synthesized * 1000 / r.perforationsSeen, r.lockLosses,
    (r.temporal + r.spatial) * 1000000 / r.pixelsDelivered, r.unrepaired * 1000000 / r.pixelsDelivered, r.scratchesTracked,
    min (1024 * r.sumMeanB / r.sumMeanR) 65535, r.framesLost, r.framesIncomplete, r.clipped * 1000000 / r.pixelsDelivered]

/-! ## Classification (R145 to R148) -/

/-- R145: a set row holds for a reel's metrics. -/
def rowHolds (metrics : List Nat) (row : ShelvingRow) : Bool :=
  let m := metrics.getD (row.metric - 1) 0
  match row.comparison with
  | .atLeast => row.threshold ≤ m
  | .atMost => m ≤ row.threshold

/-- The set rows that hold, with their numbers, ascending (R147, step 3). -/
def matchedRows (metrics : List Nat) (table : Vector (Option ShelvingRow) 16) : List (Nat × ShelvingRow) :=
  (List.range 16).filterMap (fun i =>
    match (table[i]?).join with
    | some row => if rowHolds metrics row then some (i, row) else none
    | none => none)

/-- R147, step 4: the highest class among the matched rows, or 1. -/
def classOf (rows : List (Nat × ShelvingRow)) : Nat := if rows = [] then 1 else rows.foldl (fun m x => max m x.2.cls) 0

/-- The Class Table's entry of a class. -/
def classEntry (r : ReelController) (cls : Nat) : Option ClassEntry := (r.classes[cls - 1]?).join

/-- R148: the ticket of a classified reel. -/
def classifiedTicket (x : ReelIdentity) (r : ReelController) (record : ReelRecord) (metrics : List Nat) : Ticket :=
  let rows := matchedRows metrics r.shelving
  let cls := classOf rows
  let entry := classEntry r cls
  { reelSequence := r.sequence, accession := x.accession, reelNumber := x.reelNumber, format := x.format.val, cls := cls,
    previousClass := x.previousClass, change := x.previousClass.map (classChange cls),
    zone := (entry.map (·.zone)).getD 0, interval := (entry.map (·.interval)).getD 0,
    flags := (entry.map (·.flags)).getD noHandling, classUnset := entry.isNone, matchedRows := rows.map (·.1),
    metrics := metrics, framesDelivered := record.framesDelivered, framesLost := record.framesLost, aborted := false }

/-- R148: the ticket of an aborted reel. -/
def abortTicket (x : ReelIdentity) (r : ReelController) (record : ReelRecord) (metrics : List Nat) : Ticket :=
  { reelSequence := r.sequence, accession := x.accession, reelNumber := x.reelNumber, format := x.format.val, cls := 0,
    previousClass := x.previousClass, change := none, zone := 0, interval := 0, flags := noHandling, classUnset := false,
    matchedRows := [], metrics := metrics, framesDelivered := record.framesDelivered, framesLost := record.framesLost,
    aborted := true }

/-- R149: a ticket joins the Ticket Queue and raises TICKET_READY. -/
def joinTicket (t : Ticket) (s : State) : State :=
  raise .ticketReady { s with reel := { s.reel with tickets := s.reel.tickets ++ [t] } }

/-- The answer to a completed close: reel sequence and class (R138). -/
def closeAnswer (t : Ticket) : Answer := ⟨.ok, [word t.reelSequence.toNat, word t.cls]⟩

/-- R138: a ticket of a closed reel finds room: it joins, the reel state becomes NO_REEL, and the close is answered OK. -/
def completeClose (t : Ticket) (s : State) : State :=
  let s := joinTicket t s
  formEffective
    { s with
      reel := { s.reel with state := .noReel, held := none },
      interpreter := answerHead (closeAnswer t) s.interpreter }

/-- R138: the ticket is held while the Ticket Queue is full. -/
def holdTicket (t : Ticket) (s : State) : State :=
  formEffective { s with reel := { s.reel with state := .ticketWait, held := some t } }

/-- R147: the classification of a closed reel, and the Grading Engine's release of its sets (R132). -/
def classify (x : ReelIdentity) (s : State) : State :=
  let record := copyCounters s s.reel.record
  let metrics := metricsOf record
  let t := classifiedTicket x s.reel record metrics
  let s :=
    { s with reel := { s.reel with record := record, lastMetrics := some metrics }, grading := s.grading.endOfClose }
  if s.reel.tickets.length < 4 then completeClose t s else holdTicket t s

/-- R138, R149: the head ticket leaves the queue at the completion of its transmission; a held ticket takes the place freed. -/
def departTicket (s : State) : State :=
  let s := { s with reel := { s.reel with tickets := s.reel.tickets.tail } }
  match s.reel.state, s.reel.held with
  | .ticketWait, some t => completeClose t s
  | _, _ => s

/-! ## Retiring a context (R13, R142) -/

/-- The raster of the reel's format, as the Grading Engine copied it. -/
def rasterOf (s : State) : Nat × Nat := s.grading.raster.getD (0, 0)

/-- R13, R142: the head context is retired and, unless it is marked ABORTED, added to the Reel Record. -/
def retireContext (s : State) : State :=
  match s.contexts with
  | [] => s
  | c :: rest =>
    if c.aborted then { s with contexts := rest }
    else { s with contexts := rest, reel := { s.reel with record := addFrame (rasterOf s) c s.reel.record } }

/-! ## Abort (R139 to R141) -/

/-- The frame whose FRAME_TAIL is in transmission with its completion effects standing. -/
def tailInTransmission (d : DeliveryPort) : Option Nat :=
  match d.transmission, d.queue with
  | some t, .tail c :: _ => if t.source = .framePacket ∧ t.detached = false then some c.frame else none
  | _, _ => none

/-- The packets of the output line queue that are in transmission: its head, or none. -/
def sendingPackets (d : DeliveryPort) : List FramePacket :=
  match d.transmission with
  | some t => if t.source = .framePacket then d.queue.take 1 else []
  | none => []

/-- R139: the contexts that a plain abort leaves: the head, when its FRAME_TAIL is in transmission or, marked ABORTED, when it is opened.
Only the head of the queue can be opened. -/
def abortContexts (tail : Option Nat) (cs : List FrameContext) : List FrameContext :=
  match cs with
  | [] => []
  | c :: _ => if some c.frame = tail then [c] else if c.opened then [{ c with aborted := true }] else []

/-- R139: the ABORTED tails of the contexts that the abort marked. -/
def abortedTails (cs : List FrameContext) : List FramePacket := (cs.filter (·.aborted)).map .tail

/-- R139: the frames that an abort counts as aborted: every context but the one whose FRAME_TAIL is in transmission. -/
def abortedFrames (tail : Option Nat) (cs : List FrameContext) : Nat :=
  match cs with
  | [] => 0
  | c :: rest => if some c.frame = tail then rest.length else rest.length + 1

/-- R139: the disposal of contexts and packets under a plain abort. -/
def disposePlain (s : State) : State :=
  let cs := abortContexts (tailInTransmission s.delivery) s.contexts
  { s with
    contexts := cs,
    delivery := { s.delivery with queue := sendingPackets s.delivery ++ abortedTails cs } }

/-- R139, R14, R42: the disposal under SOFT_RESET: every context and every packet not in transmission is removed. -/
def disposeSoft (s : State) : State :=
  { s with contexts := [], delivery := { s.delivery with queue := sendingPackets s.delivery } }

/-- R140: the abort values of the blocks, and the close in flight answered ABORTED. -/
def abortBlocks (s : State) : State :=
  let s := withdrawEngines (emptyStaging s)
  forceStop
    { s with
      intake := s.intake.abort, tracker := s.tracker.idled, conformance := s.conformance.abort, repair := s.repair.abort,
      grading := s.grading.abort, reel := { s.reel with state := .noReel, held := none },
      interpreter := answerHead ⟨.aborted, []⟩ s.interpreter }

/-- R140: the record copied, the last metrics computed, and the abort ticket offered. Answers the state and the TICKET_DROPPED mark. -/
def abortRecord (s : State) : State × Bool :=
  let record := copyCounters s s.reel.record
  let metrics := metricsOf record
  let s := { s with reel := { s.reel with record := record, lastMetrics := some metrics } }
  match s.reel.identity with
  | none => (s, false)
  | some x =>
    if s.reel.tickets.length < 4 then (joinTicket (abortTicket x s.reel record metrics) s, false) else (s, true)

/-- R139: the frames-aborted count of the Reel Record. -/
def countAborted (n : Nat) (s : State) : State :=
  { s with reel := { s.reel with record := { s.reel.record with framesAborted := satAdd s.reel.record.framesAborted n } } }

/-- What an abort leaves: the frames it counted aborted, the TICKET_DROPPED mark, and the state. -/
structure Aborted where
  frames : Nat
  dropped : Bool
  state : State

/-- R139, R140: a plain reel abort. -/
def abortReel (s : State) : Aborted :=
  let n := abortedFrames (tailInTransmission s.delivery) s.contexts
  let r := abortRecord (abortBlocks (disposePlain (countAborted n s)))
  ⟨n, r.2, r.1⟩

/-- R139, R141: the reel abort that SOFT_RESET performs. -/
def abortReelSoft (s : State) : Aborted :=
  let n := s.contexts.length
  let r := abortRecord (abortBlocks (disposeSoft (countAborted n s)))
  ⟨n, r.2, r.1⟩

/-! ## SOFT_RESET (R155, step 3, and each block's table) -/

/-- Table 4-3, SOFT_RESET column, before the effective level is formed. -/
def Pace.softReset (p : Pace) : Pace := { p with requested := 0, ringCap := 7, faultLatch := false }

/-- Table 5-5, SOFT_RESET column. -/
def FrameMemory.softReset (f : FrameMemory) : FrameMemory :=
  { f with slots := [], fillLine := 0, channel := staleTransfer f.channel }

/-- R165: latches ARMED and counts 0, enables kept. -/
def NoticeState.softReset (n : NoticeState) : NoticeState := { n with count := 0, latch := .armed }

/-- R165, SOFT_RESET column. -/
def NoticeUnit.softReset (u : NoticeUnit) : NoticeUnit :=
  noticeClasses.foldl (fun v c => setNotice v c (noticeOf v c).softReset) u

/-- R16: the packet in transmission loses its completion effects. -/
def detach (t : Option Transmission) : Option Transmission := t.map (fun x => { x with detached := true })

/-- R14, R15, R16: SOFT_RESET at the Delivery Port. -/
def DeliveryPort.softReset (d : DeliveryPort) : DeliveryPort := { d with stall := none, transmission := detach d.transmission }

/-- R155, step 3: each block's soft-reset rule. -/
def softResetBlocks (s : State) : State :=
  let s := disposeSoft (withdrawEngines (emptyStaging s))
  formEffective
    { s with
      intake := s.intake.softReset, tracker := s.tracker.softReset, pace := s.pace.softReset,
      frameMemory := s.frameMemory.softReset, conformance := s.conformance.softReset, repair := s.repair.softReset,
      grading := s.grading.softReset, reel := { s.reel with state := .noReel, held := none }, notices := s.notices.softReset,
      delivery := s.delivery.softReset }

end Sys2Proof.Machine
end

