-- ==== Sys2Proof/Machine/Status.lean ====
section
/-! DEFINITION. The records of STATUS_QUERY (09 R157, R158, Table 10-3), laid out as R167 says, in the order in which the owning rules name
their items (LE 8). States without a code in Table 12-10 read as free values (LE 7). -/

namespace Sys2Proof.Machine

/-- The code word of a state. -/
def codeWord (x : ReportedState) : Word := Config.stateCode x

/-! ## IDENTITY (R158) -/

/-- R158: part code, revision and the six capacities. -/
def identityRecord : List Word := [0x4410#32, 1#32, 4096#32, 16384#32, 4#32, 32#32, 64#32, 8#32]

/-! ## TRACKER (R42, R44) -/

/-- The reported state of the Tracker. -/
def reportedTracker : TrackerMode → ReportedState
  | .idle => .trackerIdle
  | .search => .trackerSearch
  | .locked => .trackerLocked
  | .coasting => .trackerCoasting

/-- The nine tracking counters in the order of Table 3-5. -/
def trackerCounterWords (c : TrackerCounters) : List Word :=
  [c.perforationsSeen, c.synthesized, c.spuriousEdges, c.irregular, c.splices, c.pitchSteps, c.lockLosses, c.unframedLines,
    c.framesLost].map word

/-- R44, R42: the TRACKER record. -/
def trackerRecord (s : State) : List Word :=
  let t := s.tracker
  trackerCounterWords t.counters
    ++ [codeWord (reportedTracker t.mode), word t.shrink, word t.history.length]
    ++ optionalWord (t.window.map (·.pitch))
    ++ [word t.synthRun, word t.acceptRun, word t.frameCounter]
    ++ optionalPosition (t.pendingTop.map (·.position)) ++ optionalPosition (t.suspect.map (·.position))
    ++ optionalPosition t.spliceMark
    ++ [word s.contexts.length] ++ optionalWord (s.contexts.head?.map (·.frame)) ++ optionalWord (s.contexts.getLast?.map (·.frame))

/-! ## RING (R57, R58, R60, R62, R63, R71, R79) -/

/-- The plan's five fields. DESIGN CHOICE (LE 36): R60 gives no record layout of a plan that is unset; it is five words of 0, as for an
unset table row (R167), with no presence word. -/
def planWords : Option MemoryPlan → List Word
  | some p => [p.wIn, p.r, p.ringBase, p.baseA, p.baseB].map word
  | none => List.replicate 5 0#32

/-- A level of the Pace Table. DESIGN CHOICE (LE 40): R57 and R167 give a set level no record layout; it is two words, P and then Q, and
words of 0 when unset, not the packed word of PACE_TABLE_SET. -/
def levelWords : Option PaceLevel → List Word
  | some l => [word l.p, word l.q]
  | none => [0#32, 0#32]

/-- R57: the Pace Generator's part of the RING record. DESIGN CHOICE (LE 32): the timeouts stand in the units of R56 (100, 100 and 10 ms),
not in milliseconds. DESIGN CHOICE (LE 38): the held TRUN level is the word 1 for ASSERTED and 0 for DEASSERTED. -/
def paceWords (p : Pace) : List Word :=
  [word p.requested, word p.ringCap, word p.effective,
      codeWord (if p.counters.isSome then .countersRunning else .countersStopped)]
    ++ optionalWord (p.counters.map (·.level))
    ++ [codeWord (if p.spinUp.isSome then .spinUpRunning else .spinUpStopped)] ++ optionalWord p.spinUp
    ++ [markWord p.faultLatch, markWord p.trun] ++ p.table.toList.flatMap levelWords
    ++ [word p.high, word p.low, word p.spinUpTimeout, word p.silenceTimeout, word p.stallTimeout]

/-- The job in hand at the Conformance Engine. -/
def jobOf : ConformanceMode → Option FrameJob
  | .idle => none
  | .gathering job => some job
  | .offering job _ => some job

/-- The reported state of the Conformance Engine. -/
def reportedConformance : ConformanceMode → ReportedState
  | .idle => .conformanceIdle
  | .gathering _ => .conformanceGathering
  | .offering _ _ => .conformanceOffering

/-- R79, R69: the lines the engine is waiting for: the needed lines that are PENDING. -/
def awaitedLines : ConformanceMode → List Nat
  | .gathering job => (job.needed.filter (fun n => n.verdict == .pending)).map (·.line)
  | _ => []

/-- R79, R167: a list that is absent when it is empty: its length and entries, followed by the presence word (LE 8). -/
def optionalList (l : List Nat) : List Word :=
  if l.isEmpty then [0#32, 0#32] else word l.length :: l.map word ++ [1#32]

/-- The held line's number. DESIGN CHOICE (LE 39): R79 names the mark "initial" and R167 gives it no form; it stands as an absent
number. -/
def heldNumber : HeldLine → Option Nat
  | .initial => none
  | .line n _ => some n

/-- R79: the Conformance Engine's part of the RING record. -/
def conformanceWords (c : Conformance) : List Word :=
  [codeWord (reportedConformance c.mode)] ++ optionalWord ((jobOf c.mode).map (·.frame)) ++ optionalWord ((jobOf c.mode).map (·.j))
    ++ optionalList (awaitedLines c.mode) ++ optionalWord (heldNumber c.held)

/-- The RING record. -/
def ringRecord (s : State) : List Word :=
  let f := s.frameMemory
  [codeWord (if f.ready then .memoryReady else .memoryNotReady)] ++ twoWords f.size ++ planWords f.plan
    ++ [word (protectBoundary s), word (earliestNeeded s.tracker s.intake.writeLine)]
    ++ optionalWord ((oldestUnfinished s).map (fun c => c.top / 16))
    ++ [word (occupancy s), word f.dropped, word f.overruns] ++ paceWords s.pace ++ conformanceWords s.conformance

/-! ## REEL_RECORD (R133) -/

/-- The reported reel state. -/
def reportedReel : ReelState → ReportedState
  | .noReel => .reelNoReel
  | .opened => .reelOpen
  | .closing => .reelClosing
  | .ticketWait => .reelTicketWait

/-- The reel identity: accession length and its six words, reel number, format, initial set, and the three optional fields. -/
def identityWords (x : ReelIdentity) : List Word :=
  word x.accession.length :: wordsOf 6 (accessionBytes x.accession)
    ++ [word x.reelNumber, word x.format.val, word x.initialSet.val] ++ optionalWord x.shrinkHint ++ optionalWord x.previousClass
    ++ optionalWord x.paceLevel

/-- Table 9-4 in its order; the fields of 64 bits take two words. -/
def recordWords (r : ReelRecord) : List Word :=
  [r.framesDelivered, r.framesIncomplete, r.substitutedLines, r.framesAborted].map word
    ++ twoWords r.sumS ++ optionalWord r.minS ++ optionalWord r.maxS
    ++ [r.temporal, r.spatial, r.scratchPixels, r.unrepaired, r.clipped, r.pixelsDelivered, r.sumMeanR, r.sumMeanB].flatMap twoWords
    ++ [r.framesLost, r.perforationsSeen, r.synthesized, r.spurious, r.irregular, r.splices, r.pitchSteps, r.lockLosses,
        r.unframedLines, r.missingLines, r.droppedLines, r.scratchesTracked].map word

/-- The code of a comparison (Table 12-10). -/
def comparisonCode : Comparison → Nat
  | .atLeast => 0
  | .atMost => 1

/-- A row of the Shelving Table, words of 0 when unset. -/
def rowWords : Option ShelvingRow → List Word
  | some r => [r.metric, comparisonCode r.comparison, r.threshold, r.cls].map word
  | none => List.replicate 4 0#32

/-- An entry of the Class Table, words of 0 when unset. -/
def entryWords : Option ClassEntry → List Word
  | some e => [e.zone, e.interval, handlingBits e.flags].map word
  | none => List.replicate 3 0#32

/-- The REEL_RECORD record; whether a ticket is held is the word 1 or 0 (DESIGN CHOICE, LE 38). -/
def reelRecordWords (r : ReelController) : List Word :=
  [codeWord (reportedReel r.state), word r.sequence.toNat] ++ optionalWords 16 identityWords r.identity ++ recordWords r.record
    ++ optionalWords 12 (fun m => m.map word) r.lastMetrics ++ [word r.tickets.length, markWord r.held.isSome]
    ++ r.shelving.toList.flatMap rowWords ++ r.classes.toList.flatMap entryWords

/-! ## SCRATCH_TABLE (R110) -/

/-- The code of an origin: LEARNED 0, LOADED 1. DEDUCED (LE 41): Table 12-10 gives these codes to the selectors of the same names. -/
def originCode : Origin → Nat
  | .learned _ _ => 0
  | .loaded => 1

/-- The state of a LEARNED entry. -/
def learnedState : Origin → Option LearnedState
  | .learned st _ => some st
  | .loaded => none

/-- The first frame of a LEARNED entry. -/
def firstFrame : Origin → Option Nat
  | .learned _ n => some n
  | .loaded => none

/-- The reported state of an entry. -/
def reportedScratch : LearnedState → ReportedState
  | .candidate => .scratchCandidate
  | .tracked => .scratchTracked
  | .fading => .scratchFading

/-- Table 7-4 in its order. -/
def scratchWords (e : ScratchEntry) : List Word :=
  [word e.slot, word e.left, word e.width, word (originCode e.origin)]
    ++ optionalWords 1 (fun st => [codeWord (reportedScratch st)]) (learnedState e.origin)
    ++ [word e.confirm, word e.miss, word e.tracked] ++ optionalWord (firstFrame e.origin)

/-- A validity record: its state, frame number and reel sequence. -/
def validityWords : Validity → List Word
  | .empty => codeWord .recordEmpty :: optionalWord none ++ optionalWord none
  | .filling n q => codeWord .recordFilling :: optionalWord (some n) ++ optionalWord (some q.toNat)
  | .valid n q => codeWord .recordValid :: optionalWord (some n) ++ optionalWord (some q.toNat)
  | .void n q => codeWord .recordVoid :: optionalWord (some n) ++ optionalWord (some q.toNat)

/-- The reported buffer. -/
def reportedBuffer : Buffer → ReportedState
  | .a => .bufferA
  | .b => .bufferB

/-- The reported state of the Repair Engine. -/
def reportedRepair : RepairMode → ReportedState
  | .waiting => .repairWaiting
  | .fetching _ => .repairFetching
  | .passing _ => .repairPassing

/-- Frame number and output line of the Repair Engine's line in hand. -/
def repairPosition : RepairMode → Option (Nat × Nat)
  | .waiting => none
  | .fetching h => some (h.line.frame, h.line.j)
  | .passing h => some (h.frame, h.j)

/-- The SCRATCH_TABLE record. DESIGN CHOICE (LE 39): the last-written mark's value none, for which R110 and R167 give no form, stands as
an absent item. -/
def scratchRecord (r : Repair) : List Word :=
  word r.scratches.length :: r.scratches.flatMap scratchWords ++ validityWords r.recordA ++ validityWords r.recordB
    ++ optionalWords 1 (fun x => [codeWord (reportedBuffer x)]) r.lastWritten
    ++ [codeWord (reportedRepair r.mode)] ++ optionalWord ((repairPosition r.mode).map (·.1))
    ++ optionalWord ((repairPosition r.mode).map (·.2)) ++ [word r.scratchesTracked]

/-! ## CUE_LIST (R121) -/

/-- The CUE_LIST record, with the counters of R125 and R126 in the order in which those rules name them. -/
def cueRecord (g : Grading) : List Word :=
  word g.cues.length :: g.cues.flatMap (fun c => [word c.trigger, word c.set.val, word c.d])
    ++ word g.spliceCues.length :: g.spliceCues.flatMap (fun c => [word c.set.val, word c.d])
    ++ [word g.counters.superseded, word g.counters.misses, word g.counters.applied]

/-! ## GRADE_SETS (R112, R132) -/

/-- The 48 chunk flags of a set. DESIGN CHOICE (LE 35): R112 and R167 give no layout; they are one item of 48 bits, in two words low first,
and bit 8 l + c is chunk c of LUT l. -/
def allChunkFlags (x : GradeSet) : Nat := x.luts.toList.foldr (fun lut n => chunkFlags lut + 256 * n) 0

/-- A set's state, chunk flags and matrix mark. -/
def setWords (x : GradeSet) : List Word :=
  codeWord (reportedSet x.state) :: twoWords (allChunkFlags x) ++ [markWord x.matrix.isSome]

/-- The Grading Engine's line in hand. -/
def gradingPosition : GradingMode → Option (Nat × Nat)
  | .waiting => none
  | .placing h => some (h.frame, h.j)

/-- The GRADE_SETS record. -/
def gradeSetRecord (g : Grading) : List Word :=
  g.sets.toList.flatMap setWords ++ optionalWord (g.current.map (·.val))
    ++ optionalWords 3 (fun d => [word d.target.val, word d.d, word d.k]) g.dissolve
    ++ [codeWord (if gradingPosition g.mode = none then .gradingWaiting else .gradingPlacing)]
    ++ optionalWord ((gradingPosition g.mode).map (·.1)) ++ optionalWord ((gradingPosition g.mode).map (·.2))

/-! ## NOTICES (R165) -/

/-- A class's enable, count and latch. -/
def noticeWords (n : NoticeState) : List Word := [markWord n.enabled, word n.count, codeWord (reportedLatch n.latch)]

/-- The NOTICES record, with the level of ATTN: the word 1 for asserted and 0 for deasserted (DESIGN CHOICE, LE 38). -/
def noticeRecord (u : NoticeUnit) : List Word := noticeClasses.flatMap (fun c => noticeWords (noticeOf u c)) ++ [markWord (attn u)]

/-! ## COUNTERS (R2, R12, R68, R71, R159) -/

/-- The ten intake counters in the order of Table 2-3. -/
def intakeCounterWords (c : IntakeCounters) : List Word :=
  [c.linesTaken, c.missingLines, c.gaps, c.duplicates, c.sequenceBreaks, c.lineCrcFailures, c.controlCrcFailures,
    c.malformedPackets, c.paddedLines, c.truncatedLines].map word

/-- The number of ordinary slots that satisfy a test. -/
def slotCount (p : ReplySlot → Bool) (x : Interpreter) : Nat := (x.ordinary.toList.filter p).length

/-- A slot is CLAIMED. -/
def isClaimed : ReplySlot → Bool
  | .claimed => true
  | _ => false

/-- A slot is FILLED. -/
def isFilled : ReplySlot → Bool
  | .filled _ => true
  | _ => false

/-- R159: the interpreter's own items; whether a command is in flight is the word 1 or 0 (DESIGN CHOICE, LE 38). -/
def interpreterWords (x : Interpreter) : List Word :=
  [word x.dropped, word x.unanswered, word x.queue.length, markWord x.inFlight.isSome, word (slotCount isFree x),
    word (slotCount isClaimed x), word (slotCount isFilled x),
    codeWord (if x.reserved.isSome then .reservedFilled else .reservedFree)]

/-- The COUNTERS record. -/
def counterRecord (s : State) : List Word :=
  intakeCounterWords s.intake.counters ++ [word s.delivery.excess, word s.delivery.badGrants, word s.frameMemory.dropped,
      word s.frameMemory.overruns]
    ++ requesters.map (fun r => word (countOf s.frameMemory.grants r)) ++ interpreterWords s.interpreter

/-- R157: the record that a selector names. -/
def statusRecord (x : StatusSelector) (s : State) : List Word :=
  match x with
  | .identity => identityRecord
  | .tracker => trackerRecord s
  | .ring => ringRecord s
  | .reelRecord => reelRecordWords s.reel
  | .scratchTable => scratchRecord s.repair
  | .cueList => cueRecord s.grading
  | .gradeSets => gradeSetRecord s.grading
  | .notices => noticeRecord s.notices
  | .counters => counterRecord s

end Sys2Proof.Machine
end

