-- ==== Sys2Proof/Machine/Interpreter.lean ====
section
/-! DEFINITION. The Command Interpreter (09_command_interpreter.md): the checks before an owner, the Command Queue, immediate commands and
SOFT_RESET. -/

namespace Sys2Proof.Machine

/-! ## Carrying a command out (R152, R156, R167) -/

/-- A command answered BAD_ARG by the interpreter itself. -/
def badArg (s : State) : Carried := refuse .badArg s

/-- An owner called with a value that the interpreter could read, BAD_ARG otherwise (R167). -/
def withOperand {α : Type} (x : Option α) (owner : α → State → Carried) (s : State) : Carried :=
  match x with
  | some v => owner v s
  | none => badArg s

/-- R167: a PACE_REQUEST level above 255 cannot belong. -/
def paceLevelArg (w : Word) : Option Nat := if w.toNat ≤ 255 then some w.toNat else none

/-- R136: REEL_CLOSE: refused at once, or started and answered later. -/
def reelCloseOwner (s : State) : Option Answer × State :=
  if s.reel.state = .opened then (none, startClose s) else (some ⟨.badState, []⟩, s)

/-- A command that is answered at once. -/
def answered (r : Carried) : Option Answer × State := (some r.1, r.2)

/-- A queued command carried out: its answer, none for an accepted REEL_CLOSE, and the state it leaves (R152, R153, R156). -/
def carryOut (c : Command) (s : State) : Option Answer × State :=
  match c with
  | .formatSet a => answered (withOperand (formatOf a) (formatSetOwner a.number.toNat) s)
  | .memoryPlan a => answered (memoryPlanOwner (planOf a) s)
  | .paceTableSet a => answered (withOperand (paceLevelsOf a) (fun t => paceTableOwner t a.high.toNat a.low.toNat) s)
  | .paceRequest level => answered (withOperand (paceLevelArg level) paceRequestOwner s)
  | .timingSet x y z => answered (timingSetOwner x.toNat y.toNat z.toNat s)
  | .framingNudge d => answered (framingNudgeOwner d.toNat s)
  | .lutLoad set lut first count data => answered (lutLoadOwner set.toNat lut.toNat first.toNat count.toNat data s)
  | .matrixLoad a => answered (withOperand (matrixOf a) (matrixLoadOwner a.set.toNat) s)
  | .setClear set => answered (setClearOwner set.toNat s)
  | .setCommit set => answered (setCommitOwner set.toNat s)
  | .cueAdd kind set d trigger =>
    answered (withOperand (cueKindOf kind) (fun k => cueAddOwner k set.toNat d.toNat trigger.toNat) s)
  | .cueClear which => answered (withOperand (selectionOf which) cueClearOwner s)
  | .scratchLoad items => answered (withOperand (scratchSpansOf items) scratchLoadOwner s)
  | .scratchClear which => answered (withOperand (selectionOf which) scratchClearOwner s)
  | .shelvingRowSet a => answered (withOperand (shelvingRowOf a) (shelvingRowOwner a.row.toNat) s)
  | .classSet a => answered (withOperand (classEntryOf a) (classSetOwner a.cls.toNat) s)
  | .reelOpen a => answered (withOperand (reelRequestOf a) reelOpenOwner s)
  | .reelClose => reelCloseOwner s
  | .noticeEnable cls value => answered (withOperand (onOffOf value) (noticeEnableOwner cls.toNat) s)
  | .noticeAck cls => answered (noticeAckOwner cls.toNat s)
  | .statusQuery sel => answered (withOperand (statusSelectorOf sel) (fun x t => (⟨.ok, statusRecord x t⟩, t)) s)
  | .wrongLength => answered (badArg s)
  | .unknown => answered (refuse .badCommand s)

/-! ## The Command Queue (R150, R152) -/

/-- R152: the slot that the head command may claim: the queue is not empty, no command is in flight, an ordinary slot is FREE. -/
def startingSlot (x : Interpreter) : Option (Fin 8) :=
  match x.inFlight, x.queue with
  | none, _ :: _ => freeSlot x
  | _, _ => none

/-- R152: a command starts in slot `i`: the slot is claimed, the command carried out, and its answer, if it has one, built. -/
def runHead (i : Fin 8) (c : Command) (s : State) : State :=
  match carryOut c (setInterpreter (claimSlot i s.interpreter) s) with
  | (some a, t) => setInterpreter (answerHead a t.interpreter) t
  | (none, t) => t

/-- R152: as long as the three conditions hold, the head command starts; at most `n` commands. -/
def runCommands : Nat → State → State
  | 0, s => s
  | n + 1, s =>
    match startingSlot s.interpreter, s.interpreter.queue with
    | some i, q :: _ => runCommands n (runHead i q.command s)
    | _, _ => s

/-- R152: every command of the queue that can start, starts. -/
def runQueue (s : State) : State := runCommands s.interpreter.queue.length s

/-- R150: an ordinary command arrives: it is queued, answered BUSY, or dropped. -/
def arrive (q : QueuedCommand) (s : State) : State :=
  let x := s.interpreter
  if x.queue.length < 8 then
    let t := setInterpreter { x with queue := x.queue ++ [q] } s
    if x.queue = [] then runQueue t else t
  else
    match freeSlot x with
    | some i => setInterpreter (fillOrdinary i ⟨q.code, q.tag, .busy, []⟩ x) s
    | none => setInterpreter { x with dropped := satAdd x.dropped 1 } s

/-- The arrival of an ordinary command with its tag. -/
def arriveCommand (tag : Half) (c : Command) (s : State) : State := arrive ⟨codeOf c, tag, c⟩ s

/-! ## Immediate commands (R154, R155) -/

/-- R154: the reply of an immediate command is placed. -/
def answerImmediate (code tag : Half) (status : ReplyStatus) (data : List Word) (s : State) : State :=
  setInterpreter (replyImmediate ⟨code, tag, status, data⟩ s.interpreter) s

/-- R140, R154: REEL_ABORT carried out. The commands behind an answered close may start afterwards (R153). -/
def runReelAbort (tag : Half) (s : State) : State :=
  if s.reel.state = .noReel then answerImmediate reelAbortCode tag .badState [] s
  else
    let r := abortReel s
    runQueue (answerImmediate reelAbortCode tag .ok [word r.frames, markWord r.dropped] r.state)

/-- R155, step 1: the abort that SOFT_RESET performs when a reel is open. -/
def softResetAbort (s : State) : Aborted := if s.reel.state = .noReel then ⟨0, false, s⟩ else abortReelSoft s

/-- R155: SOFT_RESET carried out, its four steps in order. -/
def runSoftReset (tag : Half) (s : State) : State :=
  let r := softResetAbort s
  let n := r.state.interpreter.queue.length
  let t := setInterpreter { r.state.interpreter with queue := [], inFlight := none } r.state
  answerImmediate softResetCode tag .ok [word n, markWord r.dropped] (softResetBlocks t)

/-- R154: an immediate command arrives; argument bytes make it BAD_ARG and it is not carried out. -/
def arriveImmediate (code tag : Half) (args : List Byte) (s : State) : State :=
  if args ≠ [] then answerImmediate code tag .badArg [] s
  else if code = reelAbortCode then runReelAbort tag s
  else runSoftReset tag s

/-- R150: a control packet arrives at the interpreter with its code, tag and argument bytes. -/
def arrivePacket (code tag : Half) (args : List Byte) (s : State) : State :=
  if isImmediate code then arriveImmediate code tag args s else arrive ⟨code, tag, commandOf code args⟩ s

/-- R4: a CONTROL packet with its payload when the CRC and framing are good. -/
def receiveControl (payload : Option (List Byte)) (s : State) : State :=
  match payload with
  | none => controlCrcFailure s
  | some p =>
    if 1024 < p.length ∨ p.length < 4 then malformed s else arrivePacket (halfAt p 0) (halfAt p 2) (p.drop 4) s

/-- R4, R166: a packet arrives on the Intake Link. -/
def receivePacket (run : List Byte) (s : State) : State :=
  match arrivalOf run with
  | .line payload => receiveLine payload s
  | .control payload => receiveControl payload s
  | .unknown => malformed s

end Sys2Proof.Machine
end

