-- ==== Sys2Proof/Machine/Delivery.lean ====
section
/-! DEFINITION. The Delivery Port (01 R12 to R16): credits, the choice of a packet, and the completion of its transmission. -/

namespace Sys2Proof.Machine

/-- The Delivery Port's block replaced. -/
def setDelivery (d : DeliveryPort) (s : State) : State := { s with delivery := d }

/-! ## Credits (R12) -/

/-- R12: an accepted grant: what would take the pool above 64 is counted as excess. -/
def addCredits (n : Nat) (d : DeliveryPort) : DeliveryPort :=
  { d with pool := min (d.pool + n) 64, excess := satAdd d.excess (d.pool + n - 64) }

/-- R12: a grant arrives with its count, none when its check failed. -/
def takeGrant (count : Option Nat) (d : DeliveryPort) : DeliveryPort :=
  match count with
  | some n => if 1 ≤ n ∧ n ≤ 64 then addCredits n d else { d with badGrants := satAdd d.badGrants 1 }
  | none => { d with badGrants := satAdd d.badGrants 1 }

/-! ## The choice (R13) -/

/-- The count that a PENDING class's notice carries. -/
def carriedCount (n : NoticeState) : Nat :=
  match n.latch with
  | .pending k => k
  | _ => 0

/-- Table 2-6: the waiting packet of the highest rank, with its source and its bytes. -/
def chosenPacket (s : State) : Option (Source × List Byte) :=
  match s.interpreter.fillOrder, firstPending s.notices, s.reel.tickets, s.delivery.queue with
  | x :: _, _, _, _ => (slotReply s.interpreter x).map (fun r => (.reply, replyRun r))
  | [], some c, _, _ => some (.notice c, noticeRun c (carriedCount (noticeOf s.notices c)))
  | [], none, t :: _, _ => some (.ticket, ticketRun t)
  | [], none, [], p :: _ => some (.framePacket, framePacketRun p)
  | [], none, [], [] => none

/-- The mark of R139: a FRAME_HEAD that begins transmission opens its frame. -/
def markOpened (s : State) : State :=
  match s.delivery.queue with
  | .head c :: _ => writeContext c.frame (fun x => { x with opened := true }) s
  | _ => s

/-- R13: a chosen packet takes a credit and begins transmission. -/
def beginTransmission (x : Source) (run : List Byte) (s : State) : State :=
  let s := if x = .framePacket then markOpened s else s
  setDelivery { s.delivery with pool := s.delivery.pool - 1, transmission := some ⟨x, run, false⟩ } s

/-- R13: the choice can be made: the link is free and the pool is above 0. -/
def canChoose (s : State) : Bool := s.delivery.transmission.isNone && 0 < s.delivery.pool

/-! ## Completion (R13, R16) -/

/-- R161: the latch moves from PENDING to RAISED. -/
def raiseLatch (n : NoticeState) : NoticeState := if isPending n then { n with latch := .raised } else n

/-- The frame packet in transmission leaves the output line queue; a FRAME_TAIL retires its context. -/
def completeFramePacket (s : State) : State :=
  match s.delivery.queue with
  | [] => s
  | p :: rest =>
    let s := setDelivery { s.delivery with queue := rest } s
    match p with
    | .tail _ => retireContext s
    | _ => s

/-- R13: the completion effects of a packet on its source, and the starts that they let happen (R152). -/
def completeSource (x : Source) (s : State) : State :=
  match x with
  | .reply => runQueue (setInterpreter (freeReply s.interpreter) s)
  | .notice c => { s with notices := setNotice s.notices c (raiseLatch (noticeOf s.notices c)) }
  | .ticket => runQueue (departTicket s)
  | .framePacket => completeFramePacket s

/-- R16: after a SOFT_RESET only the entry of a frame packet is freed; nothing else follows (LE 11). -/
def completeDetached (x : Source) (s : State) : State :=
  match x with
  | .framePacket => setDelivery { s.delivery with queue := s.delivery.queue.tail } s
  | _ => s

/-- R13, R16: the transmission completes. -/
def completeTransmission (t : Transmission) (s : State) : State :=
  let s := setDelivery { s.delivery with transmission := none } s
  if t.detached then completeDetached t.source s else completeSource t.source s

end Sys2Proof.Machine
end

