-- ==== Sys2Proof/Machine/LinkEvents.lean ====
section
/-! DEFINITION. The meanings of the resets and of the events on the two links. An event that is not enabled leaves the state as it is
(LE 1). -/

namespace Sys2Proof.Machine

/-- R58, Table 1-6, and the power-on column of every block: POWER_ON_RESET with the two straps. The memory keeps nothing that a transfer
could rely on: a new epoch begins (LE 4). The waiting steps of the model stay (LE 1). -/
def execPowerOnReset (straps : BitVec 2) (s : State) : StepResult :=
  done { State.powerOn (strappedSize straps) (s.frameMemory.epoch + 1) with pending := s.pending }

/-- R58: MEMORY_INIT_COMPLETE. -/
def execMemoryInitComplete (s : State) : StepResult :=
  done { s with frameMemory := { s.frameMemory with ready := true } }

/-- R4 to R10: LINE_PACKET. -/
def execLinePacket (run : List Byte) (s : State) : StepResult := done (receivePacket run s)

/-- R4, R150: CONTROL_PACKET. -/
def execControlPacket (run : List Byte) (s : State) : StepResult := done (receivePacket run s)

/-- R4: UNKNOWN_KIND_PACKET. -/
def execUnknownKindPacket (run : List Byte) (s : State) : StepResult := done (receivePacket run s)

/-- R12: CREDIT_GRANT. -/
def execCreditGrant (run : List Byte) (s : State) : StepResult :=
  done (setDelivery (takeGrant (grantCount run) s.delivery) s)

/-- R13, Table 2-6: DELIVERY_CHOICE. -/
def execDeliveryChoice (s : State) : StepResult :=
  if canChoose s then
    match chosenPacket s with
    | some (x, run) => done (beginTransmission x run s)
    | none => done s
  else done s

/-- R13, R16: TRANSMISSION_COMPLETE. -/
def execTransmissionComplete (s : State) : StepResult :=
  match s.delivery.transmission with
  | some t => done (completeTransmission t s)
  | none => done s

/-- R147: CLASSIFICATION, once the close is ready (R137). The commands behind an answered close may then start (R153). -/
def execClassification (s : State) : StepResult :=
  match closeReady s, s.reel.identity with
  | true, some x => done (runQueue (classify x s))
  | _, _ => done s

end Sys2Proof.Machine
end

