-- ==== Sys2Proof/Machine/TimeEvents.lean ====
section
/-! DEFINITION. The meanings of the events of the time base, the transport and the step output (03_transport_pacing_and_time_base.md). An
event that is not enabled leaves the state as it is (LE 1). -/

namespace Sys2Proof.Machine

/-! ## TRUN (R46, R53, R54) -/

/-- R46: the last 1 ms tick's sample of TRUN, not yet taken, can be `level`, which differs from the held level (LE 10). -/
def sampleChanges (level : Bool) (p : Pace) : Bool := p.due.sample && p.trun != level

/-- R46: the sample taken as a change of the held level. -/
def holdSample (level : Bool) (p : Pace) : Pace := { p with trun := level, due := { p.due with sample := false } }

/-- R46, R53: TRUN_ASSERTION: the held level becomes ASSERTED and the spin-up timer stops. -/
def execTrunAssertion (s : State) : StepResult :=
  if sampleChanges true s.pace then done (setPace { holdSample true s.pace with spinUp := none } s) else done s

/-- R46, R54: TRUN_DROP: the held level becomes DEASSERTED; a fault when the effective level is 1 or more. -/
def execTrunDrop (s : State) : StepResult :=
  if sampleChanges false s.pace then
    let t := setPace (holdSample false s.pace) s
    if 1 ≤ s.pace.effective then done (transportFault t) else done t
  else done s

/-! ## Expiries (R53, R11, R15) -/

/-- R53: the last tick brought the spin-up timer to its timeout, where it still stands (LE 10). -/
def spinUpDue (s : State) : Bool := s.pace.due.spinUp && atTimeout s.pace.spinUp (spinUpTicks s.pace)

/-- R11: the last 10 ms tick brought the silence timer to its timeout, where it still stands (LE 10). -/
def silenceDue (s : State) : Bool := s.pace.due.silence && atTimeout s.intake.silence (silenceTicks s.pace)

/-- R15: the last 10 ms tick brought the stall timer to its timeout, where it still stands (LE 10). -/
def stallDue (s : State) : Bool := s.pace.due.stall && atTimeout s.delivery.stall (stallTicks s.pace)

/-- R53, R55: the spin-up timer expires, if it is due. -/
def takeSpinUpExpiry (s : State) : State := if spinUpDue s then transportFault s else s

/-- R11: the silence timer expires, if it is due. -/
def takeSilenceExpiry (s : State) : State := if silenceDue s then silenceExpires s else s

/-- R15: the stall timer expires, if it is due: DELIVERY_STALL is raised and the timer restarts at 0. -/
def takeStallExpiry (s : State) : State :=
  if stallDue s then raise .deliveryStall (setDelivery { s.delivery with stall := some 0 } s) else s

/-- R53, R55: SPIN_UP_EXPIRY. -/
def execSpinUpExpiry (s : State) : StepResult := done (takeSpinUpExpiry s)

/-- R11: SILENCE_TIMER_EXPIRY. -/
def execSilenceTimerExpiry (s : State) : StepResult := done (takeSilenceExpiry s)

/-- R15: STALL_TIMER_EXPIRY. -/
def execStallTimerExpiry (s : State) : StepResult := done (takeStallExpiry s)

/-! ## Ring cap and step output (R50, R52) -/

/-- R50: the occupancy that a 10 ms tick reads for the ring cap, while the reel is OPEN or CLOSING. -/
def ringReading (s : State) : Option Nat := if reelMoves s then some (occupancy s) else none

/-- R50: the ring cap evaluated from the occupancy read at the tick, which is then taken. -/
def evaluateRingCap (p : MemoryPlan) (read : Nat) (s : State) : State :=
  formEffective
    (setPace { s.pace with ringCap := newRingCap s.pace p.r read, due := { s.pace.due with ringCap := none } } s)

/-- R50: the evaluation that the last 10 ms tick brought about, where it still waits and the reel is OPEN or CLOSING (LE 10). -/
def takeRingCapEvaluation (s : State) : State :=
  match reelMoves s, s.frameMemory.plan, s.pace.due.ringCap with
  | true, some p, some read => evaluateRingCap p read s
  | _, _, _ => s

/-- R50: RING_CAP_EVALUATION. -/
def execRingCapEvaluation (s : State) : StepResult := done (takeRingCapEvaluation s)

/-- R52: DIVIDER_UNDERFLOW. -/
def execDividerUnderflow (s : State) : StepResult := done (setPace (underflow s.pace) s)

/-! ## Ticks (R45) -/

/-- A running count raised by 1. -/
def tickTimer (t : Option Nat) : Option Nat := t.map (· + 1)

/-- R45: the tick moves on the counts: the spin-up timer's at every tick, the silence and stall timers' at every tenth. -/
def countTick (s : State) : State :=
  let s := setPace { s.pace with tenth := (s.pace.tenth + 1) % 10, spinUp := tickTimer s.pace.spinUp } s
  if s.pace.tenth = 0 then
    setDelivery { s.delivery with stall := tickTimer s.delivery.stall }
      (setIntake { s.intake with silence := tickTimer s.intake.silence } s)
  else s

/-- What this tick gives its users (R45): a sample of TRUN (R46); at a 10 ms tick, the occupancy for the ring cap (R50); the counts it has
moved, compared with the timeouts as they stand (R53, R11, R15, R56). -/
def dueNow (s : State) : TickDue :=
  let tenMs := decide (s.pace.tenth = 0)
  { sample := true,
    spinUp := atTimeout s.pace.spinUp (spinUpTicks s.pace),
    ringCap := if tenMs then ringReading s else none,
    silence := tenMs && atTimeout s.intake.silence (silenceTicks s.pace),
    stall := tenMs && atTimeout s.delivery.stall (stallTicks s.pace) }

/-- R45: what the tick gives its users stands until a step, or the next tick, takes it. -/
def markDue (s : State) : State := setPace { s.pace with due := dueNow s } s

/-- What the tick before gave its users and no step has taken yet, in the order of the table of R45 (LE 10). A TRUN sample that no step
has taken as a change found none. -/
def takeDue (s : State) : State :=
  settleStall (takeStallExpiry
    (settleStall (takeSilenceExpiry (settleStall (takeRingCapEvaluation (settleStall (takeSpinUpExpiry s)))))))

/-- R45: TIME_BASE_TICK: one 1 ms tick, and a 10 ms tick at every tenth. No timer counts past its timeout and no evaluation of the ring
cap waits longer: what still waits is taken first. -/
def execTimeBaseTick (s : State) : StepResult := done (markDue (countTick (takeDue s)))

end Sys2Proof.Machine
end

