-- ==== Sys2Proof/Machine/PathEvents.lean ====
section
/-! DEFINITION. The meanings of the events on the image path: the arbiter's grant, the four completions, the taking of lines and the
placing of packets. An event that is not enabled leaves the state as it is (LE 1). -/

namespace Sys2Proof.Machine

/-- The Frame Memory Controller's block replaced. -/
def setMemory (f : FrameMemory) (s : State) : State := { s with frameMemory := f }

/-- The channel loaded with a transfer, or free. -/
def setChannel (t : Option Transfer) (s : State) : State := setMemory { s.frameMemory with channel := t } s

/-! ## ARBITER_GRANT (R64, R67, R68) -/

/-- R64: line N fits the ring when N - P is below R. -/
def lineFits (p : MemoryPlan) (boundary n : Nat) : Bool := n < boundary + p.r

/-- R64: the intake write of the head line begins: its slot becomes EMPTY and the fill line rises. -/
def beginIntakeWrite (p : MemoryPlan) (e : SourceLine) (s : State) : State :=
  let slot := e.number % p.r
  setMemory
    { s.frameMemory with
      slots := tableErase s.frameMemory.slots slot, fillLine := max s.frameMemory.fillLine (e.number + 1),
      channel := some (.intakeWrite e.number slot (slotAddress p slot) e.pixels false) } s

/-- R64: the head line is dropped at a full ring. -/
def dropLine (rest : List SourceLine) (s : State) : State :=
  let s := setIntake { s.intake with staging := rest } s
  let s := setMemory { s.frameMemory with dropped := satAdd s.frameMemory.dropped 1 } s
  reportChange (raise .ringOverflow s)

/-- R64: an intake write is granted for the head of the staging buffer. -/
def grantIntakeWrite (p : MemoryPlan) (s : State) : State :=
  match s.intake.staging with
  | [] => s
  | e :: rest => if lineFits p (protectBoundary s) e.number then beginIntakeWrite p e s else dropLine rest s

/-- R82: a conformance read is granted. -/
def grantConformanceRead (p : MemoryPlan) (s : State) : State :=
  match s.conformance.readRequest with
  | none => s
  | some l =>
    setChannel (some (.conformanceRead l (slotAddress p (l % p.r)) p.wIn false))
      { s with conformance := { s.conformance with readRequest := none } }

/-- R91: a reference read is granted: the line of the line in hand, from the buffer last written. -/
def grantReferenceRead (p : MemoryPlan) (s : State) : State :=
  match s.repair.mode, s.repair.lastWritten, s.repair.copy with
  | .fetching hand, some buffer, some copy =>
    setChannel (some (.referenceRead (referenceAddress p buffer hand.line.j) copy.wOut false))
      (setRepair { s.repair with readRequest := false } s)
  | _, _, _ => s

/-- R92: a reference write is granted: the repaired line in hand, to the fill buffer. -/
def grantReferenceWrite (p : MemoryPlan) (s : State) : State :=
  match s.repair.mode with
  | .passing hand =>
    setChannel (some (.referenceWrite (referenceAddress p (fillBuffer s.repair) hand.j) hand.records false))
      (setRepair { s.repair with writeRequest := false } s)
  | _ => s

/-- R67: one requester granted. -/
def grant (p : MemoryPlan) (g : Requester) (s : State) : State :=
  match g with
  | .intakeWrite => grantIntakeWrite p s
  | .conformanceRead => grantConformanceRead p s
  | .referenceRead => grantReferenceRead p s
  | .referenceWrite => grantReferenceWrite p s

/-- R68: the aging and grant counts after a choice. -/
def countGrant (g : Requester) (s : State) : State :=
  setMemory
    { s.frameMemory with
      aging := agedCounts s g,
      grants := setCount s.frameMemory.grants g (satAdd (countOf s.frameMemory.grants g) 1) } s

/-- R67, R68: ARBITER_GRANT, with the channel free and a request presented. -/
def execArbiterGrant (s : State) : StepResult :=
  match s.frameMemory.channel, s.frameMemory.plan, chooseRequester s with
  | none, some p, some g => done (grant p g (countGrant g s))
  | _, _, _ => done s

/-! ## Completions (R61, R67) -/

/-- R61, R65: a fresh intake write updates its slot and frees its staging entry. -/
def completeIntakeWrite (line slot : Nat) (s : State) : State :=
  let s := setMemory { s.frameMemory with slots := tableSet s.frameMemory.slots slot line } s
  let staging :=
    match s.intake.staging with
    | e :: rest => if e.number = line then rest else e :: rest
    | [] => []
  reportChange (setIntake { s.intake with staging := staging } s)

/-- R61: INTAKE_WRITE_COMPLETE. -/
def execIntakeWriteComplete (s : State) : StepResult :=
  match s.frameMemory.channel with
  | some (.intakeWrite line slot address pixels stale) =>
    if insideMemory s.frameMemory address (8 * pixels.length) then
      let t := setMemory (writeBytes { s.frameMemory with channel := none } address (pixels.flatMap pixelBytes)) s
      if stale then done t else done (completeIntakeWrite line slot t)
    else .fault (.addressBeyondMemory address)
  | _ => done s

/-- R82: CONFORMANCE_READ_COMPLETE. -/
def execConformanceReadComplete (s : State) : StepResult :=
  match s.frameMemory.channel with
  | some (.conformanceRead line address count discard) =>
    if insideMemory s.frameMemory address (8 * count) then
      let t := setChannel none s
      if discard then done t else done (lineRead line (readPixels s.frameMemory address count) t)
    else .fault (.addressBeyondMemory address)
  | _ => done s

/-- R91, R92: the repair of the line in hand with its reference line. -/
def repairFetched (reference : List RefRecord) (s : State) : State :=
  match s.repair.mode, s.repair.copy with
  | .fetching hand, some copy => repairLine copy hand (some reference) s
  | _, _ => s

/-- R91: REFERENCE_READ_COMPLETE. -/
def execReferenceReadComplete (s : State) : StepResult :=
  match s.frameMemory.channel with
  | some (.referenceRead address count discard) =>
    if insideMemory s.frameMemory address (8 * count) then
      let t := setChannel none s
      if discard then done t else done (repairFetched ((readPixels s.frameMemory address count).map recordOf) t)
    else .fault (.addressBeyondMemory address)
  | _ => done s

/-- R92: the line is stored, which ends one obligation of the line in hand. -/
def lineStored (s : State) : State :=
  match s.repair.mode with
  | .passing hand => settleObligations (setRepair { s.repair with mode := .passing { hand with written := true } } s)
  | _ => s

/-- R92: REFERENCE_WRITE_COMPLETE. -/
def execReferenceWriteComplete (s : State) : StepResult :=
  match s.frameMemory.channel with
  | some (.referenceWrite address records unreported) =>
    if insideMemory s.frameMemory address (8 * records.length) then
      let t := setMemory (writeBytes { s.frameMemory with channel := none } address (records.flatMap recordBytes)) s
      if unreported then done t else done (lineStored t)
    else .fault (.addressBeyondMemory address)
  | _ => done s

/-! ## The line path (R89, R124) -/

/-- R89: REPAIR_TAKE_LINE: the engine is WAITING and a line is offered. -/
def execRepairTakeLine (s : State) : StepResult :=
  match s.repair.mode, s.repair.copy, s.conformance.mode with
  | .waiting, some copy, .offering _ line => done (takeOffered copy line s)
  | _, _, _ => done s

/-- R124: GRADING_TAKE_LINE: the engine is WAITING, and a repaired line is offered and not yet taken. -/
def execGradingTakeLine (s : State) : StepResult :=
  match s.grading.mode, s.repair.mode, s.grading.raster, s.grading.current with
  | .waiting, .passing hand, some raster, some _ =>
    if hand.taken then done s else done (takeRepaired raster hand s)
  | _, _, _, _ => done s

/-- R124: PLACE_PACKET: an owed packet, while the output line queue holds fewer than 8. -/
def execPlacePacket (s : State) : StepResult :=
  match s.grading.mode with
  | .placing hand =>
    match hand.owed, contextOf s hand.frame with
    | o :: rest, some c => if s.delivery.queue.length < 8 then done (placeOwed hand o rest c s) else done s
    | _, _ => done s
  | _ => done s

end Sys2Proof.Machine
end

