-- ==== Sys2Proof/Machine/CommandEvents.lean ====
section
/-! DEFINITION. The meanings of the command rows: a workstation command with its tag arrives at the Command Interpreter (R150, R154) and,
where R152 lets it start, is carried out in the same step (LE 6). -/

namespace Sys2Proof.Machine

/-- R72: FORMAT_SET. -/
def execFormatSet (tag : Half) (a : FormatSetArgs) (s : State) : StepResult := done (arriveCommand tag (.formatSet a) s)

/-- R59: MEMORY_PLAN. -/
def execMemoryPlan (tag : Half) (a : MemoryPlanArgs) (s : State) : StepResult := done (arriveCommand tag (.memoryPlan a) s)

/-- R47: PACE_TABLE_SET. -/
def execPaceTableSet (tag : Half) (a : PaceTableArgs) (s : State) : StepResult := done (arriveCommand tag (.paceTableSet a) s)

/-- R48: PACE_REQUEST. -/
def execPaceRequest (tag : Half) (level : Word) (s : State) : StepResult := done (arriveCommand tag (.paceRequest level) s)

/-- R56: TIMING_SET. -/
def execTimingSet (tag : Half) (spinUp silence stall : Word) (s : State) : StepResult :=
  done (arriveCommand tag (.timingSet spinUp silence stall) s)

/-- R41: FRAMING_NUDGE. -/
def execFramingNudge (tag : Half) (d : Word) (s : State) : StepResult := done (arriveCommand tag (.framingNudge d) s)

/-- R113: LUT_LOAD. -/
def execLutLoad (tag : Half) (set lut first count : Word) (data : List Half) (s : State) : StepResult :=
  done (arriveCommand tag (.lutLoad set lut first count data) s)

/-- R114: MATRIX_LOAD. -/
def execMatrixLoad (tag : Half) (a : MatrixLoadArgs) (s : State) : StepResult := done (arriveCommand tag (.matrixLoad a) s)

/-- R115: SET_CLEAR. -/
def execSetClear (tag : Half) (set : Word) (s : State) : StepResult := done (arriveCommand tag (.setClear set) s)

/-- R116: SET_COMMIT. -/
def execSetCommit (tag : Half) (set : Word) (s : State) : StepResult := done (arriveCommand tag (.setCommit set) s)

/-- R122: CUE_ADD. -/
def execCueAdd (tag : Half) (kind set d trigger : Word) (s : State) : StepResult := done (arriveCommand tag (.cueAdd kind set d trigger) s)

/-- R123: CUE_CLEAR. -/
def execCueClear (tag : Half) (selector : Word) (s : State) : StepResult := done (arriveCommand tag (.cueClear selector) s)

/-- R107: SCRATCH_LOAD. -/
def execScratchLoad (tag : Half) (items : List Word) (s : State) : StepResult := done (arriveCommand tag (.scratchLoad items) s)

/-- R108: SCRATCH_CLEAR. -/
def execScratchClear (tag : Half) (selector : Word) (s : State) : StepResult := done (arriveCommand tag (.scratchClear selector) s)

/-- R145: SHELVING_ROW_SET. -/
def execShelvingRowSet (tag : Half) (a : ShelvingRowArgs) (s : State) : StepResult := done (arriveCommand tag (.shelvingRowSet a) s)

/-- R146: CLASS_SET. -/
def execClassSet (tag : Half) (a : ClassSetArgs) (s : State) : StepResult := done (arriveCommand tag (.classSet a) s)

/-- R134, R135: REEL_OPEN. -/
def execReelOpen (tag : Half) (a : ReelOpenArgs) (s : State) : StepResult := done (arriveCommand tag (.reelOpen a) s)

/-- R136 to R138, R153: REEL_CLOSE. -/
def execReelClose (tag : Half) (s : State) : StepResult := done (arriveCommand tag .reelClose s)

/-- R157: STATUS_QUERY. -/
def execStatusQuery (tag : Half) (selector : Word) (s : State) : StepResult := done (arriveCommand tag (.statusQuery selector) s)

/-- R163: NOTICE_ENABLE. -/
def execNoticeEnable (tag : Half) (cls value : Word) (s : State) : StepResult := done (arriveCommand tag (.noticeEnable cls value) s)

/-- R162: NOTICE_ACK. -/
def execNoticeAck (tag : Half) (cls : Word) (s : State) : StepResult := done (arriveCommand tag (.noticeAck cls) s)

/-- R139, R140, R154: REEL_ABORT, immediate. -/
def execReelAbort (tag : Half) (s : State) : StepResult := done (arriveImmediate reelAbortCode tag [] s)

/-- R154, R155: SOFT_RESET, immediate. -/
def execSoftReset (tag : Half) (s : State) : StepResult := done (arriveImmediate softResetCode tag [] s)

/-- R156: BAD_COMMAND: a code the part does not know, queued like any ordinary command and answered BAD_COMMAND. -/
def execBadCommand (tag : Half) (code : Half) (s : State) : StepResult := done (arrive ⟨code, tag, .unknown⟩ s)

end Sys2Proof.Machine
end

