-- ==== Sys2Proof/Machine/Dispatch.lean ====
section
/-! DEFINITION. The dispatch: one arm for each row of spec/opcode_table.json. -/

namespace Sys2Proof.Machine

def exec (i : Instr) (s : State) : Host.Outcome State Fault Refusal :=
  match i with
  | .powerOnReset straps => Sys2Proof.Machine.execPowerOnReset straps s
  | .memoryInitComplete => Sys2Proof.Machine.execMemoryInitComplete s
  | .linePacket run => Sys2Proof.Machine.execLinePacket run s
  | .controlPacket run => Sys2Proof.Machine.execControlPacket run s
  | .unknownKindPacket run => Sys2Proof.Machine.execUnknownKindPacket run s
  | .creditGrant run => Sys2Proof.Machine.execCreditGrant run s
  | .trunAssertion => Sys2Proof.Machine.execTrunAssertion s
  | .trunDrop => Sys2Proof.Machine.execTrunDrop s
  | .spinUpExpiry => Sys2Proof.Machine.execSpinUpExpiry s
  | .silenceTimerExpiry => Sys2Proof.Machine.execSilenceTimerExpiry s
  | .stallTimerExpiry => Sys2Proof.Machine.execStallTimerExpiry s
  | .ringCapEvaluation => Sys2Proof.Machine.execRingCapEvaluation s
  | .dividerUnderflow => Sys2Proof.Machine.execDividerUnderflow s
  | .arbiterGrant => Sys2Proof.Machine.execArbiterGrant s
  | .intakeWriteComplete => Sys2Proof.Machine.execIntakeWriteComplete s
  | .conformanceReadComplete => Sys2Proof.Machine.execConformanceReadComplete s
  | .referenceReadComplete => Sys2Proof.Machine.execReferenceReadComplete s
  | .referenceWriteComplete => Sys2Proof.Machine.execReferenceWriteComplete s
  | .repairTakeLine => Sys2Proof.Machine.execRepairTakeLine s
  | .gradingTakeLine => Sys2Proof.Machine.execGradingTakeLine s
  | .placePacket => Sys2Proof.Machine.execPlacePacket s
  | .deliveryChoice => Sys2Proof.Machine.execDeliveryChoice s
  | .transmissionComplete => Sys2Proof.Machine.execTransmissionComplete s
  | .classification => Sys2Proof.Machine.execClassification s
  | .formatSet tag a => Sys2Proof.Machine.execFormatSet tag a s
  | .memoryPlan tag a => Sys2Proof.Machine.execMemoryPlan tag a s
  | .paceTableSet tag a => Sys2Proof.Machine.execPaceTableSet tag a s
  | .paceRequest tag level => Sys2Proof.Machine.execPaceRequest tag level s
  | .timingSet tag spinUp silence stall => Sys2Proof.Machine.execTimingSet tag spinUp silence stall s
  | .framingNudge tag d => Sys2Proof.Machine.execFramingNudge tag d s
  | .lutLoad tag set lut first count data => Sys2Proof.Machine.execLutLoad tag set lut first count data s
  | .matrixLoad tag a => Sys2Proof.Machine.execMatrixLoad tag a s
  | .setClear tag set => Sys2Proof.Machine.execSetClear tag set s
  | .setCommit tag set => Sys2Proof.Machine.execSetCommit tag set s
  | .cueAdd tag kind set d trigger => Sys2Proof.Machine.execCueAdd tag kind set d trigger s
  | .cueClear tag selector => Sys2Proof.Machine.execCueClear tag selector s
  | .scratchLoad tag items => Sys2Proof.Machine.execScratchLoad tag items s
  | .scratchClear tag selector => Sys2Proof.Machine.execScratchClear tag selector s
  | .shelvingRowSet tag a => Sys2Proof.Machine.execShelvingRowSet tag a s
  | .classSet tag a => Sys2Proof.Machine.execClassSet tag a s
  | .reelOpen tag a => Sys2Proof.Machine.execReelOpen tag a s
  | .reelClose tag => Sys2Proof.Machine.execReelClose tag s
  | .reelAbort tag => Sys2Proof.Machine.execReelAbort tag s
  | .softReset tag => Sys2Proof.Machine.execSoftReset tag s
  | .statusQuery tag selector => Sys2Proof.Machine.execStatusQuery tag selector s
  | .noticeEnable tag cls value => Sys2Proof.Machine.execNoticeEnable tag cls value s
  | .noticeAck tag cls => Sys2Proof.Machine.execNoticeAck tag cls s
  | .badCommand tag code => Sys2Proof.Machine.execBadCommand tag code s
  | .timeBaseTick => Sys2Proof.Machine.execTimeBaseTick s

end Sys2Proof.Machine
end

