-- ==== Sys2Proof/Safety.lean ====
section
/-! DEFINITION. What the claims speak of: when a command is carried out at once, what a state looks like after its answer, and the
invariants of the part. -/

namespace Sys2Proof.Machine

/-! ## Commands that start on arrival -/

/-- The Command Interpreter starts the next packet at its arrival, in ordinary slot `i` (R150, R152): the queue is empty, no command is in
flight, and `i` is a FREE slot, the lowest-numbered (LE 23). -/
def readyForCommand (s : State) (i : Fin 8) : Prop :=
  s.interpreter.queue = [] ∧ s.interpreter.inFlight = none ∧ freeSlot s.interpreter = some i

/-- The state with a reply built into ordinary slot `i`, and the stall timer following its conditions (R151, R15). -/
def answeredIn (i : Fin 8) (code tag : Half) (status : ReplyStatus) (data : List Word) (s : State) : State :=
  settleStall (setInterpreter (fillOrdinary i ⟨code, tag, status, data⟩ s.interpreter) s)

/-- The state in which a head command is carried out: queued, its slot claimed, in flight (R152). -/
def startedIn (i : Fin 8) (q : QueuedCommand) (s : State) : State :=
  setInterpreter (claimSlot i { s.interpreter with queue := [q] }) s

/-! ## Commands and their rows -/

/-- The row of the table that a queued command with its tag stands on; the two forms without a code of their own stand on BAD_COMMAND. -/
def rowOf (tag : Half) : Command → Instr
  | .formatSet a => .formatSet tag a
  | .memoryPlan a => .memoryPlan tag a
  | .paceTableSet a => .paceTableSet tag a
  | .paceRequest l => .paceRequest tag l
  | .timingSet x y z => .timingSet tag x y z
  | .framingNudge d => .framingNudge tag d
  | .lutLoad s l f n data => .lutLoad tag s l f n data
  | .matrixLoad a => .matrixLoad tag a
  | .setClear s => .setClear tag s
  | .setCommit s => .setCommit tag s
  | .cueAdd k s d t => .cueAdd tag k s d t
  | .cueClear s => .cueClear tag s
  | .scratchLoad items => .scratchLoad tag items
  | .scratchClear s => .scratchClear tag s
  | .shelvingRowSet a => .shelvingRowSet tag a
  | .classSet a => .classSet tag a
  | .reelOpen a => .reelOpen tag a
  | .reelClose => .reelClose tag
  | .noticeEnable c v => .noticeEnable tag c v
  | .noticeAck c => .noticeAck tag c
  | .statusQuery s => .statusQuery tag s
  | .wrongLength => .badCommand tag 0#16
  | .unknown => .badCommand tag 0#16

/-- The row of command `c`, with any tag, arrives at a ready interpreter: the command is carried out at once, its reply is built into the
free slot with the packet's code and tag, and `t` is the rest of the state it leaves (R150 to R152, R156, LE 6). -/
def answersWith (c : Command) (s : State) (status : ReplyStatus) (data : List Word) (t : State) : Prop :=
  ∀ (tag : Half) (i : Fin 8), readyForCommand s i → exec (rowOf tag c) s = .next (answeredIn i (codeOf c) tag status data t)

/-- The row of command `c` is refused: a reply without data, and nothing else changes (R156). -/
def refusedWith (c : Command) (s : State) (status : ReplyStatus) : Prop := answersWith c s status [] s

/-! ## Heads of the Command Queue that start (R152, R153) -/

/-- R152: the head `q` of the Command Queue, with `rest` behind it, starts in ordinary slot `i`: its slot is CLAIMED, it is carried out in
flight, and its answer is built into that slot as it leaves the queue; an accepted close has no answer yet and stays (R153). -/
def headStarted (i : Fin 8) (q : QueuedCommand) (rest : List QueuedCommand) (s : State) : State :=
  let x := s.interpreter
  let u : State := { s with interpreter := { x with queue := q :: rest, inFlight := some i, ordinary := x.ordinary.set i .claimed } }
  match carryOut q.command u with
  | (some a, t) =>
    { t with
      interpreter :=
        { x with
          queue := rest, inFlight := none, ordinary := x.ordinary.set i (.filled ⟨q.code, q.tag, a.status, a.data⟩),
          fillOrder := x.fillOrder ++ [.ordinary i] } }
  | (none, t) => t

/-- R152, R153: from `s` one head of the Command Queue after the other starts, each in the lowest-numbered FREE slot (LE 23), until the
queue is empty, a command is in flight, or no ordinary slot is FREE; `t` is left. -/
inductive HeadsStart : State → State → Prop
  | stop (s : State) :
      s.interpreter.queue = [] ∨ s.interpreter.inFlight ≠ none ∨ freeSlot s.interpreter = none → HeadsStart s s
  | start (s t : State) (i : Fin 8) (q : QueuedCommand) (rest : List QueuedCommand) :
      s.interpreter.queue = q :: rest → s.interpreter.inFlight = none → freeSlot s.interpreter = some i →
      HeadsStart (headStarted i q rest s) t → HeadsStart s t

/-! ## Ranges of the spec's tables -/

/-- The ranges of Table 3-1 and the two checks of R17 that combine fields. -/
def trackingRanges (f : TrackingFields) : Prop :=
  3200 ≤ f.nominalPitch ∧ f.nominalPitch ≤ 64000 ∧ 1 ≤ f.k ∧ f.k ≤ 4 ∧ 16 ≤ f.tol ∧ f.tol ≤ 2048 ∧ 8 ≤ f.spliceThreshold
    ∧ f.spliceThreshold < f.tol ∧ 1 ≤ f.coastLimit ∧ f.coastLimit ≤ 15 ∧ -32768 ≤ f.referenceEdge ∧ f.referenceEdge ≤ 32767
    ∧ f.damageCap ≤ 7 ∧ 9600 ≤ f.k * f.nominalPitch ∧ f.tol ≤ f.nominalPitch / 4

/-- The ranges of Tables 6-1 and 7-1. -/
def pathRanges (f : ConformanceFields) (x : RepairFields) : Prop :=
  f.v0 ≤ 65535 ∧ f.u0 ≤ 4095 ∧ 256 ≤ f.wOut ∧ f.wOut ≤ 4096 ∧ f.wOut % 16 = 0 ∧ 256 ≤ f.hOut ∧ f.hOut ≤ 4096
    ∧ x.irThreshold ≤ 255 ∧ x.clearLevel ≤ 65535 ∧ x.motionThreshold ≤ 65535
    ∧ (x.spanLimit = 0 ∨ 4 ≤ x.spanLimit ∧ x.spanLimit ≤ 32) ∧ 50 ≤ x.scratchPercentage ∧ x.scratchPercentage ≤ 100

/-- R73: a format's geometry fits a plan. -/
def geometryHolds (f : ConformanceFields) (p : MemoryPlan) : Prop := f.v0 / 16 + f.hOut ≤ p.r / 2 ∧ f.u0 + f.wOut ≤ p.wIn

/-- The ranges of Table 5-1, the alignment of the bases, and the ends of the windows below the memory's size (R59). -/
def planRanges (size : Nat) (p : MemoryPlan) : Prop :=
  1024 ≤ p.wIn ∧ p.wIn ≤ 4096 ∧ p.wIn % 16 = 0 ∧ 1024 ≤ p.r ∧ p.r ≤ 16384
    ∧ p.ringBase % 4096 = 0 ∧ p.baseA % 4096 = 0 ∧ p.baseB % 4096 = 0
    ∧ p.ringBase + p.r * p.wIn * 8 ≤ size ∧ p.baseA + 4096 * 4096 * 8 ≤ size ∧ p.baseB + 4096 * 4096 * 8 ≤ size

/-- Byte `a` lies in two of the three windows of a plan (R59). -/
def inTwoWindows (p : MemoryPlan) (a : Nat) : Prop :=
  let ring := p.ringBase ≤ a ∧ a < p.ringBase + p.r * p.wIn * 8
  let bufferA := p.baseA ≤ a ∧ a < p.baseA + 4096 * 4096 * 8
  let bufferB := p.baseB ≤ a ∧ a < p.baseB + 4096 * 4096 * 8
  ring ∧ bufferA ∨ ring ∧ bufferB ∨ bufferA ∧ bufferB

/-- Everything but the intake, tracking and conformance path that a line packet works on, with the stall timer left out. -/
def outsideLinePath (s t : State) : Prop :=
  t.pending = s.pending ∧ t.formats = s.formats ∧ t.repair = s.repair ∧ t.grading = s.grading ∧ t.reel = s.reel
    ∧ t.interpreter = s.interpreter ∧ t.delivery = { s.delivery with stall := t.delivery.stall }

/-! ## Invariants -/

/-- The memory and the ring slots keep their canonical form: addresses and slot numbers strictly rising. -/
def memoryInv (s : State) : Prop := memoryWf s.frameMemory.bytes ∧ keysRise s.frameMemory.slots

/-- R60, R61: line N stands in slot N mod R: every VALID slot, and the slot of an intake write in flight that is not stale. -/
def ringInv (s : State) : Prop :=
  ∀ p, s.frameMemory.plan = some p →
    (∀ x ∈ s.frameMemory.slots, x.1 = x.2 % p.r) ∧
      ∀ n slot a px, s.frameMemory.channel = some (.intakeWrite n slot a px false) → slot = n % p.r

/-- The collections stay within the numbers the spec gives them: 64 credits, 8 frame packets, 8 commands, 4 staged lines, 32 contexts,
4 tickets, 64 and 16 cues, 32 scratches. -/
def boundsInv (s : State) : Prop :=
  s.delivery.pool ≤ 64 ∧ s.delivery.queue.length ≤ 8 ∧ s.interpreter.queue.length ≤ 8 ∧ s.intake.staging.length ≤ 4
    ∧ s.contexts.length ≤ 32 ∧ s.reel.tickets.length ≤ 4 ∧ s.grading.cues.length ≤ 64 ∧ s.grading.spliceCues.length ≤ 16
    ∧ s.repair.scratches.length ≤ 32

/-- R65: the staged lines stand in ascending line number, below the next one to be assigned. -/
def stagedInv (s : State) : Prop :=
  s.intake.staging.Pairwise (fun a b => a.number < b.number) ∧ ∀ l ∈ s.intake.staging, l.number < s.intake.writeLine

/-- R121: the Cue List stands in strictly ascending trigger frame. -/
def cuesInv (s : State) : Prop := s.grading.cues.Pairwise (fun a b => a.trigger < b.trigger)

/-- R100: the Scratch Table stands in ascending left column, no column belongs to two entries, and each entry has a slot of its own. -/
def scratchesInv (s : State) : Prop :=
  s.repair.scratches.Pairwise (fun a b => a.left + a.width ≤ b.left ∧ a.slot ≠ b.slot)
    ∧ ∀ e ∈ s.repair.scratches, 1 ≤ e.width ∧ e.slot < 32

/-- R34, R33, R18, R27, R26, R19: the Tracker's S stays in the tracking range, its history, Edge Log and candidate list within their
numbers, its acceptance run at most 2 and the filter's run at most 2. -/
def trackerInv (t : Tracker) : Prop :=
  49152 ≤ t.shrink ∧ t.shrink ≤ 81920 ∧ t.history.length ≤ 16 ∧ t.edgeLog.length ≤ 160 ∧ t.candidates.length ≤ 3
    ∧ t.acceptRun ≤ 2 ∧ ∀ r ∈ t.filter.run, r.length ≤ 2

/-- R35, R37: every context's applied S and applied H lie within their clamps; with the Tracker's own ranges. -/
def clampsInv (s : State) : Prop :=
  (∀ c ∈ s.contexts, 62259 ≤ c.appliedS ∧ c.appliedS ≤ 66191 ∧ -1024 ≤ c.appliedH ∧ c.appliedH ≤ 1024) ∧ trackerInv s.tracker

/-- The contexts stand in strictly ascending frame number (R42). -/
def framesAscend (s : State) : Prop := s.contexts.Pairwise (fun a b => a.frame < b.frame)

/-- The numbers of the frames in the queue have been consumed, and the Tracker's kept tops are older than the frame counter allows for
(R29, R30, R39). -/
def framesConsumed (s : State) : Prop :=
  (∀ c ∈ s.contexts, c.frame < s.tracker.frameCounter) ∧
    (s.tracker.mode ≠ .idle →
      (s.tracker.pendingTop = none → ∀ q ∈ s.tracker.lastCut, s.tracker.frameCounter ≤ q.frame + 1) ∧
      (s.tracker.rephasing = true → s.tracker.qTop ≠ none) ∧
      (s.tracker.rephasing = true ∨ s.tracker.mode = .search →
        s.tracker.pendingTop = none ∧ ∀ q ∈ s.tracker.qTop, s.tracker.frameCounter ≤ q.frame + 1))

/-- R42 with what it rests on. -/
def framesInv (s : State) : Prop := framesAscend s ∧ framesConsumed s

/-- R51: the effective level is the one formed from the standing inputs. -/
def levelInv (s : State) : Prop := s.pace.effective = formedLevel s

/-- Set `i` is the current set or the target set. -/
def setInUse (g : Grading) (i : Fin 4) : Prop := g.current = some i ∨ targetOf g.dissolve = some i

/-- R111: a set is IN_USE exactly while it is the current set or the target set. -/
def setsInv (s : State) : Prop := ∀ i : Fin 4, s.grading.sets[i].state = .inUse ↔ setInUse s.grading i

/-- R15: the stall timer runs exactly while the pool is 0 and a packet is waiting. -/
def stallInv (s : State) : Prop := s.delivery.stall.isSome = stallStands s

/-- R151: the fill order lists exactly the FILLED slots, each once. -/
def fillOrderInv (x : Interpreter) : Prop :=
  x.fillOrder.Nodup ∧ (∀ i : Fin 8, .ordinary i ∈ x.fillOrder ↔ isFilled x.ordinary[i] = true) ∧
    (.reserved ∈ x.fillOrder ↔ x.reserved.isSome = true)

/-- R151, R153: a slot is CLAIMED exactly by the command in flight, which stands at the head of the queue. -/
def claimedInv (x : Interpreter) : Prop :=
  (∀ i : Fin 8, x.ordinary[i] = .claimed ↔ x.inFlight = some i) ∧ (x.inFlight.isSome = true → x.queue ≠ [])

/-- R153: a command is in flight exactly while the reel is CLOSING or in TICKET_WAIT. -/
def closeInFlight (s : State) : Prop :=
  s.interpreter.inFlight.isSome = true ↔ s.reel.state = .closing ∨ s.reel.state = .ticketWait

/-- R151 and R153 together. -/
def repliesInv (s : State) : Prop := fillOrderInv s.interpreter ∧ claimedInv s.interpreter ∧ closeInFlight s

/-- R66: lines taken plus missing lines equals the line numbers consumed, as long as the counters have not saturated. -/
def linesInv (s : State) : Prop :=
  s.intake.writeLine ≤ counterMax → s.intake.counters.linesTaken + s.intake.counters.missingLines = s.intake.writeLine

/-! ## Words of the statements: lines, tops, frame ends, resets -/

/-- The Intake Port takes LINE packets, and the next number and `n` more lie at or below the drain target, where there is one (R5, R10). -/
def numbersLeft (i : Intake) (n : Nat) : Prop :=
  i.mode = .taking ∨ i.mode = .draining ∧ ∀ target, i.drainTarget = some target → i.writeLine + n ≤ target

/-- R7: the next line number is taken by a missing line without a break: it is counted, its record is handed to the Frame Tracker, and
the assignment is reported to the Conformance Engine (R81). -/
def missingTaken (s : State) : State :=
  reportChange (trackLine ⟨s.intake.writeLine, none, false⟩
    { s with
      intake :=
        { s.intake with
          writeLine := s.intake.writeLine + 1,
          counters := { s.intake.counters with missingLines := satAdd s.intake.counters.missingLines 1 } } })

/-- R6, R8, R9, R65, R66: a good packet with pixels `px` has taken the next line number, its record not yet handed on: the expected number
and the write line move on, and the line, brought to the width of the plan, is counted and staged, over the newest of four entries if it
must be; a packet without a pixel is counted missing. -/
def packetTaken (p : MemoryPlan) (sequence : Half) (px : List Pixel) (s : State) : State :=
  let k := s.intake.counters
  let room : Prop := s.intake.staging.length < 4
  let moved : Intake :=
    { s.intake with
      expected := some (sequence + 1#16), writeLine := s.intake.writeLine + 1, silence := s.intake.silence.map (fun _ => 0) }
  match px.getLast? with
  | none => { s with intake := { moved with counters := { k with missingLines := satAdd k.missingLines 1 } } }
  | some last =>
    let line : SourceLine :=
      ⟨s.intake.writeLine, if px.length < p.wIn then px ++ List.replicate (p.wIn - px.length) last else px.take p.wIn⟩
    { s with
      intake :=
        { moved with
          staging := if room then s.intake.staging ++ [line] else s.intake.staging.take 3 ++ [line],
          counters :=
            { k with
              linesTaken := if room then satAdd k.linesTaken 1 else k.linesTaken,
              missingLines := if room then k.missingLines else satAdd k.missingLines 1,
              paddedLines := if px.length < p.wIn then satAdd k.paddedLines 1 else k.paddedLines,
              truncatedLines := if p.wIn < px.length then satAdd k.truncatedLines 1 else k.truncatedLines } },
      frameMemory :=
        { s.frameMemory with
          overruns := if room then s.frameMemory.overruns else satAdd s.frameMemory.overruns 1 } }

/-- R6, R7, R8, R18: the record that the Frame Tracker receives for a good packet taken in `s`: the write line, the packet's edge position
and perforation samples, or the mark "missing" where it has no pixel, and the break mark. -/
def packetRecord (perf : Half) (edge : Int) (px : List Pixel) (atBreak : Bool) (s : State) : LineRecord :=
  ⟨s.intake.writeLine, if px = [] then none else some ((BitVec.ofInt 32 edge).toInt, perf), atBreak⟩

/-- R74, R81: the lines that output line `j` needs, with the verdicts of R81, written out. -/
def linesAsked (v0 top appliedS j : Nat) (s : State) : List NeededLine :=
  let y := 16 * top + ((16 * v0 + 256 * j) * appliedS + 32768) / 65536
  let ask (l : Nat) : NeededLine :=
    ⟨l, if (s.conformance.window.any (fun x => x.number == l)) = true then .kept else availability s l⟩
  if y % 256 = 0 then [ask (y / 256)] else [ask (y / 256), ask (y / 256 + 1)]

/-- R80, R81, R76: the Conformance Engine takes the frame of context `c`, written out: output line 0 with its needed lines, the column map
from the frame's applied H, an empty window, no previous line; then the line goes on as it can. -/
def frameBegun (copy : ConformanceCopy) (c : FrameContext) (s : State) : State :=
  let u : State := { s with conformance := { s.conformance with window := [] } }
  let column (i : Nat) : Int × Nat :=
    let x : Int := 16 * ((copy.fields.u0 : Int) + i) + c.appliedH
    (x / 16, (x % 16).toNat)
  advanceLine
    { u with
      conformance :=
        { u.conformance with
          mode := .gathering
            { frame := c.frame, top := c.top, appliedS := c.appliedS, j := 0,
              columns := (List.range copy.fields.wOut).map column,
              needed := linesAsked copy.fields.v0 c.top c.appliedS 0 u, previous := none } } }

/-- R21: the predicted pitch, written out. -/
def pitchOf (f : TrackingFields) (shrink : Nat) : Nat := (f.nominalPitch * shrink + 32768) / 65536

/-- R30: the elapsed count of a position from a top, half rounded up, written out. -/
def pitchesFrom (pitch : Nat) (y : TopMark) (position : Nat) : Nat := (2 * (position - y.position) + pitch) / (2 * pitch)

/-- R24, steps 6 to 8, of a perforation at `q` with a status and its tally: from state `v`, in which a pending frame has been cut, to `t`.
A countdown at 1 makes it the top (R38); a re-lock's top takes its number, and skipped frames are lost (R30, LE 16); a synthesis late in the
span counts on its frame until that is finished (R40); the next window is set up (R21). -/
def restOfResolution (f : TrackingFields) (q : Nat) (st : PerfStatus) (tally : Tally) (v t : State) : Prop :=
  let x := v.tracker
  let top : Prop := ∃ c, x.countdown = some c ∧ c ≤ 1
  t = { v with tracker := t.tracker, contexts := t.contexts, notices := t.notices }
    ∧ t.tracker =
        { x with
          window := some ⟨q, pitchOf f x.shrink, f.tol⟩, lastAccepted := decide (st = .accepted), countdown := t.tracker.countdown,
          pendingTop := t.tracker.pendingTop, nudge := t.tracker.nudge, spanIndex := t.tracker.spanIndex,
          rephasing := t.tracker.rephasing, frameCounter := t.tracker.frameCounter, counters := t.tracker.counters }
    ∧ (top → t.tracker.countdown = some f.k ∧ t.tracker.pendingTop = some ⟨q, st, tally⟩ ∧ t.tracker.nudge = none
        ∧ t.tracker.spanIndex = some 0)
    ∧ (¬top → t.tracker.countdown = x.countdown.map (· - 1) ∧ t.tracker.pendingTop = x.pendingTop ∧ t.tracker.nudge = x.nudge
        ∧ t.tracker.spanIndex = if x.countdown = none then x.spanIndex else x.spanIndex.map (· + 1))
    ∧ (∀ y, top → x.rephasing = true → x.qTop = some y →
        let frames := max 1 (pitchesFrom (pitchOf f x.shrink) y q / f.k)
        t.tracker.rephasing = false ∧ t.tracker.frameCounter = y.frame + frames
          ∧ t.tracker.counters =
              (if frames = 1 then x.counters else { x.counters with framesLost := satAdd x.counters.framesLost (frames - 1) })
          ∧ t.notices = if frames = 1 then v.notices else setNotice v.notices .framesLost (occur v.notices.framesLost))
    ∧ (¬top ∨ x.rephasing = false ∨ x.qTop = none →
        t.tracker.rephasing = x.rephasing ∧ t.tracker.frameCounter = x.frameCounter ∧ t.tracker.counters = x.counters
          ∧ t.notices = v.notices)
    ∧ t.contexts = match t.tracker.spanIndex, x.lastCut with
        | some i, some cut =>
          if 2 ≤ i ∧ i < f.k ∧ st = .synthesized then
            changeContext cut.frame (fun c => if c.finished = true then c else { c with synthesized := c.synthesized + 1 }) v.contexts
          else v.contexts
        | _, _ => v.contexts

/-- R28: a lock candidate resolves, ACCEPTED, from `s` to `t`: it is counted as seen and not as synthesized, a pending frame is cut, and
steps 6 to 8 of R24 follow. -/
def candidateResolves (f : TrackingFields) (e : Candidate) (s t : State) : Prop :=
  restOfResolution f e.position .accepted e.tally
    (cutFrame .locked 0
      { s with
        tracker :=
          { s.tracker with
            counters :=
              { s.tracker.counters with
                perforationsSeen := satAdd s.tracker.counters.perforationsSeen 1,
                synthesized := satAdd s.tracker.counters.synthesized 0 } } }) t

/-- R95, with R94 and R101: the Repair Engine's block after the last line of a frame, both obligations ended: WAITING, the fill buffer the
last written, its record VALID or VOID, and in IR mode ON the Scratch Table as R101 to R104 leave it. -/
def repairAfterFrame (copy : RepairCopy) (hand : RepairedHand) (r : Repair) : Repair :=
  let fill : Buffer := if r.lastWritten = some .a then .b else .a
  let close (v : Validity) : Validity := match v with
    | .filling n q => if hand.incomplete = true then .void n q else .valid n q
    | x => x
  let u := scratchFrameEnd copy.wOut hand.frame (copy.hOut * copy.fields.scratchPercentage / 100) r.columnCounters r.scratches
  { r with
    mode := .waiting, lastWritten := some fill, recordA := if fill = .a then close r.recordA else r.recordA,
    recordB := if fill = .b then close r.recordB else r.recordB,
    scratches := if copy.fields.irOn = true then u.table else r.scratches,
    scratchesTracked := if copy.fields.irOn = true then satAdd r.scratchesTracked u.newlyTracked else r.scratchesTracked }

/-- R104: the notices after the same frame end: one SCRATCH_FULL occurrence for each run discarded at a full table. -/
def noticesAfterFrame (copy : RepairCopy) (hand : RepairedHand) (r : Repair) (u : NoticeUnit) : NoticeUnit :=
  if copy.fields.irOn = true then
    setNotice u .scratchFull (occur^[(scratchFrameEnd copy.wOut hand.frame (copy.hOut * copy.fields.scratchPercentage / 100)
      r.columnCounters r.scratches).discarded] u.scratchFull)
  else u

/-- R68: the aging counts after every requester that presented a request has withdrawn it. -/
def agingWithdrawn (s t : State) : Prop :=
  ∀ r, countOf t.frameMemory.aging r = if presented s r = true then 0 else countOf s.frameMemory.aging r

/-- R127, R111: the sets of `g'` are those of `g`, each with its contents and coverage as they stood: the current set and the target set
IN_USE, every other set that was IN_USE READY. -/
def setsFollow (current target : Option (Fin 4)) (g g' : Grading) : Prop :=
  ∀ k : Fin 4, g'.sets[k] =
    { g.sets[k] with
      state := if current = some k ∨ target = some k then .inUse
        else if g.sets[k].state = .inUse then .ready
        else g.sets[k].state }

/-- A Grade Set that was IN_USE is READY again, every other set as it stood (R132). -/
def setsReleased (s t : State) : Prop :=
  ∀ k : Fin 4, t.grading.sets[k] =
    { s.grading.sets[k] with
      state := if s.grading.sets[k].state = .inUse then .ready else s.grading.sets[k].state }

/-- R155, step 3: every block but the Command Interpreter and the Reel Controller at its SOFT_RESET values, with or without a reel open
(R2, R16, R44, R57, R68, R71, R79, R110, R132, R165). The count of the stall timer is cleared, and the timer starts at 0 where its two
conditions hold afterwards (R15). -/
def softResetValues (s t : State) : Prop :=
  t.pending = s.pending ∧ t.formats = s.formats ∧ t.contexts = []
    ∧ t.delivery =
        { s.delivery with
          queue := if s.delivery.transmission.map (·.source) = some .framePacket then s.delivery.queue.take 1 else [],
          stall := if s.delivery.pool = 0 ∧ packetWaiting t = true then some 0 else none,
          transmission := s.delivery.transmission.map (fun x => { x with detached := true }) }
    ∧ (∀ c, noticeOf t.notices c = ⟨(noticeOf s.notices c).enabled, 0, .armed⟩) ∧ attn t.notices = false
    ∧ t.intake =
        { s.intake with
          mode := .closed, expected := none, endMark := none, drainTarget := none, silence := none, staging := [] }
    ∧ t.tracker = { s.tracker.idled with qTop := none, lastCut := none }
    ∧ t.pace = { s.pace with requested := 0, ringCap := 7, faultLatch := false, effective := 0, spinUp := none }
    ∧ t.frameMemory =
        { s.frameMemory with
          slots := [], fillLine := 0, aging := t.frameMemory.aging,
          channel := match s.frameMemory.channel with
            | some (.intakeWrite n slot a px _) => some (.intakeWrite n slot a px true)
            | some (.conformanceRead l a n _) => some (.conformanceRead l a n true)
            | some (.referenceRead a n _) => some (.referenceRead a n true)
            | some (.referenceWrite a x _) => some (.referenceWrite a x true)
            | none => none }
    ∧ agingWithdrawn s t
    ∧ t.conformance = { s.conformance with mode := .idle, window := [], held := .initial, readRequest := none }
    ∧ t.repair =
        { s.repair with
          mode := .waiting, temporal := false, recordA := .empty, recordB := .empty, lastWritten := none, mask := [],
          columnCounters := [], readRequest := false, writeRequest := false,
          scratches := s.repair.scratches.filter (fun e => !isLearned e) }
    ∧ t.grading =
        { s.grading with
          mode := .waiting, sets := t.grading.sets, cues := [], spliceCues := [], current := none, dissolve := none,
          accumulators := ⟨0, 0, 0, 0⟩ }
    ∧ setsReleased s t

/-- R101: two spans of columns share a column, or at most 2 columns lie between them. -/
def spansNear (l1 w1 l2 w2 : Nat) : Prop := ∃ c d, l1 ≤ c ∧ c < l1 + w1 ∧ l2 ≤ d ∧ d < l2 + w2 ∧ c ≤ d + 3 ∧ d ≤ c + 3

/-- Two spans of columns share a column. -/
def spansMeet (l1 w1 l2 w2 : Nat) : Prop := ∃ c, l1 ≤ c ∧ c < l1 + w1 ∧ l2 ≤ c ∧ c < l2 + w2

/-! ## The end of a reel, the ring, and what the part reports -/

/-- R143: a Reel Record with the block counters copied into it. -/
def recordAtEnd (s : State) (r : ReelRecord) : ReelRecord :=
  let k := s.tracker.counters
  { r with
    framesLost := k.framesLost, perforationsSeen := k.perforationsSeen, synthesized := k.synthesized, spurious := k.spuriousEdges,
    irregular := k.irregular, splices := k.splices, pitchSteps := k.pitchSteps, lockLosses := k.lockLosses,
    unframedLines := k.unframedLines, missingLines := s.intake.counters.missingLines, droppedLines := s.frameMemory.dropped,
    scratchesTracked := s.repair.scratchesTracked }

/-- R148: the ticket of the reel that is aborted in `s`: its identity, its sequence and the metrics of the record, class 0, zone 0,
interval 0, no flag, no matched row, no CLASS_UNSET mark, no class change, and the aborted mark. -/
def ticketOfAbort (s : State) (x : ReelIdentity) (record : ReelRecord) : Ticket :=
  { reelSequence := s.reel.sequence, accession := x.accession, reelNumber := x.reelNumber, format := x.format.val, cls := 0,
    previousClass := x.previousClass, change := none, zone := 0, interval := 0, flags := ⟨false, false, false, false⟩,
    classUnset := false, matchedRows := [], metrics := metricsOf record, framesDelivered := record.framesDelivered,
    framesLost := record.framesLost, aborted := true }

/-- R43: line `l` is the Tracker's earliest needed line E_t. -/
def isEarliestNeeded (s : State) (l : Nat) : Prop :=
  (s.tracker.mode = .idle → l = s.intake.writeLine)
    ∧ (s.tracker.mode = .search →
        (s.tracker.candidates = [] → l = s.intake.writeLine)
          ∧ ∀ c rest, s.tracker.candidates = c :: rest → l = c.position / 16)
    ∧ (s.tracker.mode = .locked ∨ s.tracker.mode = .coasting →
        (∀ top, s.tracker.pendingTop = some top → l = top.position / 16)
          ∧ ∀ w, s.tracker.pendingTop = none → s.tracker.window = some w → l = w.q / 16)

/-- Bits `lo` up to `lo + width - 1` of a word of a payload, the words numbered from 1 as in Tables 12-4 to 12-8. -/
def fieldAt (payload : List Byte) (number lo width : Nat) : Nat := (wordAt payload (number - 1)).toNat / 2 ^ lo % 2 ^ width

/-! ## The records of STATUS_QUERY, item by item (Table 10-3, R157, R167, LE 7, LE 8) -/

/-- A mark, a level or a yes-or-no item (LE 38). -/
def oneIf (b : Bool) : Word := if b = true then 1#32 else 0#32

/-- An item of one word that may be absent (R167). -/
def itemOr : Option Nat → List Word
  | some n => [word n, 1#32]
  | none => [0#32, 0#32]

/-- An item of two words that may be absent (R167). -/
def positionOr : Option Nat → List Word
  | some n => [word n, word (n / 2 ^ 32), 1#32]
  | none => [0#32, 0#32, 0#32]

/-- An item of more than 32 bits, low word first (R167). -/
def twoWordItem (n : Nat) : List Word := [word n, word (n / 2 ^ 32)]

/-- R44, R42: the TRACKER record. -/
def trackerItems (s : State) : List Word :=
  let t := s.tracker
  let k := t.counters
  let mode : ReportedState := match t.mode with
    | .idle => .trackerIdle
    | .search => .trackerSearch
    | .locked => .trackerLocked
    | .coasting => .trackerCoasting
  [word k.perforationsSeen, word k.synthesized, word k.spuriousEdges, word k.irregular, word k.splices, word k.pitchSteps,
      word k.lockLosses, word k.unframedLines, word k.framesLost, Config.stateCode mode, word t.shrink, word t.history.length]
    ++ itemOr (t.window.map (·.pitch)) ++ [word t.synthRun, word t.acceptRun, word t.frameCounter]
    ++ positionOr (t.pendingTop.map (·.position)) ++ positionOr (t.suspect.map (·.position)) ++ positionOr t.spliceMark
    ++ [word s.contexts.length] ++ itemOr (s.contexts.head?.map (·.frame)) ++ itemOr (s.contexts.getLast?.map (·.frame))

/-- R52: what the step counters hold once they are loaded with a level: the P and Q of the level's entry in the Pace Table; level 0
leaves them STOPPED. -/
def loadedWith (p : Pace) (l : Nat) : Option LoadedLevel :=
  if l = 0 then none
  else
    match p.table[l - 1]? with
    | some (some x) => some ⟨l, x.p, x.q⟩
    | _ => none

/-- R57: the Pace Generator in the RING record: the timeouts in the units of R56 (LE 32), a Pace Table level in two words (LE 40), the
held TRUN level as 1 or 0 (LE 38). -/
def paceItems (p : Pace) : List Word :=
  [word p.requested, word p.ringCap, word p.effective,
      Config.stateCode (if p.counters = none then .countersStopped else .countersRunning)]
    ++ itemOr (p.counters.map (·.level)) ++ [Config.stateCode (if p.spinUp = none then .spinUpStopped else .spinUpRunning)] ++ itemOr p.spinUp
    ++ [oneIf p.faultLatch, oneIf p.trun]
    ++ p.table.toList.flatMap (fun l => match l with
        | some x => [word x.p, word x.q]
        | none => [0#32, 0#32])
    ++ [word p.high, word p.low, word p.spinUpTimeout, word p.silenceTimeout, word p.stallTimeout]

/-- R79: the Conformance Engine in the RING record: its state, the current frame's number and output line, the lines it waits for, and
the held line's number, absent for the mark "initial" (LE 39). -/
def conformanceItems (c : Conformance) : List Word :=
  let job : Option FrameJob := match c.mode with
    | .idle => none
    | .gathering x => some x
    | .offering x _ => some x
  let mode : ReportedState := match c.mode with
    | .idle => .conformanceIdle
    | .gathering _ => .conformanceGathering
    | .offering _ _ => .conformanceOffering
  let awaited : List NeededLine := match c.mode with
    | .gathering x => x.needed.filter (fun n => n.verdict == .pending)
    | _ => []
  [Config.stateCode mode] ++ itemOr (job.map (·.frame)) ++ itemOr (job.map (·.j))
    ++ (if awaited = [] then [0#32, 0#32] else word awaited.length :: awaited.map (fun n => word n.line) ++ [1#32])
    ++ match c.held with
      | .initial => [0#32, 0#32]
      | .line n _ => [word n, 1#32]

/-- R58, R60, R62, R63, R71, R57, R79: the RING record: memory state and size, the plan (five words of 0 when unset, LE 36), the protect
boundary and its two inputs, the occupancy, the two counters, the Pace Generator and the Conformance Engine. -/
def ringItems (s : State) : List Word :=
  let f := s.frameMemory
  [Config.stateCode (if f.ready = true then .memoryReady else .memoryNotReady)] ++ twoWordItem f.size
    ++ (match f.plan with
      | some p => [word p.wIn, word p.r, word p.ringBase, word p.baseA, word p.baseB]
      | none => [0#32, 0#32, 0#32, 0#32, 0#32])
    ++ [word (protectBoundary s), word (earliestNeeded s.tracker s.intake.writeLine)]
    ++ itemOr ((s.contexts.find? (fun c => c.finished == false && c.aborted == false)).map (fun c => c.top / 16))
    ++ [word (occupancy s), word f.dropped, word f.overruns] ++ paceItems s.pace ++ conformanceItems s.conformance

/-- Table 9-4: the Reel Record, its sums and pixel totals in two words. -/
def reelRecordItems (r : ReelRecord) : List Word :=
  [word r.framesDelivered, word r.framesIncomplete, word r.substitutedLines, word r.framesAborted] ++ twoWordItem r.sumS
    ++ itemOr r.minS ++ itemOr r.maxS ++ twoWordItem r.temporal ++ twoWordItem r.spatial ++ twoWordItem r.scratchPixels
    ++ twoWordItem r.unrepaired ++ twoWordItem r.clipped ++ twoWordItem r.pixelsDelivered ++ twoWordItem r.sumMeanR
    ++ twoWordItem r.sumMeanB
    ++ [word r.framesLost, word r.perforationsSeen, word r.synthesized, word r.spurious, word r.irregular, word r.splices,
      word r.pitchSteps, word r.lockLosses, word r.unframedLines, word r.missingLines, word r.droppedLines, word r.scratchesTracked]

/-- R133: the REEL_RECORD record: the reel state, sequence and identity, the Reel Record, the last metrics, the tickets queued, whether
one is held (LE 38), and the two shelving tables. -/
def reelItems (r : ReelController) : List Word :=
  let state : ReportedState := match r.state with
    | .noReel => .reelNoReel
    | .opened => .reelOpen
    | .closing => .reelClosing
    | .ticketWait => .reelTicketWait
  [Config.stateCode state, word r.sequence.toNat]
    ++ (match r.identity with
      | some x =>
        word x.accession.length
            :: (List.range 6).map (fun i => wordAt (x.accession ++ List.replicate (24 - x.accession.length) 0#8) i)
          ++ [word x.reelNumber, word x.format.val, word x.initialSet.val] ++ itemOr x.shrinkHint ++ itemOr x.previousClass
          ++ itemOr x.paceLevel ++ [1#32]
      | none => List.replicate 17 0#32)
    ++ reelRecordItems r.record
    ++ (match r.lastMetrics with
      | some m => m.map word ++ [1#32]
      | none => List.replicate 13 0#32)
    ++ [word r.tickets.length, oneIf (decide (r.held ≠ none))]
    ++ r.shelving.toList.flatMap (fun x => match x with
        | some y => [word y.metric, if y.comparison = .atLeast then 0#32 else 1#32, word y.threshold, word y.cls]
        | none => [0#32, 0#32, 0#32, 0#32])
    ++ r.classes.toList.flatMap (fun x => match x with
        | some y =>
          [word y.zone, word y.interval,
            oneIf y.flags.coldStorage + 2#32 * oneIf y.flags.isolate + 4#32 * oneIf y.flags.holdForDuplication
              + 8#32 * oneIf y.flags.noProjection]
        | none => [0#32, 0#32, 0#32])

/-- Table 7-4: an entry of the Scratch Table, the codes of its origin as LE 41 reads them. -/
def scratchItems (e : ScratchEntry) : List Word :=
  [word e.slot, word e.left, word e.width]
    ++ (match e.origin with
      | .learned .candidate _ => [0#32, Config.stateCode .scratchCandidate, 1#32]
      | .learned .tracked _ => [0#32, Config.stateCode .scratchTracked, 1#32]
      | .learned .fading _ => [0#32, Config.stateCode .scratchFading, 1#32]
      | .loaded => [1#32, 0#32, 0#32])
    ++ [word e.confirm, word e.miss, word e.tracked]
    ++ match e.origin with
      | .learned _ n => [word n, 1#32]
      | .loaded => [0#32, 0#32]

/-- R94: a validity record: its state, frame number and reel sequence. -/
def validityItems : Validity → List Word
  | .empty => [Config.stateCode .recordEmpty, 0#32, 0#32, 0#32, 0#32]
  | .filling n q => [Config.stateCode .recordFilling, word n, 1#32, word q.toNat, 1#32]
  | .valid n q => [Config.stateCode .recordValid, word n, 1#32, word q.toNat, 1#32]
  | .void n q => [Config.stateCode .recordVoid, word n, 1#32, word q.toNat, 1#32]

/-- R110: the SCRATCH_TABLE record: the table, the validity records, the last-written mark (absent for none, LE 39), the engine state with
the line in hand, and the counter. -/
def repairItems (r : Repair) : List Word :=
  word r.scratches.length :: r.scratches.flatMap scratchItems ++ validityItems r.recordA ++ validityItems r.recordB
    ++ (match r.lastWritten with
      | none => [0#32, 0#32]
      | some .a => [Config.stateCode .bufferA, 1#32]
      | some .b => [Config.stateCode .bufferB, 1#32])
    ++ (match r.mode with
      | .waiting => [Config.stateCode .repairWaiting, 0#32, 0#32, 0#32, 0#32]
      | .fetching x => [Config.stateCode .repairFetching, word x.line.frame, 1#32, word x.line.j, 1#32]
      | .passing x => [Config.stateCode .repairPassing, word x.frame, 1#32, word x.j, 1#32])
    ++ [word r.scratchesTracked]

/-- R121: the CUE_LIST record: both collections in their order, and the three counters. -/
def cueItems (g : Grading) : List Word :=
  word g.cues.length :: g.cues.flatMap (fun c => [word c.trigger, word c.set.val, word c.d])
    ++ word g.spliceCues.length :: g.spliceCues.flatMap (fun c => [word c.set.val, word c.d])
    ++ [word g.counters.superseded, word g.counters.misses, word g.counters.applied]

/-- R112, R132: the GRADE_SETS record: for each set its state, its 48 chunk flags (eight bits a LUT, LUT 0 lowest, in two words, LE 35) and
its matrix mark; the current set, the dissolve record, and the engine state with the line in hand. -/
def gradingItems (g : Grading) : List Word :=
  g.sets.toList.flatMap (fun x =>
      [Config.stateCode (match x.state with
          | .empty => .setEmpty
          | .loading => .setLoading
          | .ready => .setReady
          | .inUse => .setInUse),
        word (chunkFlags x.luts[0] + 2 ^ 8 * chunkFlags x.luts[1] + 2 ^ 16 * chunkFlags x.luts[2] + 2 ^ 24 * chunkFlags x.luts[3]),
        word (chunkFlags x.luts[4] + 2 ^ 8 * chunkFlags x.luts[5]), oneIf (decide (x.matrix ≠ none))])
    ++ itemOr (g.current.map (·.val))
    ++ (match g.dissolve with
      | some d => [word d.target.val, word d.d, word d.k, 1#32]
      | none => [0#32, 0#32, 0#32, 0#32])
    ++ match g.mode with
      | .waiting => [Config.stateCode .gradingWaiting, 0#32, 0#32, 0#32, 0#32]
      | .placing x => [Config.stateCode .gradingPlacing, word x.frame, 1#32, word x.j, 1#32]

/-- R165: the NOTICES record: for each class in class order its enable, its count and its latch, and the level of ATTN (LE 38). -/
def noticeItems (u : NoticeUnit) : List Word :=
  let classes : List NoticeState := [u.lockLost, u.framesLost, u.ringOverflow, u.intakeError, u.gradeMiss, u.scratchFull,
    u.ticketReady, u.transportFault, u.deliveryStall, u.clamp]
  classes.flatMap (fun n =>
      [oneIf n.enabled, word n.count,
        Config.stateCode (match n.latch with
          | .armed => .latchArmed
          | .pending _ => .latchPending
          | .raised => .latchRaised)])
    ++ [if ∃ n ∈ classes, n.latch ≠ .armed then 1#32 else 0#32]

/-- R2, R12, R71, R68, R159: the COUNTERS record, taken with the query in flight in slot `i` and at the head of the queue (LE 25). -/
def counterItems (i : Fin 8) (s : State) : List Word :=
  let k := s.intake.counters
  let x := s.interpreter
  let slots := (x.ordinary.set i .claimed).toList
  [word k.linesTaken, word k.missingLines, word k.gaps, word k.duplicates, word k.sequenceBreaks, word k.lineCrcFailures,
    word k.controlCrcFailures, word k.malformedPackets, word k.paddedLines, word k.truncatedLines,
    word s.delivery.excess, word s.delivery.badGrants, word s.frameMemory.dropped, word s.frameMemory.overruns,
    word s.frameMemory.grants.intakeWrite, word s.frameMemory.grants.conformanceRead, word s.frameMemory.grants.referenceRead,
    word s.frameMemory.grants.referenceWrite, word x.dropped, word x.unanswered, 1#32, 1#32,
    word (slots.filter (fun y => y == .free)).length, word (slots.filter (fun y => y == .claimed)).length,
    word (slots.filter (fun y => match y with
      | .filled _ => true
      | _ => false)).length,
    Config.stateCode (if x.reserved = none then .reservedFree else .reservedFilled)]

end Sys2Proof.Machine
end

