-- ==== Sys2Proof/WellFormed.lean ====
section
/-! DEFINITION. Which commands can stand in a packet as spec/ lays packets out: the lengths of lists and the kinds of runs. A command
that fails a check here still has a meaning (the meaning refuses it where the spec refuses it). -/

namespace Sys2Proof

/-- A command whose argument bytes a control packet can carry (R4, R167): at most 1020 argument bytes, lists of the stated lengths. -/
def Command.wellFormed : Command → Bool
  | .lutLoad _ _ _ _ data => 1 ≤ data.length && data.length ≤ 502
  | .scratchLoad items => items.length ≤ 254
  | .reelOpen a => a.accession.length == 24
  | .wrongLength => false
  | .unknown => false
  | _ => true

/-- A run whose kind field (header bits 7:0) is `kind` and that can hold a header word and a check word (R166). -/
def runOfKind (kind : Byte) (run : List Byte) : Bool := 8 ≤ run.length && byteAt run 0 == kind

/-- The check on a command as syntax: a run is of its row's kind, a list has a length its packet can state, and BAD_COMMAND's code is
one the part does not know. -/
def Instr.wellFormed : Instr → Bool
  | .linePacket run => runOfKind 0x01#8 run
  | .controlPacket run => runOfKind 0x02#8 run
  | .unknownKindPacket run => !(runOfKind 0x01#8 run || runOfKind 0x02#8 run)
  | .lutLoad _ s l f n data => Command.wellFormed (.lutLoad s l f n data)
  | .scratchLoad _ items => Command.wellFormed (.scratchLoad items)
  | .reelOpen _ a => Command.wellFormed (.reelOpen a)
  | .badCommand _ code => commandOf code [] == .unknown && !isImmediate code
  | _ => true

end Sys2Proof
end

