-- ==== Sys2Proof/Certificates/Slice0/Obligations.lean ====
section
/-! DEFINITION. The statements about the part, for the provers. Each names the rule of spec/ it formalises, or the log entry that a model's
choice stands in. -/

open Sys2Proof Sys2Proof.Machine

/-! ## Steps and invariants -/

/-- LE 1. A step takes the command at the front of the queue and is its meaning on the state with the queue's rest; on
an empty queue the block idles (the model's choice). -/
def Obligations.StepRunsFrontCommand : Prop :=
  (∀ (c : Instr) (rest : List Instr) (s : State), step { s with pending := c :: rest } = exec c { s with pending := rest })
    ∧ ∀ s : State, s.pending = [] → step s = .next s

/-- LE 1. No command changes the queue of commands that wait. -/
def Obligations.CommandsKeepQueue : Prop :=
  ∀ (i : Instr) (s t : State), exec i s = .next t → t.pending = s.pending

/-- The state after reset has every invariant that the statements below say each step keeps. -/
def Obligations.ResetMeetsInvariants : Prop :=
  memoryInv State.reset ∧ ringInv State.reset ∧ boundsInv State.reset ∧ framesInv State.reset ∧ levelInv State.reset
    ∧ setsInv State.reset ∧ stallInv State.reset ∧ repliesInv State.reset ∧ linesInv State.reset ∧ clampsInv State.reset
    ∧ stagedInv State.reset ∧ cuesInv State.reset ∧ scratchesInv State.reset

/-- R60, R61: every step keeps the canonical form of the memory and line N in slot N mod R. -/
def Obligations.MemoryFormKept : Prop :=
  ∀ s t : State, memoryInv s ∧ ringInv s → step s = .next t → memoryInv t ∧ ringInv t

/-- R12, R14, R42, R65, R100, R121, R149, R150: every step keeps each collection within its number. R66, R7: every
step keeps lines taken plus missing lines equal to the line numbers consumed. R65, R121, R100: every step keeps the
staged lines in ascending line number, the Cue List in strictly ascending trigger frame, and the Scratch Table in
ascending left column, with no column in two entries and a slot for each entry alone. -/
def Obligations.CollectionsStayBounded : Prop :=
  (∀ s t : State, boundsInv s → step s = .next t → boundsInv t)
    ∧ (∀ s t : State, linesInv s → step s = .next t → linesInv t)
    ∧ (∀ s t : State, stagedInv s → step s = .next t → stagedInv t)
    ∧ (∀ s t : State, cuesInv s → step s = .next t → cuesInv t)
    ∧ (∀ s t : State, scratchesInv s → step s = .next t → scratchesInv t)

/-- R42: every step keeps the contexts in strictly ascending frame number, with the consumed numbers of R29, R30 and
R39. -/
def Obligations.FrameNumbersKept : Prop :=
  ∀ s t : State, framesInv s → step s = .next t → framesInv t

/-- R51: after every step the effective level is the one formed from the standing inputs. It then never exceeds the
requested level, the ring cap, or the damage cap while a reel is OPEN and the Tracker COASTING or SEARCH; it is 0 under
the fault latch and in NO_REEL and TICKET_WAIT; it is 0 or a set level, and no set level lies above it at or below the
requested level, the ring cap and, while it is in use, the damage cap. Forming it anew (R51 to R53) changes only the level, and at a rise from 0 starts STOPPED counters,
loaded with the new level's P and Q, with the spin-up timer while TRUN is DEASSERTED; RUNNING counters keep the level, P
and Q they hold; at 0 the spin-up timer is stopped. -/
def Obligations.EffectiveLevelFormed : Prop :=
  (∀ s t : State, levelInv s → step s = .next t → levelInv t)
    ∧ (∀ s : State, levelInv s →
    s.pace.effective ≤ s.pace.requested ∧ s.pace.effective ≤ s.pace.ringCap
      ∧ (∀ f, s.reel.state = .opened → s.tracker.mode = .coasting ∨ s.tracker.mode = .search → s.tracker.fields = some f →
          s.pace.effective ≤ f.damageCap)
      ∧ (s.pace.faultLatch = true ∨ s.reel.state = .noReel ∨ s.reel.state = .ticketWait → s.pace.effective = 0)
      ∧ (s.pace.effective = 0 ∨ isSetLevel s.pace s.pace.effective = true)
      ∧ ∀ l, s.pace.faultLatch = false → s.reel.state = .opened ∨ s.reel.state = .closing → s.pace.effective < l →
          l ≤ s.pace.requested → l ≤ s.pace.ringCap →
          (∀ f, s.reel.state = .opened → s.tracker.mode = .coasting ∨ s.tracker.mode = .search → s.tracker.fields = some f →
            l ≤ f.damageCap) →
          l ≤ 7 → isSetLevel s.pace l = false)
    ∧ ∀ s : State,
        let l := (formEffective s).pace.effective
        levelInv (formEffective s)
          ∧ (l ≠ 0 → ∃ x : PaceLevel, s.pace.table[l - 1]? = some (some x) ∧ loadedWith s.pace l = some ⟨l, x.p, x.q⟩)
          ∧ formEffective s =
              { s with
                pace :=
                  if l = 0 then { s.pace with effective := 0, spinUp := none }
                  else if s.pace.effective = 0 ∧ s.pace.counters = none then
                    { s.pace with
                      effective := l, counters := loadedWith s.pace l,
                      spinUp := if s.pace.trun = true then none else some 0 }
                  else { s.pace with effective := l } }

/-- R111: every step keeps a Grade Set IN_USE exactly while it is the current or the target set. -/
def Obligations.SetsInUseKept : Prop :=
  ∀ s t : State, setsInv s → step s = .next t → setsInv t

/-- R15: whatever command answers a next state, the stall timer runs in it exactly while the pool is 0 and a packet
waits; it keeps its count while both hold, starts at 0 and is cleared. A packet waits while its source holds it, the packet in
transmission among them: the model's reading (LE 14, DEDUCED). -/
def Obligations.StallTimerFollows : Prop :=
  (∀ (i : Instr) (s t : State), exec i s = .next t → stallInv t)
    ∧ (∀ s : State, packetWaiting s = true ↔
        s.interpreter.fillOrder ≠ [] ∨ (∃ c k, (noticeOf s.notices c).latch = .pending k) ∨ s.reel.tickets ≠ []
          ∨ s.delivery.queue ≠ [])
    ∧ ∀ s : State, settleStall s =
        { s with
          delivery :=
            { s.delivery with
              stall := if s.delivery.pool = 0 ∧ packetWaiting s = true then some (s.delivery.stall.getD 0) else none } }

/-- R151, R153: every step keeps the fill order equal to the FILLED slots, the CLAIMED slot that of the command in
flight, and a command in flight exactly while the reel is CLOSING or in TICKET_WAIT. -/
def Obligations.RepliesKept : Prop :=
  ∀ s t : State, repliesInv s → step s = .next t → repliesInv t

/-- R34, R35, R37: every step keeps the applied S and H of every context within their clamps and the Tracker within
its ranges. -/
def Obligations.ClampsKept : Prop :=
  ∀ s t : State, clampsInv s → step s = .next t → clampsInv t

/-! ## Packets -/

/-- Table 12-9, R167: a command is read back from its code and its argument bytes, every argument at every value. -/
def Obligations.CommandsReadBack : Prop :=
  ∀ c : Command, c.wellFormed = true → commandOf (codeOf c) (argBytesOf c) = c

/-- R4, R150, R154: a CONTROL packet that carries a command's code, tag and arguments does what the command's row
does; the two immediate commands and a code the part does not know likewise. R151, R152, R156: whatever run of bytes
arrives, the step answers a next state; a good packet that starts at its arrival is answered in the FREE slot with its
code and tag, but for REEL_CLOSE, whose answer comes later (R153, ReelCloseStarts). -/
def Obligations.ControlPacketRunsItsCommand : Prop :=
  (∀ (c : Command) (tag : Half) (s : State), c.wellFormed = true →
      exec (.controlPacket (controlRun (codeOf c) tag (argBytesOf c))) s = exec (rowOf tag c) s)
    ∧ (∀ (tag : Half) (s : State), exec (.controlPacket (controlRun 0x24#16 tag [])) s = exec (.reelAbort tag) s)
    ∧ (∀ (tag : Half) (s : State), exec (.controlPacket (controlRun 0x3F#16 tag [])) s = exec (.softReset tag) s)
    ∧ (∀ (code tag : Half) (args : List Byte) (s : State), args.length ≤ 1020 → code ≠ 0x24#16 → code ≠ 0x3F#16 →
        commandOf code args = .unknown → exec (.controlPacket (controlRun code tag args)) s = exec (.badCommand tag code) s)
    ∧ (∀ (run : List Byte) (s : State), ∃ t, exec (.controlPacket run) s = .next t)
    ∧ ∀ (c : Command) (tag : Half) (i : Fin 8) (s : State), c.wellFormed = true → c ≠ .reelClose → readyForCommand s i →
        ∃ (status : ReplyStatus) (data : List Word) (u : State),
          exec (.controlPacket (controlRun (codeOf c) tag (argBytesOf c))) s =
              .next (answeredIn i (codeOf c) tag status data u)
            ∧ u.interpreter = s.interpreter ∧ u.pending = s.pending

/-- R1: the CRC of the check text, and every packet built for a link carries the CRC of what precedes it and is read
back as intact. Tables 12-6 to 12-8, read back word by word from the payloads that DeliveryChooses sends: every field of
FRAME_HEAD, LINE_OUT, FRAME_TAIL, REPLY, NOTICE and TICKET stands at its word and bits, the payload has its length, and
the bits that the tables assign to nothing are 0. A frame number, a position, an S or a count wider than 32 bits, which
no run reaches, shows its low 32 bits (LE 20). -/
def Obligations.PacketsCarryTheirCrc : Prop :=
  crc16 [0x31#8, 0x32#8, 0x33#8, 0x34#8, 0x35#8, 0x36#8, 0x37#8, 0x38#8, 0x39#8] = 0x29B1#16
    ∧ (∀ (kind : Byte) (payload : List Byte), payload.length < 65536 →
        runIntact (packetRun kind payload) = true ∧ payloadOf (packetRun kind payload) = payload)
    ∧ (∀ c : FrameContext,
        let f := fieldAt (headPayload c)
        (headPayload c).length = 28 ∧ f 1 0 32 = c.frame % 2 ^ 32 ∧ f 2 0 16 = c.reelSequence.toNat
          ∧ f 2 16 1 = (if c.topStatus = .accepted then 0 else 1) ∧ f 2 17 1 = (if c.cutState = .locked then 0 else 1)
          ∧ f 2 18 1 = c.splice.toNat ∧ f 2 19 1 = c.shrinkClamp.toNat ∧ f 2 20 1 = c.weaveClamp.toNat
          ∧ f 2 21 1 = c.gradeMiss.toNat ∧ f 2 22 2 = 0 ∧ f 2 24 4 = c.top % 16 ∧ f 2 28 4 = 0
          ∧ f 3 0 32 = c.top / 16 % 2 ^ 32 ∧ f 4 0 32 = c.appliedS % 2 ^ 32
          ∧ f 5 0 16 = (BitVec.ofInt 16 c.appliedH).toNat ∧ f 5 16 8 = c.weight % 256
          ∧ f 5 24 2 = (match c.currentSet with
            | some i => i.val
            | none => 0)
          ∧ f 5 26 1 = (if c.targetSet = none then 0 else 1)
          ∧ f 5 27 2 = (match c.targetSet with
            | some i => i.val
            | none => 0)
          ∧ f 5 29 3 = 0
          ∧ (f 6 0 32, f 7 0 32) = (match c.firedCue with
            | none => (0, 0)
            | some (.frame n) => (1, n % 2 ^ 32)
            | some .splice => (2, 0)))
    ∧ (∀ (frame j : Nat) (px : List Rgb), j < 2 ^ 16 →
        let p := lineOutPayload frame j px
        p.length = 8 + 6 * px.length ∧ fieldAt p 1 0 32 = frame % 2 ^ 32 ∧ fieldAt p 2 0 16 = j ∧ fieldAt p 2 16 16 = 0
          ∧ ∀ x (h : x < px.length),
              halfAt p (8 + 6 * x) = px[x].r ∧ halfAt p (8 + 6 * x + 2) = px[x].g ∧ halfAt p (8 + 6 * x + 4) = px[x].b)
    ∧ (∀ c : FrameContext, c.meanR < 2 ^ 16 → c.meanG < 2 ^ 16 → c.meanB < 2 ^ 16 →
        let f := fieldAt (tailPayload c)
        (tailPayload c).length = 40 ∧ f 1 0 32 = c.frame % 2 ^ 32 ∧ f 2 0 16 = c.reelSequence.toNat
          ∧ f 2 16 3 = c.synthesized % 8 ∧ f 2 19 1 = c.incomplete.toNat ∧ f 2 20 1 = c.referenceUsed.toNat
          ∧ f 2 21 1 = c.aborted.toNat ∧ f 2 22 10 = 0 ∧ f 3 0 32 = c.substituted % 2 ^ 32
          ∧ f 4 0 32 = c.temporal % 2 ^ 32 ∧ f 5 0 32 = c.spatial % 2 ^ 32 ∧ f 6 0 32 = c.scratchPixels % 2 ^ 32
          ∧ f 7 0 32 = c.unrepaired % 2 ^ 32 ∧ f 8 0 32 = c.clipped % 2 ^ 32
          ∧ f 9 0 16 = c.meanR ∧ f 9 16 16 = c.meanG ∧ f 10 0 16 = c.meanB ∧ f 10 16 16 = 0)
    ∧ (∀ r : Reply, 4 * r.data.length < 2 ^ 16 →
        let p := replyPayload r
        p.length = 8 + 4 * r.data.length ∧ fieldAt p 1 0 16 = r.code.toNat ∧ fieldAt p 1 16 16 = r.tag.toNat
          ∧ (r.status, fieldAt p 2 0 8) ∈
              [(ReplyStatus.ok, 0), (.adjusted, 1), (.busy, 2), (.notReady, 3), (.badCommand, 4), (.badArg, 5), (.badState, 6),
                (.notConfigured, 7), (.overlap, 8), (.setBusy, 9), (.incompleteSet, 10), (.tableFull, 11), (.duplicate, 12),
                (.aborted, 13)]
          ∧ fieldAt p 2 8 8 = 0 ∧ fieldAt p 2 16 16 = 4 * r.data.length
          ∧ ∀ k (h : k < r.data.length), wordAt p (2 + k) = r.data[k])
    ∧ (∀ (c : NoticeClass) (carried : Nat), carried < 2 ^ 16 →
        let p := noticePayload c carried
        p.length = 4 ∧ fieldAt p 1 8 8 = 0 ∧ fieldAt p 1 16 16 = carried
          ∧ (c, fieldAt p 1 0 8) ∈
              [(NoticeClass.lockLost, 1), (.framesLost, 2), (.ringOverflow, 3), (.intakeError, 4), (.gradeMiss, 5),
                (.scratchFull, 6), (.ticketReady, 7), (.transportFault, 8), (.deliveryStall, 9), (.clamp, 10)])
    ∧ ∀ t : Ticket, t.reelNumber < 256 → t.format < 8 → t.cls < 8 → (∀ c, t.previousClass = some c → c < 8) → t.zone < 256 →
        t.interval < 256 → t.matchedRows.Nodup → (∀ r ∈ t.matchedRows, r < 16) → t.accession.length ≤ 24 →
        t.metrics.length = 12 →
        let f := fieldAt (ticketPayload t)
        (ticketPayload t).length = 92 ∧ f 1 0 16 = t.reelSequence.toNat ∧ f 1 16 8 = t.reelNumber ∧ f 1 24 3 = t.format
          ∧ f 1 27 3 = t.cls ∧ f 1 30 1 = t.aborted.toNat ∧ f 1 31 1 = t.classUnset.toNat
          ∧ f 2 0 3 = t.previousClass.getD 0
          ∧ f 2 3 2 = (match t.change with
            | none => 0
            | some .better => 1
            | some .same => 2
            | some .worse => 3)
          ∧ f 2 5 3 = 0 ∧ f 2 8 8 = t.zone ∧ f 2 16 8 = t.interval ∧ f 2 24 1 = t.flags.coldStorage.toNat
          ∧ f 2 25 1 = t.flags.isolate.toNat ∧ f 2 26 1 = t.flags.holdForDuplication.toNat
          ∧ f 2 27 1 = t.flags.noProjection.toNat ∧ f 2 28 4 = 0
          ∧ (∀ r < 16, f 3 r 1 = if r ∈ t.matchedRows then 1 else 0) ∧ f 3 16 8 = t.accession.length ∧ f 3 24 8 = 0
          ∧ (∀ k < 24, byteAt (ticketPayload t) (12 + k) = t.accession.getD k 0#8)
          ∧ (∀ m < 12, f (10 + m) 0 32 = t.metrics.getD m 0 % 2 ^ 32)
          ∧ f 22 0 32 = t.framesDelivered % 2 ^ 32 ∧ f 23 0 32 = t.framesLost % 2 ^ 32

/-- R4, R5: a LINE packet in CLOSED changes nothing; a packet of no known kind, a CONTROL packet with a failed CRC and
one of unacceptable length are each counted once and raise INTAKE_ERROR. -/
def Obligations.PacketsDropped : Prop :=
  (∀ (run : List Byte) (x : Option (List Byte)) (s : State), arrivalOf run = .line x → s.intake.mode = .closed →
      exec (.linePacket run) s = .next (settleStall s))
    ∧ (∀ (run : List Byte) (s : State), arrivalOf run = .unknown →
        exec (.unknownKindPacket run) s = .next (settleStall (raise .intakeError
          { s with
            intake :=
              { s.intake with
                counters :=
                  { s.intake.counters with malformedPackets := satAdd s.intake.counters.malformedPackets 1 } } })))
    ∧ (∀ (run : List Byte) (s : State), arrivalOf run = .control none →
        exec (.controlPacket run) s = .next (settleStall (raise .intakeError
          { s with
            intake :=
              { s.intake with
                counters :=
                  { s.intake.counters with controlCrcFailures := satAdd s.intake.counters.controlCrcFailures 1 } } })))
    ∧ ∀ (run p : List Byte) (s : State), arrivalOf run = .control (some p) → 1024 < p.length ∨ p.length < 4 →
        exec (.controlPacket run) s = .next (settleStall (raise .intakeError
          { s with
            intake :=
              { s.intake with
                counters :=
                  { s.intake.counters with malformedPackets := satAdd s.intake.counters.malformedPackets 1 } } }))

/-! ## Intake Port -/

/-- R6, R7, R9: a line in order, in TAKING or in DRAINING with its number at or below the target (R10), takes the next
line number: it is brought to the width of the plan, counted and staged, and the expected sequence number moves on. R66:
with four entries staged it overwrites the newest of them; lines taken stays, the overwritten line is counted missing
and the staging-overruns counter rises. R8: a good packet with no complete pixel is a missing line. R7, R18, R81: the
record of the line, its number, edge and perforation samples or the mark "missing", without a break, is handed to the
Frame Tracker, and the assignment is reported to the Conformance Engine. The whole next state is given; nothing outside
the line path changes. -/
def Obligations.LineInOrder : Prop :=
  ∀ (s : State) (p : MemoryPlan) (sequence perf : Half) (edge : Int) (px : List Pixel),
    numbersLeft s.intake 0 → s.frameMemory.plan = some p → px.length ≤ 8190 →
    s.intake.expected = none ∨ s.intake.expected = some sequence → s.intake.staging.length ≤ 4 →
    (s.intake.staging.length = 4 → s.intake.counters.linesTaken < counterMax) →
    let taken := packetTaken p sequence px s
    ∃ t, exec (.linePacket (lineRun sequence perf edge px)) s = .next t
      ∧ t = settleStall (reportChange (trackLine (packetRecord perf edge px false s) taken))
      ∧ t.intake = taken.intake ∧ t.frameMemory = taken.frameMemory ∧ outsideLinePath s t

/-- R6, R7 (Table 2-4): the end of a gap of 1 to 4095, a duplicate and a sequence break, in TAKING or in DRAINING: the
line numbers consumed, the counters, the INTAKE_ERROR occurrence of a gap and of a break, and the expected number; a
gap's or a break's own packet then does what a line in order does (LineInOrder), whatever its width and with staging
full. R7, R18: the Tracker receives a missing-line record for each member of a gap in ascending order, then the packet's
own; a break's own record carries the break mark. R10: a gap that the drain target cuts short consumes the numbers up to
the target, and the drain ends there; it counts once and raises INTAKE_ERROR, and the expected number stays (the model's
reading, LE 15). R8, R166: a LINE packet that fails its CRC, or whose payload is below 8 bytes, is a missing line at the
next number, recorded at the Tracker, with an INTAKE_ERROR occurrence; the expected number moves on if there is one. -/
def Obligations.LineOutOfOrder : Prop :=
  (∀ (s : State) (e sequence perf : Half) (edge : Int) (px : List Pixel), s.intake.expected = some e → px.length ≤ 8190 →
    let n := (sequence - e).toNat
    let line := Instr.linePacket (lineRun sequence perf edge px)
    let gapStarted : State := raise .intakeError
      { s with
        intake :=
          { s.intake with
            silence := s.intake.silence.map (fun _ => 0),
            counters := { s.intake.counters with gaps := satAdd s.intake.counters.gaps 1 } } }
    let breakStarted : State := raise .intakeError
      { s with
        intake :=
          { s.intake with
            counters := { s.intake.counters with sequenceBreaks := satAdd s.intake.counters.sequenceBreaks 1 } } }
    let raised (t : State) : Prop := noticeOf t.notices .intakeError = occur (noticeOf s.notices .intakeError)
    (1 ≤ n → n ≤ 4095 → numbersLeft s.intake n →
      let members := missingTaken^[n] gapStarted
      ∃ t u, exec line s = .next t
        ∧ exec line { members with intake := { members.intake with expected := some sequence } } = .next t
        ∧ exec line
            { s with
              intake :=
                { s.intake with
                  expected := some sequence, writeLine := s.intake.writeLine + n,
                  counters :=
                    { s.intake.counters with
                      gaps := satAdd s.intake.counters.gaps 1, missingLines := satAdd s.intake.counters.missingLines n } } } =
            .next u
        ∧ t.intake = u.intake ∧ t.frameMemory = u.frameMemory ∧ raised t ∧ outsideLinePath s t)
    ∧ (4096 ≤ n → n ≤ 65534 → numbersLeft s.intake 0 →
        ∃ t u, exec line s = .next t
          ∧ exec line
              { s with
                intake :=
                  { s.intake with
                    expected := some sequence,
                    counters := { s.intake.counters with sequenceBreaks := satAdd s.intake.counters.sequenceBreaks 1 } } } =
              .next u
          ∧ t.intake = u.intake ∧ t.frameMemory = u.frameMemory ∧ raised t ∧ outsideLinePath s t
          ∧ ∀ p, s.frameMemory.plan = some p → s.intake.staging.length ≤ 4 →
              (s.intake.staging.length = 4 → s.intake.counters.linesTaken < counterMax) →
              t = settleStall (reportChange (trackLine (packetRecord perf edge px true s) (packetTaken p sequence px breakStarted))))
    ∧ (n = 65535 → s.intake.mode ≠ .closed →
        exec line s = .next (settleStall
          { s with
            intake :=
              { s.intake with
                silence := s.intake.silence.map (fun _ => 0),
                counters := { s.intake.counters with duplicates := satAdd s.intake.counters.duplicates 1 } } }))
    ∧ (∀ target, s.intake.mode = .draining → s.intake.drainTarget = some target → s.intake.writeLine ≤ target →
        target < s.intake.writeLine + n → n ≤ 4095 →
        let members := missingTaken^[target + 1 - s.intake.writeLine] gapStarted
        ∃ t, exec line s = .next t
          ∧ t = settleStall (formEffective
              { members with
                intake := { members.intake with mode := .closed, silence := none },
                pace := { members.pace with requested := 0 } })
          ∧ t.intake =
              { s.intake with
                mode := .closed, silence := none, writeLine := target + 1,
                counters :=
                  { s.intake.counters with
                    gaps := satAdd s.intake.counters.gaps 1,
                    missingLines := satAdd s.intake.counters.missingLines (target + 1 - s.intake.writeLine) } }
          ∧ t.pace.requested = 0 ∧ t.frameMemory = s.frameMemory ∧ raised t ∧ outsideLinePath s t))
    ∧ (∀ (s : State) (p : MemoryPlan) (e sequence perf : Half) (edge : Int) (px : List Pixel),
    numbersLeft s.intake (sequence - e).toNat ∨ 4096 ≤ (sequence - e).toNat ∧ numbersLeft s.intake 0 →
    s.frameMemory.plan = some p → px.length = p.wIn → 0 < p.wIn → p.wIn ≤ 8190 →
    s.intake.expected = some e → s.intake.staging.length < 4 →
    ∃ t, exec (.linePacket (lineRun sequence perf edge px)) s = .next t
      ∧ t.frameMemory = s.frameMemory ∧ outsideLinePath s t
      ∧ (1 ≤ (sequence - e).toNat ∧ (sequence - e).toNat ≤ 4095 →
          t.intake =
            { s.intake with
              expected := some (sequence + 1#16), writeLine := s.intake.writeLine + (sequence - e).toNat + 1,
              silence := s.intake.silence.map (fun _ => 0),
              staging := s.intake.staging ++ [⟨s.intake.writeLine + (sequence - e).toNat, px⟩],
              counters :=
                { s.intake.counters with
                  gaps := satAdd s.intake.counters.gaps 1,
                  missingLines := satAdd s.intake.counters.missingLines (sequence - e).toNat,
                  linesTaken := satAdd s.intake.counters.linesTaken 1 } })
      ∧ (4096 ≤ (sequence - e).toNat ∧ (sequence - e).toNat ≤ 65534 →
          t.intake =
            { s.intake with
              expected := some (sequence + 1#16), writeLine := s.intake.writeLine + 1,
              silence := s.intake.silence.map (fun _ => 0),
              staging := s.intake.staging ++ [⟨s.intake.writeLine, px⟩],
              counters :=
                { s.intake.counters with
                  sequenceBreaks := satAdd s.intake.counters.sequenceBreaks 1,
                  linesTaken := satAdd s.intake.counters.linesTaken 1 } }))
    ∧ (∀ (s : State) (run : List Byte), numbersLeft s.intake 0 →
    arrivalOf run = .line none ∨ (∃ payload, arrivalOf run = .line (some payload) ∧ payload.length < 8) →
    let taken : Intake :=
      { s.intake with
        expected := s.intake.expected.map (· + 1#16), writeLine := s.intake.writeLine + 1,
        silence := s.intake.silence.map (fun _ => 0),
        counters :=
          { s.intake.counters with
            lineCrcFailures := satAdd s.intake.counters.lineCrcFailures 1,
            missingLines := satAdd s.intake.counters.missingLines 1 } }
    ∃ t, exec (.linePacket run) s = .next t
      ∧ t = settleStall (reportChange
          (trackLine ⟨s.intake.writeLine, none, false⟩ (raise .intakeError { s with intake := taken })))
      ∧ t.intake = taken
      ∧ noticeOf t.notices .intakeError = occur (noticeOf s.notices .intakeError)
      ∧ t.frameMemory = s.frameMemory ∧ outsideLinePath s t)

/-- R10, R49: in DRAINING, a line packet whose number would exceed the drain target (in order, a failed line, a payload
below 8 bytes, the end of a gap, a sequence break) ends the drain: CLOSED, the silence timer stopped, the requested
level 0, and no number, counter or staged line. That such a failed line, gap or break is neither counted nor raised,
and that the expected number stays, is the model's reading of R10 (LE 15). -/
def Obligations.DrainEndsAtTarget : Prop :=
  ∀ (s : State) (target : Nat) (run payload : List Byte) (l : LinePayload),
    s.intake.mode = .draining → s.intake.drainTarget = some target → target < s.intake.writeLine →
    arrivalOf run = .line none ∨ (arrivalOf run = .line (some payload) ∧ payload.length < 8) ∨
      (arrivalOf run = .line (some payload) ∧ linePayloadOf payload = some l
        ∧ ∀ e, s.intake.expected = some e → (l.sequence - e).toNat ≠ 65535) →
    exec (.linePacket run) s = .next (settleStall (formEffective
      { s with
        intake := { s.intake with mode := .closed, silence := none },
        pace := { s.pace with requested := 0 } }))

/-! ## Power-on, credits, time base and transport -/

/-- R2, R12, R20, R44, R57, R58, R71, R79, R110, R132, R133, R159, R165: what POWER_ON_RESET leaves for each strap
setting, every block whole but for the memory's epoch, and MEMORY_INIT_COMPLETE. The epoch, which no rule speaks of and
which is not stated here, the fields `due` and `pulses` of the Pace Generator, and the values that no table gives are
the model's (LE 4, LE 10, LE 18, LE 22). -/
def Obligations.PowerOnAndInitialization : Prop :=
  (∀ (straps : BitVec 2) (s : State), ∃ t, exec (.powerOnReset straps) s = .next t
      ∧ t.pending = s.pending ∧ t.formats = Vector.replicate 8 none ∧ t.contexts = []
      ∧ t.intake =
          { mode := .closed, expected := none, writeLine := 0, endMark := none, drainTarget := none, silence := none,
            counters := ⟨0, 0, 0, 0, 0, 0, 0, 0, 0, 0⟩, staging := [] }
      ∧ t.tracker =
          { mode := .idle, fields := none, filter := ⟨.undefined, none⟩, edgeLog := [], candidates := [], window := none,
            pendingTop := none, suspect := none, spliceMark := none, nudge := none, countdown := none, qTop := none,
            lastCut := none, rephasing := false, spanIndex := none, lastAccepted := false, synthRun := 0, acceptRun := 0,
            history := [], shrink := 65536, lastH := 0, frameCounter := 0, counters := ⟨0, 0, 0, 0, 0, 0, 0, 0, 0⟩ }
      ∧ t.pace =
          { table := Vector.replicate 7 none, high := 80, low := 50, spinUpTimeout := 20, silenceTimeout := 5,
            stallTimeout := 100, requested := 0, ringCap := 7, faultLatch := false, effective := 0, counters := none,
            spinUp := none, trun := false, tenth := 0, due := ⟨false, false, none, false, false⟩, pulses := 0 }
      ∧ t.frameMemory.size = (match straps with
          | 0#2 => 536870912
          | 1#2 => 1073741824
          | 2#2 => 2147483648
          | _ => 4294967296)
      ∧ t.frameMemory.ready = false ∧ t.frameMemory.plan = none ∧ t.frameMemory.slots = [] ∧ t.frameMemory.fillLine = 0
      ∧ t.frameMemory.channel = none ∧ t.frameMemory.aging = ⟨0, 0, 0, 0⟩ ∧ t.frameMemory.grants = ⟨0, 0, 0, 0⟩
      ∧ t.frameMemory.dropped = 0 ∧ t.frameMemory.overruns = 0 ∧ t.frameMemory.bytes = []
      ∧ t.conformance = { mode := .idle, window := [], held := .initial, copy := none, readRequest := none }
      ∧ t.repair =
          { mode := .waiting, temporal := false, recordA := .empty, recordB := .empty, lastWritten := none, scratches := [],
            mask := [], columnCounters := [], scratchesTracked := 0, copy := none, readRequest := false,
            writeRequest := false }
      ∧ t.grading =
          { mode := .waiting,
            sets := Vector.replicate 4 { state := .empty, luts := Vector.replicate 6 [], matrix := none }, cues := [],
            spliceCues := [], current := none, dissolve := none, accumulators := ⟨0, 0, 0, 0⟩, counters := ⟨0, 0, 0⟩,
            raster := none }
      ∧ t.reel =
          { state := .noReel, sequence := 0#16, identity := none,
            record :=
              { framesDelivered := 0, framesIncomplete := 0, substitutedLines := 0, framesAborted := 0, sumS := 0,
                minS := none, maxS := none, temporal := 0, spatial := 0, scratchPixels := 0, unrepaired := 0, clipped := 0,
                pixelsDelivered := 0, sumMeanR := 0, sumMeanB := 0, framesLost := 0, perforationsSeen := 0,
                synthesized := 0, spurious := 0, irregular := 0, splices := 0, pitchSteps := 0, lockLosses := 0,
                unframedLines := 0, missingLines := 0, droppedLines := 0, scratchesTracked := 0 },
            lastMetrics := none, held := none, shelving := Vector.replicate 16 none, classes := Vector.replicate 5 none,
            tickets := [] }
      ∧ t.interpreter =
          { queue := [], inFlight := none, ordinary := Vector.replicate 8 .free, reserved := none, fillOrder := [],
            dropped := 0, unanswered := 0 }
      ∧ (∀ c : NoticeClass, noticeOf t.notices c = ⟨true, 0, .armed⟩)
      ∧ t.delivery = { pool := 0, excess := 0, badGrants := 0, queue := [], stall := none, transmission := none })
    ∧ ∀ s : State, exec .memoryInitComplete s =
        .next (settleStall { s with frameMemory := { s.frameMemory with ready := true } })

/-- R12: a grant of 1 to 64 credits is added to the pool, what would take it above 64 to the excess counter; a grant
with a failed check, or with a count of 0 or above 64, adds 1 to the bad-grants counter. -/
def Obligations.CreditsGranted : Prop :=
  (∀ (n : Byte) (s : State), 1 ≤ n.toNat → n.toNat ≤ 64 →
      exec (.creditGrant (grantRun n)) s = .next (settleStall
        { s with
          delivery :=
            { s.delivery with
              pool := if s.delivery.pool + n.toNat ≤ 64 then s.delivery.pool + n.toNat else 64,
              excess := satAdd s.delivery.excess (s.delivery.pool + n.toNat - 64) } }))
    ∧ ∀ (run : List Byte) (s : State),
        (run.length ≠ 4 ∨ halfAt run 2 ≠ crc16 (run.take 2) ∨ (byteAt run 0).toNat = 0 ∨ 64 < (byteAt run 0).toNat) →
        exec (.creditGrant run) s = .next (settleStall
          { s with delivery := { s.delivery with badGrants := satAdd s.delivery.badGrants 1 } })

/-- R46: a 1 ms tick samples TRUN; a sample that differs from the held level gives it the new value. R53: an assertion
stops the spin-up timer. R54, R55: a drop with the effective level at 1 or more is a transport fault: the latch set,
requested and effective level 0, the spin-up timer stopped, TRANSPORT_FAULT raised; at level 0, and in NO_REEL and
TICKET_WAIT, where the level stands at 0, a drop changes the held level only. No other command but POWER_ON_RESET
changes the held level. That a change is a step of its own, which takes the sample of the last tick, one change at most
for a tick, and is not enabled otherwise, is the model's choice (LE 1, LE 10), and so is the field that holds the
sample. -/
def Obligations.TrunEvents : Prop :=
  (∀ s : State, s.pace.due.sample = true → s.pace.trun = false →
    exec .trunAssertion s = .next (settleStall
      { s with pace := { s.pace with trun := true, spinUp := none, due := { s.pace.due with sample := false } } }))
    ∧ (∀ s : State, s.pace.due.sample = true → s.pace.trun = true →
    (1 ≤ s.pace.effective →
      exec .trunDrop s = .next (settleStall (raise .transportFault
        { s with
          pace :=
            { s.pace with
              trun := false, faultLatch := true, requested := 0, effective := 0, spinUp := none,
              due := { s.pace.due with sample := false } } })))
    ∧ (s.pace.effective = 0 ∨ ((s.reel.state = .noReel ∨ s.reel.state = .ticketWait) ∧ levelInv s) →
      exec .trunDrop s = .next (settleStall
        { s with pace := { s.pace with trun := false, due := { s.pace.due with sample := false } } })))
    ∧ (∀ s : State,
      (s.pace.due.sample = false ∨ s.pace.trun = true → exec .trunAssertion s = .next (settleStall s))
      ∧ (s.pace.due.sample = false ∨ s.pace.trun = false → exec .trunDrop s = .next (settleStall s)))
    ∧ (∀ s t : State, exec .timeBaseTick s = .next t → t.pace.due.sample = true ∧ t.pace.trun = s.pace.trun)
    ∧ ∀ (i : Instr) (s t : State), i ≠ .trunAssertion → i ≠ .trunDrop → i ≠ .timeBaseTick →
        (∀ straps, i ≠ .powerOnReset straps) → exec i s = .next t →
        t.pace.trun = s.pace.trun ∧ t.pace.due.sample = s.pace.due.sample

/-- R45: a 1 ms tick samples TRUN (R46) and adds 1 to the spin-up timer; every tenth is also a 10 ms tick, which reads the
occupancy for the ring cap while the reel is OPEN or CLOSING (R50) and adds 1 to the silence timer and the stall timer.
R53, R11, R15: the tick that brings a count to its timeout makes the timer due, and the expiry row then takes it: a
transport fault (R55); the end-of-lines mark at the write line and the end of the drain; a DELIVERY_STALL and the timer
at 0 again. A timer that is not due, or whose timeout a TIMING_SET has since put above its count (R56), does not
expire. That an expiry and a ring cap evaluation are steps of their own, taken before the next tick counts if no row has
taken them, is the model's choice (LE 10), and so is the field that holds what is due. -/
def Obligations.TimersAndTicks : Prop :=
  (∀ s : State, s.pace.tenth < 10 →
    s.pace.due.spinUp = false ∧ s.pace.due.ringCap = none ∧ s.pace.due.silence = false ∧ s.pace.due.stall = false →
    let spinUp := s.pace.spinUp.map (· + 1)
    let reached (timer : Option Nat) (timeout : Nat) : Bool := match timer with
      | some c => decide (timeout ≤ c)
      | none => false
    (s.pace.tenth ≠ 9 →
      exec .timeBaseTick s = .next (settleStall
        { s with
          pace :=
            { s.pace with
              tenth := s.pace.tenth + 1, spinUp := spinUp,
              due := ⟨true, reached spinUp (s.pace.spinUpTimeout * 100), none, false, false⟩ } }))
    ∧ (s.pace.tenth = 9 → stallInv s →
      let silence := s.intake.silence.map (· + 1)
      let stall := s.delivery.stall.map (· + 1)
      exec .timeBaseTick s = .next
        { s with
          pace :=
            { s.pace with
              tenth := 0, spinUp := spinUp,
              due :=
                { sample := true, spinUp := reached spinUp (s.pace.spinUpTimeout * 100),
                  ringCap := if s.reel.state = .opened ∨ s.reel.state = .closing then some (occupancy s) else none,
                  silence := reached silence (s.pace.silenceTimeout * 10), stall := reached stall s.pace.stallTimeout } },
          intake := { s.intake with silence := silence }, delivery := { s.delivery with stall := stall } }))
    ∧ ((∀ (s : State) (c : Nat), s.pace.spinUp = some c → s.pace.spinUpTimeout * 100 ≤ c → s.pace.due.spinUp = true →
      exec .spinUpExpiry s = .next (settleStall (raise .transportFault
        { s with pace := { s.pace with faultLatch := true, requested := 0, effective := 0, spinUp := none } })))
    ∧ (∀ (s : State) (c : Nat), s.intake.silence = some c → s.pace.silenceTimeout * 10 ≤ c → s.pace.due.silence = true →
        exec .silenceTimerExpiry s = .next (settleStall (reportChange (formEffective
          { s with
            intake := { s.intake with endMark := some s.intake.writeLine, mode := .closed, silence := none },
            pace := { s.pace with requested := 0 } }))))
    ∧ ∀ (s : State) (c : Nat), s.delivery.stall = some c → s.pace.stallTimeout ≤ c → s.pace.due.stall = true →
        exec .stallTimerExpiry s = .next (settleStall (raise .deliveryStall
          { s with delivery := { s.delivery with stall := some 0 } })))
    ∧ (∀ s : State,
      ((s.pace.due.spinUp = false ∨ ∀ c, s.pace.spinUp = some c → c < s.pace.spinUpTimeout * 100) →
        exec .spinUpExpiry s = .next (settleStall s))
      ∧ ((s.pace.due.silence = false ∨ ∀ c, s.intake.silence = some c → c < s.pace.silenceTimeout * 10) →
          exec .silenceTimerExpiry s = .next (settleStall s))
      ∧ ((s.pace.due.stall = false ∨ ∀ c, s.delivery.stall = some c → c < s.pace.stallTimeout) →
          exec .stallTimerExpiry s = .next (settleStall s)))
    ∧ ∀ s : State, ∃ a b c d t, exec .spinUpExpiry s = .next a ∧ exec .ringCapEvaluation a = .next b
        ∧ exec .silenceTimerExpiry b = .next c ∧ exec .stallTimerExpiry c = .next d ∧ exec .timeBaseTick s = .next t
        ∧ exec .timeBaseTick { d with pace := { d.pace with due := ⟨false, false, none, false, false⟩ } } = .next t

/-- R50 (Table 4-2): the new ring cap by the first row that holds, from the occupancy that the 10 ms tick read, and the
effective level formed anew; in NO_REEL and TICKET_WAIT the cap keeps its value. That the row takes the reading of the
last tick, once, and is not enabled without one, is the model's choice (LE 1, LE 10); no command but the tick gives a
reading. R52: a divider underflow of RUNNING counters emits one pulse and reloads them
with the P and Q that the table then gives the standing effective level, or stops them when it is 0 (or, in states no run
reaches, when the table leaves it unset: the model's choice, LE 31); no other command but POWER_ON_RESET changes what
RUNNING counters hold. The pulse count is the model's view of the pin (LE 18).
An underflow while the counters are STOPPED is no event of the part: that such a step leaves the state is the model's
choice (LE 1). R43, R62, R63: the earliest needed line E_t by the Tracker's state; the protect boundary, the lesser of E_t
and the top line of the oldest context neither finished nor marked ABORTED, or E_t where there is none; the occupancy, the
fill line less the boundary, or 0. That they are read as they stand, not at a report, is the model's reading (LE 17). -/
def Obligations.RingCapAndUnderflow : Prop :=
  (∀ s : State,
    isEarliestNeeded s (earliestNeeded s.tracker s.intake.writeLine)
      ∧ (∀ before c after, s.contexts = before ++ c :: after → c.finished = false → c.aborted = false →
          (∀ x ∈ before, x.finished = true ∨ x.aborted = true) →
          protectBoundary s = min (earliestNeeded s.tracker s.intake.writeLine) (c.top / 16))
      ∧ ((∀ x ∈ s.contexts, x.finished = true ∨ x.aborted = true) →
          protectBoundary s = earliestNeeded s.tracker s.intake.writeLine)
      ∧ (protectBoundary s ≤ s.frameMemory.fillLine → occupancy s + protectBoundary s = s.frameMemory.fillLine)
      ∧ (s.frameMemory.fillLine ≤ protectBoundary s → occupancy s = 0))
    ∧ ((∀ (s : State) (p : MemoryPlan) (read : Nat), s.reel.state = .opened ∨ s.reel.state = .closing →
      s.frameMemory.plan = some p → s.pace.due.ringCap = some read →
      exec .ringCapEvaluation s = .next (settleStall (formEffective
        { s with
          pace :=
            { s.pace with
              ringCap :=
                if p.r - 1 ≤ read then 0
                else if p.r * s.pace.high / 100 ≤ read then (if s.pace.ringCap ≤ 1 then 1 else s.pace.ringCap - 1)
                else if read ≤ p.r * s.pace.low / 100 then (if 7 ≤ s.pace.ringCap then 7 else s.pace.ringCap + 1)
                else s.pace.ringCap,
              due := { s.pace.due with ringCap := none } } })))
    ∧ (∀ s : State, s.reel.state = .noReel ∨ s.reel.state = .ticketWait ∨ s.pace.due.ringCap = none →
        exec .ringCapEvaluation s = .next (settleStall s))
    ∧ ∀ (i : Instr) (s t : State), s.pace.due.ringCap = none → i ≠ .timeBaseTick → exec i s = .next t →
        t.pace.due.ringCap = none)
    ∧ (∀ s : State,
    (∀ l, s.pace.counters = some l →
      exec .dividerUnderflow s = .next (settleStall
        { s with
          pace :=
            { s.pace with
              pulses := s.pace.pulses + 1,
              counters := loadedWith s.pace s.pace.effective } }))
    ∧ (s.pace.counters = none → exec .dividerUnderflow s = .next (settleStall s)))
    ∧ ∀ (i : Instr) (s t : State) (l : LoadedLevel), s.pace.counters = some l → i ≠ .dividerUnderflow →
        (∀ straps, i ≠ .powerOnReset straps) → exec i s = .next t → t.pace.counters = some l

/-! ## Memory channel -/

/-- R65, R67: a requester is chosen whenever one presents a request: the staging buffer for its head entry when that is
not being transferred already (a stale transfer does not count: LE 28), the Conformance Engine for a line, the Repair
Engine for a read or a write. R68, R64: with the channel free, the requester chosen is the highest-priority presented
one whose aging count is 8, else the highest-priority presented one; its count becomes 0, the others presented age, and
its grant is carried out. R64, R61: the grant of an intake write for line N: written when N - P is below R (slot N mod R
EMPTY, the fill line at least N + 1, the transfer begun at the slot's address), else dropped and counted, with
RING_OVERFLOW; a line written takes no slot whose line, R or more below it, stands at or above the protect boundary.
R82, R91, R92, R60: the grants of a conformance read, of a reference read from the buffer last written and of a
reference write to the fill buffer withdraw the request and begin the transfer at the address of R60. -/
def Obligations.IntakeWriteGranted : Prop :=
  ((∀ (s : State) (p : MemoryPlan) (g : Requester), s.frameMemory.channel = none → s.frameMemory.plan = some p →
      chooseRequester s = some g →
      ∃ t, exec .arbiterGrant s = .next (settleStall (grant p g t))
        ∧ (∃ a, t = { s with
            frameMemory :=
              { s.frameMemory with
                aging := a, grants := setCount s.frameMemory.grants g (satAdd (countOf s.frameMemory.grants g) 1) } })
        ∧ ∀ r, countOf t.frameMemory.aging r =
            if r = g then 0
            else if presented s r = true then min (countOf s.frameMemory.aging r + 1) 8
            else countOf s.frameMemory.aging r)
    ∧ (∀ s : State,
        (chooseRequester s = none ↔ ∀ r, presented s r = false)
        ∧ (presented s .intakeWrite = true ↔
            s.frameMemory.plan ≠ none ∧ ∃ e rest, s.intake.staging = e :: rest
              ∧ ∀ slot a px, s.frameMemory.channel ≠ some (.intakeWrite e.number slot a px false))
        ∧ (presented s .conformanceRead = true ↔ ∃ l, s.conformance.readRequest = some l)
        ∧ (presented s .referenceRead = true ↔ s.repair.readRequest = true)
        ∧ (presented s .referenceWrite = true ↔ s.repair.writeRequest = true))
    ∧ ∀ (s : State) (g : Requester), chooseRequester s = some g →
        presented s g = true
          ∧ (countOf s.frameMemory.aging g = 8 ∨ ∀ r, presented s r = true → countOf s.frameMemory.aging r ≠ 8)
          ∧ ∀ r, presented s r = true → (countOf s.frameMemory.aging g = 8 → countOf s.frameMemory.aging r = 8) →
              requesters.idxOf g ≤ requesters.idxOf r)
    ∧ ((∀ (s : State) (p : MemoryPlan) (e : SourceLine) (rest : List SourceLine), s.intake.staging = e :: rest →
      (e.number < protectBoundary s + p.r →
        grant p .intakeWrite s =
          { s with
            frameMemory :=
              { s.frameMemory with
                slots := s.frameMemory.slots.filter (fun x => x.1 != e.number % p.r),
                fillLine := max s.frameMemory.fillLine (e.number + 1),
                channel := some (.intakeWrite e.number (e.number % p.r) (p.ringBase + e.number % p.r * p.wIn * 8) e.pixels
                  false) } })
      ∧ (protectBoundary s + p.r ≤ e.number →
        grant p .intakeWrite s = reportChange (raise .ringOverflow
          { s with
            intake := { s.intake with staging := rest },
            frameMemory := { s.frameMemory with dropped := satAdd s.frameMemory.dropped 1 } })))
    ∧ ∀ (s : State) (p : MemoryPlan) (n l : Nat), n < protectBoundary s + p.r → l % p.r = n % p.r → l < n →
        l < protectBoundary s)
    ∧ (∀ (s : State) (p : MemoryPlan) (l : Nat), s.conformance.readRequest = some l →
        grant p .conformanceRead s =
          { s with
            conformance := { s.conformance with readRequest := none },
            frameMemory :=
              { s.frameMemory with
                channel := some (.conformanceRead l (p.ringBase + l % p.r * p.wIn * 8) p.wIn false) } })
    ∧ (∀ (s : State) (p : MemoryPlan) (hand : RepairHand) (last : Buffer) (copy : RepairCopy), s.repair.mode = .fetching hand →
        s.repair.lastWritten = some last → s.repair.copy = some copy →
        grant p .referenceRead s =
          { s with
            repair := { s.repair with readRequest := false },
            frameMemory :=
              { s.frameMemory with
                channel := some (.referenceRead ((if last = .a then p.baseA else p.baseB) + 4096 * hand.line.j * 8) copy.wOut
                  false) } })
    ∧ ∀ (s : State) (p : MemoryPlan) (hand : RepairedHand), s.repair.mode = .passing hand →
        grant p .referenceWrite s =
          { s with
            repair := { s.repair with writeRequest := false },
            frameMemory :=
              { s.frameMemory with
                channel := some (.referenceWrite
                  ((if s.repair.lastWritten = some .a then p.baseB else p.baseA) + 4096 * hand.j * 8) hand.records false) } }

/-- R60, R61, R65: the completion of an intake write stores the line's pixels at the transfer's address, least
significant byte first (LE 5), and leaves every other byte; a fresh one makes its slot VALID with tag N and frees its
staging entry, and the change is reported to the Conformance Engine, which asks again about its PENDING lines (R81); a
stale one changes no slot and nothing else. R58, R59: a completion of any of the four kinds whose bytes do not all lie
below the strapped size is the model's fault (LE 5); no byte is stored or read. -/
def Obligations.IntakeWriteCompletes : Prop :=
  (∀ (s : State) (line slot address : Nat) (px : List Pixel) (stale : Bool),
    s.frameMemory.channel = some (.intakeWrite line slot address px stale) → address + 8 * px.length ≤ s.frameMemory.size →
    ∃ t u, exec .intakeWriteComplete s = .next t
      ∧ u =
          { s with
            intake := t.intake,
            frameMemory :=
              { s.frameMemory with bytes := t.frameMemory.bytes, slots := t.frameMemory.slots, channel := none } }
      ∧ t = settleStall (if stale = true then u else reportChange u)
      ∧ (∀ a, a < address ∨ address + 8 * px.length ≤ a → readByte t.frameMemory a = readByte s.frameMemory a)
      ∧ readPixels t.frameMemory address px.length = px
      ∧ (stale = true → t.frameMemory.slots = s.frameMemory.slots ∧ t.intake = s.intake)
      ∧ (stale = false →
          (∀ k, tableGet t.frameMemory.slots k = if k = slot then some line else tableGet s.frameMemory.slots k)
          ∧ t.intake =
              { s.intake with
                staging := if (s.intake.staging.head?.map (·.number)) = some line then s.intake.staging.tail
                  else s.intake.staging })
      ∧ t.tracker = s.tracker ∧ outsideLinePath s t)
    ∧ ∀ (s : State) (x : Transfer) (i : Instr) (address n : Nat), s.frameMemory.channel = some x →
      ((∃ line slot px stale, x = .intakeWrite line slot address px stale ∧ n = px.length ∧ i = .intakeWriteComplete)
        ∨ (∃ line discard, x = .conformanceRead line address n discard ∧ i = .conformanceReadComplete)
        ∨ (∃ discard, x = .referenceRead address n discard ∧ i = .referenceReadComplete)
        ∨ ∃ records unreported, x = .referenceWrite address records unreported ∧ n = records.length
            ∧ i = .referenceWriteComplete) →
      s.frameMemory.size < address + 8 * n → exec i s = .fault (.addressBeyondMemory address)

/-! ## Configuration commands -/

/-- R72: FORMAT_SET: the first refusal that applies, in the rule's order; accepted, every field of the entry named is
replaced. -/
def Obligations.FormatSetAnswers : Prop :=
  ∀ (s : State) (a : FormatSetArgs),
    ∀ f, formatOf a = some f →
        (8 ≤ a.number.toNat → refusedWith (.formatSet a) s .badArg)
        ∧ ∀ n : Fin 8, a.number.toNat = n.val →
            (s.reel.state ≠ .noReel ∧ s.reel.identity.map (·.format) = some n → refusedWith (.formatSet a) s .badState)
            ∧ (s.reel.state = .noReel ∨ s.reel.identity.map (·.format) ≠ some n →
                (¬(trackingRanges f.tracking ∧ pathRanges f.conformance f.repair) → refusedWith (.formatSet a) s .badArg)
                ∧ (trackingRanges f.tracking ∧ pathRanges f.conformance f.repair →
                    ((∃ p, s.frameMemory.plan = some p ∧ ¬geometryHolds f.conformance p) →
                      refusedWith (.formatSet a) s .badArg)
                    ∧ ((∀ p, s.frameMemory.plan = some p → geometryHolds f.conformance p) →
                        answersWith (.formatSet a) s .ok [] { s with formats := s.formats.set n (some f) })))

/-- R59, R61, R65: MEMORY_PLAN: the first refusal that applies, with the lowest misfitting format named; accepted, the
five fields are replaced, every slot is EMPTY, staging is emptied with its request withdrawn, an intake write in
flight is stale. That the memory's contents are then undefined is R70's; the epoch is the model's (LE 4), and so is that
the reply carries the size in two words at every strap setting (LE 8). -/
def Obligations.MemoryPlanAnswers : Prop :=
  ∀ (s : State) (a : MemoryPlanArgs),
    (s.frameMemory.ready = false → refusedWith (.memoryPlan a) s .notReady)
    ∧ (s.frameMemory.ready = true →
        (s.reel.state ≠ .noReel → refusedWith (.memoryPlan a) s .badState)
        ∧ (s.reel.state = .noReel →
            (¬planRanges s.frameMemory.size (planOf a) → refusedWith (.memoryPlan a) s .badArg)
            ∧ (planRanges s.frameMemory.size (planOf a) →
                ((∃ b, inTwoWindows (planOf a) b) → refusedWith (.memoryPlan a) s .overlap)
                ∧ ((∀ b, ¬inTwoWindows (planOf a) b) →
                    (∀ n : Fin 8, (∃ f, s.formats[n] = some f ∧ ¬geometryHolds f.conformance (planOf a)) →
                      (∀ m : Fin 8, m < n → ∀ f, s.formats[m] = some f → geometryHolds f.conformance (planOf a)) →
                      answersWith (.memoryPlan a) s .badArg [word n.val] s)
                    ∧ ((∀ (n : Fin 8) (f : Format), s.formats[n] = some f → geometryHolds f.conformance (planOf a)) →
                        answersWith (.memoryPlan a) s .ok
                          [word s.frameMemory.size, word (s.frameMemory.size / 4294967296),
                            word (a.r.toNat * a.wIn.toNat * 8), word 134217728]
                          { s with
                            intake := { s.intake with staging := [] },
                            frameMemory :=
                              { s.frameMemory with
                                plan := some (planOf a), slots := [], channel := staleTransfer s.frameMemory.channel,
                                aging := if presented s .intakeWrite then { s.frameMemory.aging with intakeWrite := 0 }
                                  else s.frameMemory.aging,
                                bytes := [], epoch := s.frameMemory.epoch + 1 } })))))

/-- R47: PACE_TABLE_SET: the refusals; accepted, the seven entries and the watermarks are replaced and the requested
level becomes 0, with ADJUSTED, when the new table leaves it unset; counters that still run keep the level, P and Q they
hold (R52). R48: PACE_REQUEST: the fault latch is cleared
whatever the reply; a level above 7 is clamped, an unset level refused, level 0 or a set level taken, and the
effective level is formed anew. That a refusal carries the requested level too is the model's reading (LE 24). R56:
TIMING_SET: 0 leaves a timeout, a value above its range is clamped and makes the reply ADJUSTED; the data carries the
three timeouts, and no timer's count changes. That the data gives them in the units of R56 (100, 100 and 10 ms) and not
in the milliseconds of Table 4-3 is the model's choice (LE 32). -/
def Obligations.PaceCommandsAnswer : Prop :=
  (∀ (s : State) (a : PaceTableArgs) (t : Vector (Option PaceLevel) 7), paceLevelsOf a = some t →
    (s.reel.state ≠ .noReel → refusedWith (.paceTableSet a) s .badState)
    ∧ (s.reel.state = .noReel →
        let fits :=
          (∀ (i : Fin 7) (l : PaceLevel), t[i] = some l → l.p ≤ 255 ∧ 1 ≤ l.q ∧ l.q ≤ 65535)
            ∧ 50 ≤ a.high.toNat ∧ a.high.toNat ≤ 95 ∧ 10 ≤ a.low.toNat ∧ a.low.toNat + 10 ≤ a.high.toNat
            ∧ ∀ (i j : Fin 7) (x y : PaceLevel), i < j → t[i] = some x → t[j] = some y →
                (y.p + 1) * (y.q + 1) ≤ (x.p + 1) * (x.q + 1)
        let p := { s.pace with table := t, high := a.high.toNat, low := a.low.toNat }
        let standing := s.pace.requested = 0 ∨ ∃ (i : Fin 7) (l : PaceLevel), s.pace.requested = i.val + 1 ∧ t[i] = some l
        (¬fits → refusedWith (.paceTableSet a) s .badArg)
        ∧ (fits ∧ standing →
            answersWith (.paceTableSet a) s .ok [word s.pace.requested]
              { s with pace := { p with effective := 0, spinUp := none } })
        ∧ (fits ∧ ¬standing →
            answersWith (.paceTableSet a) s .adjusted [0#32]
              { s with pace := { p with requested := 0, effective := 0, spinUp := none } })))
    ∧ (∀ (s : State) (level : Word),
    let taken (n : Nat) := formEffective { s with pace := { s.pace with faultLatch := false, requested := n } }
    (level = 0#32 → answersWith (.paceRequest level) s .ok [0#32] (taken 0))
    ∧ (∀ (i : Fin 7) (l : PaceLevel), level.toNat = i.val + 1 → s.pace.table[i] = some l →
        answersWith (.paceRequest level) s .ok [level] (taken level.toNat))
    ∧ (∀ i : Fin 7, level.toNat = i.val + 1 → s.pace.table[i] = none →
        answersWith (.paceRequest level) s .badState [word s.pace.requested] (taken s.pace.requested))
    ∧ (7 < level.toNat → level.toNat ≤ 255 → s.pace.table[6] ≠ none →
        answersWith (.paceRequest level) s .adjusted [7#32] (taken 7))
    ∧ (7 < level.toNat → level.toNat ≤ 255 → s.pace.table[6] = none →
        answersWith (.paceRequest level) s .badState [word s.pace.requested] (taken s.pace.requested))
    ∧ (255 < level.toNat → refusedWith (.paceRequest level) s .badArg))
    ∧ (∀ (s : State) (spinUp silence stall : Word) (a b c : Nat),
    a = (if spinUp = 0#32 then s.pace.spinUpTimeout else if 50 < spinUp.toNat then 50 else spinUp.toNat) →
    b = (if silence = 0#32 then s.pace.silenceTimeout else if 50 < silence.toNat then 50 else silence.toNat) →
    c = (if stall = 0#32 then s.pace.stallTimeout else if 255 < stall.toNat then 255 else stall.toNat) →
    answersWith (.timingSet spinUp silence stall) s
      (if 50 < spinUp.toNat ∨ 50 < silence.toNat ∨ 255 < stall.toNat then .adjusted else .ok) [word a, word b, word c]
      { s with pace := { s.pace with spinUpTimeout := a, silenceTimeout := b, stallTimeout := c } })

/-- R41: FRAMING_NUDGE: BAD_STATE before any REEL_OPEN, where the Tracker is IDLE and has copied no format (without a
copy it is refused in every state: LE 31); BAD_STATE with K = 1, in IDLE or SEARCH, or with a nudge pending; then
BAD_ARG outside 1 to K - 1; else the nudge is pending and d is added to the top countdown at once. -/
def Obligations.FramingNudgeAnswers : Prop :=
  (∀ (s : State) (d : Word), s.tracker.fields = none → refusedWith (.framingNudge d) s .badState)
    ∧ ∀ (s : State) (d : Word) (f : TrackingFields), s.tracker.fields = some f →
    (f.k = 1 ∨ s.tracker.mode = .idle ∨ s.tracker.mode = .search ∨ s.tracker.nudge ≠ none →
      refusedWith (.framingNudge d) s .badState)
    ∧ (f.k ≠ 1 → s.tracker.mode = .locked ∨ s.tracker.mode = .coasting → s.tracker.nudge = none →
        (d = 0#32 ∨ f.k ≤ d.toNat → refusedWith (.framingNudge d) s .badArg)
        ∧ (1 ≤ d.toNat → d.toNat < f.k →
            answersWith (.framingNudge d) s .ok []
              { s with
                tracker :=
                  { s.tracker with nudge := some d.toNat, countdown := s.tracker.countdown.map (· + d.toNat) } }))

/-! ## Grading commands -/

/-- R113, R112: LUT_LOAD: the refusals in order; accepted, N entries of the LUT are written, a short list being filled
with its last entry, entries beyond 4095 discarded; every other entry, LUT and the matrix stay, the set is LOADING,
and the reply carries N and the eight chunk flags of the LUT as they then stand. -/
def Obligations.LutLoadAnswers : Prop :=
  ∀ (s : State) (set lut first count : Word) (data : List Half),
    let asked := if count = 0#32 then 512 else count.toNat
    let bad := 4 ≤ set.toNat ∨ 6 ≤ lut.toNat ∨ 4096 ≤ first.toNat ∨ 512 < count.toNat ∨ data = [] ∨ asked < data.length
    let n := min asked (4096 - first.toNat)
    (bad → refusedWith (.lutLoad set lut first count data) s .badArg)
    ∧ ∀ (i : Fin 4) (l : Fin 6), ¬bad → set.toNat = i.val → lut.toNat = l.val →
        (s.grading.sets[i].state = .inUse → refusedWith (.lutLoad set lut first count data) s .setBusy)
        ∧ (s.grading.sets[i].state ≠ .inUse →
            ∃ x : GradeSet,
              answersWith (.lutLoad set lut first count data) s (if n < asked then .adjusted else .ok)
                [word n, word (chunkFlags x.luts[l])] { s with grading := { s.grading with sets := s.grading.sets.set i x } }
              ∧ x.state = .loading ∧ x.matrix = s.grading.sets[i].matrix
              ∧ (∀ m : Fin 6, m ≠ l → x.luts[m] = s.grading.sets[i].luts[m])
              ∧ (∀ k, k < first.toNat ∨ first.toNat + n ≤ k → tableGet x.luts[l] k = tableGet s.grading.sets[i].luts[l] k)
              ∧ ∀ k, k < n → tableGet x.luts[l] (first.toNat + k) = some (data.getD k (data.getLastD 0#16)))

/-- R114: MATRIX_LOAD: BAD_ARG for a set outside 0 to 3, SET_BUSY for a set IN_USE; else all twelve values are
replaced together, the matrix mark is set, and the set is LOADING. R115: SET_CLEAR: BAD_ARG for a set outside 0 to 3,
SET_BUSY for a set IN_USE; else no entry is written, the matrix is clear and the set is EMPTY. The cues are untouched.
-/
def Obligations.MatrixAndClearAnswer : Prop :=
  (∀ (s : State) (a : MatrixLoadArgs) (m : Matrix), matrixOf a = some m →
    (4 ≤ a.set.toNat → refusedWith (.matrixLoad a) s .badArg)
    ∧ ∀ i : Fin 4, a.set.toNat = i.val →
        (s.grading.sets[i].state = .inUse → refusedWith (.matrixLoad a) s .setBusy)
        ∧ (s.grading.sets[i].state ≠ .inUse →
            answersWith (.matrixLoad a) s .ok []
              { s with
                grading :=
                  { s.grading with
                    sets := s.grading.sets.set i { s.grading.sets[i] with matrix := some m, state := .loading } } }))
    ∧ (∀ (s : State) (set : Word),
    (4 ≤ set.toNat → refusedWith (.setClear set) s .badArg)
    ∧ ∀ i : Fin 4, set.toNat = i.val →
        (s.grading.sets[i].state = .inUse → refusedWith (.setClear set) s .setBusy)
        ∧ (s.grading.sets[i].state ≠ .inUse →
            answersWith (.setClear set) s .ok []
              { s with
                grading :=
                  { s.grading with sets := s.grading.sets.set i ⟨.empty, Vector.replicate 6 [], none⟩ } }))

/-- R116: SET_COMMIT by the set's state: a LOADING set of complete coverage becomes READY; incomplete or EMPTY,
INCOMPLETE_SET lists the seven words of what is missing; READY and IN_USE are unchanged. The code of the state in an
OK reply is free (LE 7). R112: a chunk flag is set exactly when all 512 entries of the chunk are written, in a LUT
whose entries stand in rising number below 4096. -/
def Obligations.SetCommitAnswers : Prop :=
  (∀ (s : State) (set : Word),
    (4 ≤ set.toNat → refusedWith (.setCommit set) s .badArg)
    ∧ ∀ i : Fin 4, set.toNat = i.val →
        let x := s.grading.sets[i]
        let complete := (∀ l : Fin 6, chunkFlags x.luts[l] = 255) ∧ x.matrix ≠ none
        (x.state = .loading → complete →
          answersWith (.setCommit set) s .ok [Config.stateCode .setReady]
            { s with grading := { s.grading with sets := s.grading.sets.set i { x with state := .ready } } })
        ∧ (x.state = .loading ∧ ¬complete ∨ x.state = .empty →
            answersWith (.setCommit set) s .incompleteSet
              [word (255 - chunkFlags x.luts[0]), word (255 - chunkFlags x.luts[1]), word (255 - chunkFlags x.luts[2]),
                word (255 - chunkFlags x.luts[3]), word (255 - chunkFlags x.luts[4]), word (255 - chunkFlags x.luts[5]),
                if x.matrix = none then 1#32 else 0#32] s)
        ∧ (x.state = .ready → answersWith (.setCommit set) s .ok [Config.stateCode .setReady] s)
        ∧ (x.state = .inUse → answersWith (.setCommit set) s .ok [Config.stateCode .setInUse] s))
    ∧ (∀ (lut : List (Nat × Half)) (c : Nat), keysRise lut → (∀ e ∈ lut, e.1 < 4096) →
    ((chunkFlags lut).testBit c = true ↔ c < 8 ∧ ∀ k, 512 * c ≤ k → k < 512 * c + 512 → tableGet lut k ≠ none))

/-- R122: CUE_ADD: the refusals in order; a FRAME cue is inserted at the place of its trigger frame, a SPLICE cue
joins the tail. R123: CUE_CLEAR empties the collections that its selector names and answers the numbers removed; a
running dissolve stays. -/
def Obligations.CueCommandsAnswer : Prop :=
  (∀ (s : State) (kind set d trigger : Word),
    (2 ≤ kind.toNat ∨ 4 ≤ set.toNat ∨ 64 < d.toNat → refusedWith (.cueAdd kind set d trigger) s .badArg)
    ∧ ∀ i : Fin 4, kind.toNat < 2 → set.toNat = i.val → d.toNat ≤ 64 →
        (s.reel.state = .noReel ∨ s.reel.state = .ticketWait → refusedWith (.cueAdd kind set d trigger) s .badState)
        ∧ (s.reel.state = .opened ∨ s.reel.state = .closing →
            (kind = 0#32 →
              ((∃ c ∈ s.grading.cues, c.trigger = trigger.toNat) → refusedWith (.cueAdd kind set d trigger) s .duplicate)
              ∧ ((∀ c ∈ s.grading.cues, c.trigger ≠ trigger.toNat) →
                  (64 ≤ s.grading.cues.length → refusedWith (.cueAdd kind set d trigger) s .tableFull)
                  ∧ (s.grading.cues.length < 64 →
                      answersWith (.cueAdd kind set d trigger) s .ok []
                        { s with
                          grading :=
                            { s.grading with
                              cues := s.grading.cues.filter (fun c => c.trigger < trigger.toNat)
                                ++ ⟨trigger.toNat, i, d.toNat⟩ :: s.grading.cues.filter (fun c => trigger.toNat < c.trigger) } })))
            ∧ (kind = 1#32 →
              (16 ≤ s.grading.spliceCues.length → refusedWith (.cueAdd kind set d trigger) s .tableFull)
              ∧ (s.grading.spliceCues.length < 16 →
                  answersWith (.cueAdd kind set d trigger) s .ok []
                    { s with
                      grading := { s.grading with spliceCues := s.grading.spliceCues ++ [⟨i, d.toNat⟩] } }))))
    ∧ (∀ s : State,
    answersWith (.cueClear 0#32) s .ok [word s.grading.cues.length, 0#32] { s with grading := { s.grading with cues := [] } }
    ∧ answersWith (.cueClear 1#32) s .ok [0#32, word s.grading.spliceCues.length]
        { s with grading := { s.grading with spliceCues := [] } }
    ∧ answersWith (.cueClear 2#32) s .ok [word s.grading.cues.length, word s.grading.spliceCues.length]
        { s with grading := { s.grading with cues := [], spliceCues := [] } }
    ∧ ∀ w : Word, 3 ≤ w.toNat → refusedWith (.cueClear w) s .badArg)

/-! ## Scratch commands -/

/-- R107: SCRATCH_LOAD: the refusals in order; accepted, the LEARNED entries that share a column with the list leave,
the others stay, and one LOADED entry stands for each scratch of the list, each in the lowest slot free at its turn; the
reply carries the slots. The table is one that CollectionsStayBounded says every step keeps (R100). R108: SCRATCH_CLEAR removes the entries of the origin its selector names, or all, and answers how many;
another selector is BAD_ARG. -/
def Obligations.ScratchCommandsAnswer : Prop :=
  (∀ (s : State) (items : List Word) (xs : List ScratchSpan) (stays : ScratchEntry → Bool), scratchSpansOf items = some xs →
    let meets (x : ScratchSpan) (l w : Nat) := ∃ c, x.left ≤ c ∧ c < x.left + x.width ∧ l ≤ c ∧ c < l + w
    let bad := xs = [] ∨ 32 < xs.length ∨ (∃ x ∈ xs, x.width < 1 ∨ 16 < x.width ∨ 4096 < x.left + x.width)
      ∨ ¬xs.Pairwise (fun a b => ¬meets a b.left b.width)
    let kept := s.repair.scratches.filter stays
    (bad → refusedWith (.scratchLoad items) s .badArg)
    ∧ (¬bad → scratchesInv s → (∀ e ∈ s.repair.scratches, stays e = true ↔ ∀ x ∈ xs, ¬meets x e.left e.width) →
        ((∃ e ∈ s.repair.scratches, e.origin = .loaded ∧ ∃ x ∈ xs, meets x e.left e.width) →
          refusedWith (.scratchLoad items) s .overlap)
        ∧ ((∀ e ∈ s.repair.scratches, e.origin = .loaded → ∀ x ∈ xs, ¬meets x e.left e.width) →
            (32 < kept.length + xs.length → refusedWith (.scratchLoad items) s .tableFull)
            ∧ (kept.length + xs.length ≤ 32 →
                ∃ (table : List ScratchEntry) (slots : List Nat),
                  answersWith (.scratchLoad items) s .ok (word slots.length :: slots.map word)
                    { s with repair := { s.repair with scratches := table } }
                  ∧ slots.length = xs.length
                  ∧ table.Perm (kept ++ List.zipWith (fun slot x => ⟨slot, x.left, x.width, .loaded, 0, 0, 0⟩) slots xs)
                  ∧ ∀ k (h : k < slots.length),
                      slots[k] ∉ kept.map (·.slot) ++ slots.take k
                        ∧ ∀ m < slots[k], m ∈ kept.map (·.slot) ++ slots.take k))))
    ∧ (∀ s : State,
    let table := s.repair.scratches
    answersWith (.scratchClear 0#32) s .ok [word (table.filter isLearned).length]
        { s with repair := { s.repair with scratches := table.filter (fun e => !isLearned e) } }
    ∧ answersWith (.scratchClear 1#32) s .ok [word (table.filter (fun e => !isLearned e)).length]
        { s with repair := { s.repair with scratches := table.filter isLearned } }
    ∧ answersWith (.scratchClear 2#32) s .ok [word table.length] { s with repair := { s.repair with scratches := [] } }
    ∧ ∀ w : Word, 3 ≤ w.toNat → refusedWith (.scratchClear w) s .badArg)

/-! ## Shelving tables, reels, queries, notices -/

/-- R145: SHELVING_ROW_SET: BAD_ARG for a row, metric, comparison or class out of range; else the row is replaced or
made unset. R146: CLASS_SET: BAD_ARG for a class, interval, zone or flag out of range; else the entry is replaced or
made unset. R167 (section 12.5), as LE 9 (DEDUCED) reads it: a presence word of 2 or more, a zone above 255 and a flag
above bit 3 cannot belong and are BAD_ARG. -/
def Obligations.ShelvingCommandsAnswer : Prop :=
  (∀ (s : State) (a : ShelvingRowArgs),
    (16 ≤ a.row.toNat ∨ 2 ≤ a.presence.toNat → refusedWith (.shelvingRowSet a) s .badArg)
    ∧ ∀ i : Fin 16, a.row.toNat = i.val →
        (a.presence = 0#32 →
          answersWith (.shelvingRowSet a) s .ok []
            { s with reel := { s.reel with shelving := s.reel.shelving.set i none } })
        ∧ (a.presence = 1#32 →
            let fits := 1 ≤ a.metric.toNat ∧ a.metric.toNat ≤ 12 ∧ a.comparison.toNat ≤ 1 ∧ 1 ≤ a.cls.toNat ∧ a.cls.toNat ≤ 5
            (¬fits → refusedWith (.shelvingRowSet a) s .badArg)
            ∧ (fits →
                answersWith (.shelvingRowSet a) s .ok []
                  { s with
                    reel :=
                      { s.reel with
                        shelving := s.reel.shelving.set i (some
                          ⟨a.metric.toNat, if a.comparison = 0#32 then .atLeast else .atMost, a.threshold.toNat,
                            a.cls.toNat⟩) } })))
    ∧ (∀ (s : State) (a : ClassSetArgs),
    (a.cls = 0#32 ∨ 6 ≤ a.cls.toNat ∨ 2 ≤ a.presence.toNat → refusedWith (.classSet a) s .badArg)
    ∧ ∀ i : Fin 5, a.cls.toNat = i.val + 1 →
        (a.presence = 0#32 →
          answersWith (.classSet a) s .ok [] { s with reel := { s.reel with classes := s.reel.classes.set i none } })
        ∧ (a.presence = 1#32 →
            let fits := a.zone.toNat ≤ 255 ∧ 1 ≤ a.interval.toNat ∧ a.interval.toNat ≤ 240 ∧ a.flags.toNat < 16
            (¬fits → refusedWith (.classSet a) s .badArg)
            ∧ (fits →
                answersWith (.classSet a) s .ok []
                  { s with
                    reel :=
                      { s.reel with
                        classes := s.reel.classes.set i (some
                          ⟨a.zone.toNat, a.interval.toNat,
                            ⟨a.flags.getLsbD 0, a.flags.getLsbD 1, a.flags.getLsbD 2, a.flags.getLsbD 3⟩⟩) } })))

/-- R134, R135, with R2, R44, R49, R57, R61, R79, R88, R132: REEL_OPEN: the three refusals in order; accepted, the reel
and every block take their REEL_OPEN values, and the reply carries the new reel sequence. At the Pace Generator the
tables, the timeouts, the held TRUN level and the time base stay; where the effective level rises from 0 with the
counters STOPPED, they start loaded with its P and Q, and with them the spin-up timer unless TRUN is ASSERTED (R52, R53). That an
evaluation of the ring cap waiting from the reel before is over is the model's choice (LE 10). -/
def Obligations.ReelOpenAnswers : Prop :=
  ∀ (s : State) (a : ReelOpenArgs) (r : ReelRequest), reelRequestOf a = some r →
    let fits := 1 ≤ r.accessionLength ∧ r.accessionLength ≤ 24 ∧ (∀ b ∈ r.accession, 0x20 ≤ b.toNat ∧ b.toNat ≤ 0x7E)
      ∧ 1 ≤ r.reelNumber ∧ r.reelNumber ≤ 255 ∧ r.format < 8 ∧ r.initialSet < 4
      ∧ ∀ c, r.previousClass = some c → 1 ≤ c ∧ c ≤ 5
    (¬fits → refusedWith (.reelOpen a) s .badArg)
    ∧ ∀ (f : Fin 8) (i : Fin 4), fits → r.format = f.val → r.initialSet = i.val →
        (s.reel.state ≠ .noReel ∨ s.contexts ≠ [] → refusedWith (.reelOpen a) s .badState)
        ∧ (s.reel.state = .noReel → s.contexts = [] →
            (s.frameMemory.plan = none ∨ s.formats[f] = none ∨ s.grading.sets[i].state ≠ .ready →
              refusedWith (.reelOpen a) s .notConfigured)
            ∧ ∀ (p : MemoryPlan) (x : Format), s.frameMemory.plan = some p → s.formats[f] = some x →
                s.grading.sets[i].state = .ready →
                ∃ t : State, answersWith (.reelOpen a) s .ok [word (s.reel.sequence + 1#16).toNat] t
                  ∧ t.pending = s.pending ∧ t.formats = s.formats ∧ t.contexts = [] ∧ t.notices = s.notices
                  ∧ t.interpreter = s.interpreter ∧ t.delivery = s.delivery
                  ∧ t.reel =
                      { s.reel with
                        state := .opened, sequence := s.reel.sequence + 1#16,
                        identity := some
                          ⟨r.accession, r.reelNumber, f, i, r.shrinkHint, r.previousClass, r.paceLevel⟩,
                        record := ReelRecord.zero, lastMetrics := none, held := none }
                  ∧ t.intake = { Intake.powerOn with mode := .taking }
                  ∧ t.tracker =
                      { Tracker.powerOn with
                        mode := .search, fields := some x.tracking,
                        shrink := match r.shrinkHint with
                          | some h => if h < 49152 then 49152 else if 81920 < h then 81920 else h
                          | none => 65536 }
                  ∧ t.pace =
                      { s.pace with
                        requested := match r.paceLevel with
                          | none => s.pace.requested
                          | some l => if isSetLevel s.pace (min l 7) = true then min l 7 else 0,
                        ringCap := 7, faultLatch := false, effective := t.pace.effective, counters := t.pace.counters,
                        spinUp := t.pace.spinUp, due := { s.pace.due with ringCap := none } }
                  ∧ levelInv t
                  ∧ (t.pace.effective = 0 → t.pace.counters = s.pace.counters ∧ t.pace.spinUp = none)
                  ∧ (1 ≤ t.pace.effective →
                      (s.pace.effective = 0 ∧ s.pace.counters = none →
                        t.pace.counters = loadedWith s.pace t.pace.effective ∧ t.pace.counters ≠ none
                          ∧ t.pace.spinUp = if s.pace.trun = true then none else some 0)
                      ∧ (s.pace.effective ≠ 0 ∨ s.pace.counters ≠ none →
                          t.pace.counters = s.pace.counters ∧ t.pace.spinUp = s.pace.spinUp))
                  ∧ t.frameMemory =
                      { s.frameMemory with
                        slots := [], fillLine := 0, channel := staleTransfer s.frameMemory.channel, dropped := 0, overruns := 0,
                        aging := if presented s .intakeWrite then { s.frameMemory.aging with intakeWrite := 0 }
                          else s.frameMemory.aging }
                  ∧ t.conformance = ⟨.idle, [], .initial, some ⟨x.conformance, p.wIn, p.r⟩, none⟩
                  ∧ t.repair =
                      { Repair.powerOn with
                        scratches := s.repair.scratches.filter (fun e => !isLearned e),
                        copy := some
                          ⟨{ x.repair with spanLimit := if x.repair.spanLimit = 0 then 16 else x.repair.spanLimit },
                            x.conformance.wOut, x.conformance.hOut⟩ }
                  ∧ t.grading =
                      { Grading.powerOn with
                        sets := t.grading.sets, current := some i, raster := some (x.conformance.wOut, x.conformance.hOut) }
                  ∧ ∀ k : Fin 4, t.grading.sets[k] =
                      { s.grading.sets[k] with
                        state := if k = i then .inUse
                          else if s.grading.sets[k].state = .inUse then .ready else s.grading.sets[k].state })

/-- R136, R153, R3, R25: REEL_CLOSE: BAD_STATE unless the reel is OPEN; accepted, it stays in flight in its claimed
slot, the reel is CLOSING, the Tracker IDLE, and the intake drains to the newest context's last needed line, or is
CLOSED with the requested level 0 when no context stands. R51 to R53: the effective level is formed anew, and its rise
from 0 starts STOPPED counters with the new level's P and Q. That it is formed once, after all that the start changes, so that with an empty queue no
counter starts before the requested level is 0, is the model's choice (LE 43). -/
def Obligations.ReelCloseStarts : Prop :=
  ∀ s : State,
    (s.reel.state ≠ .opened → refusedWith .reelClose s .badState)
    ∧ ∀ (tag : Half) (i : Fin 8), readyForCommand s i → s.reel.state = .opened →
        ∃ t, exec (.reelClose tag) s = .next t
          ∧ t.reel = { s.reel with state := .closing }
          ∧ t.interpreter =
              { s.interpreter with
                queue := [⟨0x23#16, tag, .reelClose⟩], inFlight := some i, ordinary := s.interpreter.ordinary.set i .claimed }
          ∧ t.tracker =
              { s.tracker with
                mode := .idle, filter := ⟨.undefined, none⟩, edgeLog := [], candidates := [], window := none,
                pendingTop := none, suspect := none, spliceMark := none, nudge := none, countdown := none, rephasing := false,
                spanIndex := none, synthRun := 0, acceptRun := 0 }
          ∧ (∀ c, s.contexts.getLast? = some c →
              t.intake = { s.intake with mode := .draining, drainTarget := some c.lastNeeded, silence := some 0 }
                ∧ t.pace =
                    (if t.pace.effective = 0 then { s.pace with effective := 0, spinUp := none }
                    else if s.pace.effective = 0 ∧ s.pace.counters = none then
                      { s.pace with
                        effective := t.pace.effective, counters := loadedWith s.pace t.pace.effective,
                        spinUp := if s.pace.trun = true then none else some 0 }
                    else { s.pace with effective := t.pace.effective }))
          ∧ (s.contexts = [] →
              t.intake = { s.intake with mode := .closed, drainTarget := none, silence := none }
                ∧ t.pace = { s.pace with requested := 0, effective := 0, spinUp := none })
          ∧ levelInv t ∧ t.pending = s.pending ∧ t.formats = s.formats ∧ t.contexts = s.contexts
          ∧ t.frameMemory = s.frameMemory ∧ t.conformance = s.conformance ∧ t.repair = s.repair ∧ t.grading = s.grading
          ∧ t.notices = s.notices ∧ t.delivery = { s.delivery with stall := t.delivery.stall }

/-- R139, R140, R143, R148, R154: REEL_ABORT: BAD_STATE in NO_REEL; else the contexts and packets disposed of by what is
in transmission, only the head of the queue being opened (LE 27), a close in flight answered ABORTED before the abort's
own reply, the block counters copied into the Reel Record, the abort ticket of the fields of R148 joined or dropped,
every block at its abort values, each request withdrawn and each transfer of an engine in flight discarded (R68). R152,
R153: after the abort the commands behind the close start, one after the other, while a slot is FREE; one command alone
starts as it would on arrival. -/
def Obligations.ReelAbortCarriedOut : Prop :=
  (∀ (s : State) (tag : Half),
    (s.reel.state = .noReel →
      exec (.reelAbort tag) s =
        .next (settleStall { s with interpreter := replyImmediate ⟨0x24#16, tag, .badState, []⟩ s.interpreter }))
    ∧ ∀ (x : ReelIdentity) (y : Interpreter) (n : Nat) (cs : List FrameContext),
        let tailSent (c : FrameContext) : Prop :=
          ∃ run k more, s.delivery.transmission = some ⟨.framePacket, run, false⟩ ∧ s.delivery.queue = .tail k :: more
            ∧ k.frame = c.frame
        s.reel.state ≠ .noReel → s.reel.identity = some x →
        ((s.interpreter.inFlight = none ∧ y = s.interpreter)
          ∨ ∃ q rest j, s.interpreter.queue = q :: rest ∧ s.interpreter.inFlight = some j
              ∧ y =
                  { s.interpreter with
                    queue := rest, inFlight := none,
                    ordinary := s.interpreter.ordinary.set j (.filled ⟨q.code, q.tag, .aborted, []⟩),
                    fillOrder := s.interpreter.fillOrder ++ [.ordinary j] }) →
        ((s.contexts = [] ∧ n = 0 ∧ cs = [])
          ∨ ∃ c rest, s.contexts = c :: rest
              ∧ ((tailSent c ∧ n = rest.length ∧ cs = [c])
                ∨ (¬tailSent c ∧ n = rest.length + 1
                    ∧ cs = if c.opened = true then [{ c with aborted := true }] else []))) →
        let record := recordAtEnd s { s.reel.record with framesAborted := satAdd s.reel.record.framesAborted n }
        let ticket := ticketOfAbort s x record
        let dropped := 4 ≤ s.reel.tickets.length
        let replied := replyImmediate ⟨0x24#16, tag, .ok, [word n, if dropped then 1#32 else 0#32]⟩ y
        ∃ u t, HeadsStart u t ∧ exec (.reelAbort tag) s = .next (settleStall t)
          ∧ (y.queue = [] ∨ freeSlot replied = none → t = u)
          ∧ u.interpreter = replied
          ∧ u.contexts = cs
          ∧ u.delivery.queue =
              (if s.delivery.transmission.map (·.source) = some .framePacket then s.delivery.queue.take 1 else [])
                ++ (cs.filter (·.aborted)).map .tail
          ∧ u.delivery = { s.delivery with queue := u.delivery.queue }
          ∧ u.reel =
              { s.reel with
                state := .noReel, held := none, record := record, lastMetrics := some (metricsOf record),
                tickets := if dropped then s.reel.tickets else s.reel.tickets ++ [ticket] }
          ∧ u.notices = (if dropped then s.notices else setNotice s.notices .ticketReady (occur s.notices.ticketReady))
          ∧ u.pace = { s.pace with requested := 0, effective := 0, spinUp := none }
          ∧ u.intake = { s.intake with mode := .closed, drainTarget := none, silence := none, staging := [] }
          ∧ u.tracker = s.tracker.idled
          ∧ u.frameMemory =
              { s.frameMemory with
                aging := u.frameMemory.aging,
                channel := match s.frameMemory.channel with
                  | some (.conformanceRead l a k _) => some (.conformanceRead l a k true)
                  | some (.referenceRead a k _) => some (.referenceRead a k true)
                  | some (.referenceWrite a z _) => some (.referenceWrite a z true)
                  | z => z }
          ∧ agingWithdrawn s u
          ∧ u.conformance = { s.conformance with mode := .idle, window := [], readRequest := none }
          ∧ u.repair =
              { s.repair with
                mode := .waiting, temporal := false, recordA := .empty, recordB := .empty, lastWritten := none, mask := [],
                columnCounters := [], readRequest := false, writeRequest := false }
          ∧ u.grading =
              { s.grading with
                mode := .waiting, sets := u.grading.sets, cues := [], spliceCues := [], current := none, dissolve := none,
                accumulators := ⟨0, 0, 0, 0⟩ }
          ∧ setsReleased s u
          ∧ u.pending = s.pending ∧ u.formats = s.formats)
    ∧ ∀ (s : State) (x : ReelIdentity) (tag tag' : Half) (q : QueuedCommand) (j : Fin 8) (c : Command),
        s.reel.state ≠ .noReel → s.reel.identity = some x → s.interpreter.inFlight = some j → c ≠ .wrongLength →
        s.interpreter.queue = [q, ⟨codeOf c, tag', c⟩] →
        ∃ w, exec (.reelAbort tag) { s with interpreter := { s.interpreter with queue := [q] } } = .next w
          ∧ w.interpreter.queue = [] ∧ exec (.reelAbort tag) s = exec (rowOf tag' c) w

/-- R155, R141, R165, R16, R154: SOFT_RESET with no reel open: the commands waiting are discarded and counted,
contexts and the packets not in transmission are removed, the packet in transmission loses its effects, each block
takes its SOFT_RESET values (`softResetValues`), and the reply is OK. R155, R141, R139: SOFT_RESET with a reel open: the
reel is aborted first, in the variant that keeps no context and places no tail; a close in flight is answered ABORTED
and is not among the commands discarded; the reply carries that number and the TICKET_DROPPED mark, and the blocks
take the same values. -/
def Obligations.SoftResetCarriedOut : Prop :=
  (∀ (s : State) (tag : Half), s.reel.state = .noReel →
    ∃ t, exec (.softReset tag) s = .next t
      ∧ t.interpreter =
          replyImmediate ⟨0x3F#16, tag, .ok, [word s.interpreter.queue.length, 0#32]⟩
            { s.interpreter with queue := [], inFlight := none }
      ∧ t.reel = { s.reel with held := none }
      ∧ softResetValues s t)
    ∧ (∀ (s : State) (tag : Half) (x : ReelIdentity) (y : Interpreter) (n : Nat), s.reel.state ≠ .noReel → s.reel.identity = some x →
    ((s.interpreter.inFlight = none ∧ n = s.interpreter.queue.length
        ∧ y = { s.interpreter with queue := [] })
      ∨ ∃ q rest j, s.interpreter.queue = q :: rest ∧ s.interpreter.inFlight = some j ∧ n = rest.length
          ∧ y =
              { s.interpreter with
                queue := [], inFlight := none,
                ordinary := s.interpreter.ordinary.set j (.filled ⟨q.code, q.tag, .aborted, []⟩),
                fillOrder := s.interpreter.fillOrder ++ [.ordinary j] }) →
    let record := recordAtEnd s
      { s.reel.record with framesAborted := satAdd s.reel.record.framesAborted s.contexts.length }
    let dropped := 4 ≤ s.reel.tickets.length
    ∃ t, exec (.softReset tag) s = .next t
      ∧ t.interpreter = replyImmediate ⟨0x3F#16, tag, .ok, [word n, if dropped then 1#32 else 0#32]⟩ y
      ∧ t.reel =
          { s.reel with
            state := .noReel, held := none, record := record, lastMetrics := some (metricsOf record),
            tickets := if dropped then s.reel.tickets
              else s.reel.tickets ++ [ticketOfAbort s x record] }
      ∧ softResetValues s t)

/-- R150: an ordinary command that does not start at its arrival: it joins the tail of a queue that holds fewer than 8,
is answered BUSY in a FREE slot, or is dropped and counted. R156, R167: a code the part does not know is answered
BAD_COMMAND; that the row BAD_COMMAND answers so whatever code it carries is the model's (LE 26). A known code with
argument bytes of another length is answered BAD_ARG, and so is a command whose argument words hold a value that cannot
belong to its argument, before its owner sees it; which values cannot belong is read as LE 9 says. They are listed here
for FORMAT_SET, PACE_TABLE_SET, MATRIX_LOAD, SCRATCH_LOAD and REEL_OPEN; PaceCommandsAnswer, CueCommandsAnswer,
ScratchCommandsAnswer, ShelvingCommandsAnswer, StatusQueryAnswers and NoticesAnswer list the others'. R154: argument
bytes make an immediate command BAD_ARG, and it is not carried out; the reply of an immediate command goes into the
reserved slot when that is FREE, else into a FREE ordinary slot, else none is built and the unanswered-immediate counter
rises. R150, R152: a packet that finds an empty queue, no command in flight and a FREE slot starts at once, alone; a
command that starts from the queue has the same effect and the same answer as one that starts alone, but that the COUNTERS
record counts the packets behind it (R159). That the FREE slot taken is the lowest-numbered is the model's choice (LE 23). -/
def Obligations.CommandArrivals : Prop :=
  (∀ (s : State) (code tag : Half) (args : List Byte) (i : Fin 8), readyForCommand s i → code ≠ 0x24#16 → code ≠ 0x3F#16 →
    args.length ≤ 1020 →
    exec (.controlPacket (controlRun code tag args)) s =
      .next (settleStall (headStarted i ⟨code, tag, commandOf code args⟩ [] s)))
    ∧ (∀ (s : State) (i : Fin 8) (q : QueuedCommand) (rest : List QueuedCommand),
      let alone := headStarted i q [] s
      (q.command ≠ .statusQuery 9#32 →
        headStarted i q rest s =
          { alone with interpreter := { alone.interpreter with queue := alone.interpreter.queue ++ rest } })
      ∧ (q.command = .statusQuery 9#32 →
        headStarted i q rest s =
          { s with
            interpreter :=
              { s.interpreter with
                queue := rest, inFlight := none,
                ordinary := s.interpreter.ordinary.set i
                  (.filled ⟨q.code, q.tag, .ok, (counterItems i s).set 20 (word (rest.length + 1))⟩),
                fillOrder := s.interpreter.fillOrder ++ [.ordinary i] } }))
    ∧ (∀ (s : State) (c : Command) (tag : Half), c ≠ .wrongLength →
    (s.interpreter.queue.length < 8 →
      s.interpreter.queue ≠ [] ∨ s.interpreter.inFlight ≠ none ∨ freeSlot s.interpreter = none →
      exec (rowOf tag c) s =
        .next (settleStall
          { s with
            interpreter := { s.interpreter with queue := s.interpreter.queue ++ [⟨codeOf c, tag, c⟩] } }))
    ∧ (8 ≤ s.interpreter.queue.length →
        (∀ i, freeSlot s.interpreter = some i → exec (rowOf tag c) s = .next (answeredIn i (codeOf c) tag .busy [] s))
        ∧ (freeSlot s.interpreter = none →
            exec (rowOf tag c) s =
              .next (settleStall
                { s with
                  interpreter := { s.interpreter with dropped := satAdd s.interpreter.dropped 1 } }))))
    ∧ ((∀ (s : State) (tag code : Half) (i : Fin 8), readyForCommand s i →
      exec (.badCommand tag code) s = .next (answeredIn i code tag .badCommand [] s))
    ∧ ∀ s : State,
        (∀ a : FormatSetArgs, 2 ≤ a.polarity.toNat ∨ 2 ≤ a.irMode.toNat → refusedWith (.formatSet a) s .badArg)
        ∧ (∀ a : PaceTableArgs,
            (∃ w ∈ [a.level1, a.level2, a.level3, a.level4, a.level5, a.level6, a.level7],
              w.getLsbD 31 = true ∧ ∃ k, 24 ≤ k ∧ k ≤ 30 ∧ w.getLsbD k = true) →
            refusedWith (.paceTableSet a) s .badArg)
        ∧ (∀ a : MatrixLoadArgs,
            (∃ w ∈ [a.rr, a.rg, a.rb, a.gr, a.gg, a.gb, a.br, a.bg, a.bb, a.offR, a.offG, a.offB],
              w.toInt < -32768 ∨ 32767 < w.toInt) →
            refusedWith (.matrixLoad a) s .badArg)
        ∧ (∀ items : List Word, (∃ w ∈ items, 2 ^ 24 ≤ w.toNat) → refusedWith (.scratchLoad items) s .badArg)
        ∧ ∀ a : ReelOpenArgs,
            8 ≤ a.presence.toNat ∨ (∃ k, a.accessionLength.toNat ≤ k ∧ k < a.accession.length ∧ a.accession.getD k 0#8 ≠ 0#8) →
            refusedWith (.reelOpen a) s .badArg)
    ∧ (∀ (s : State) (code tag : Half) (args : List Byte) (i : Fin 8), readyForCommand s i → args.length ≤ 1020 →
        ((∃ n, (code, n) ∈
              [(0x01#16, 76), (0x02#16, 20), (0x03#16, 36), (0x04#16, 4), (0x05#16, 12), (0x06#16, 4), (0x11#16, 52),
                (0x12#16, 4), (0x13#16, 4), (0x14#16, 16), (0x15#16, 4), (0x19#16, 4), (0x20#16, 24), (0x21#16, 20),
                (0x22#16, 56), (0x23#16, 0), (0x28#16, 8), (0x29#16, 4), (0x30#16, 4)] ∧ args.length ≠ n)
          ∨ (code = 0x10#16 ∧ (args.length ≤ 16 ∨ args.length % 2 = 1))
          ∨ (code = 0x18#16 ∧ (args.length < 4 ∨ args.length ≠ 4 + 4 * (wordAt args 0).toNat))) →
        exec (.controlPacket (controlRun code tag args)) s = .next (answeredIn i code tag .badArg [] s))
    ∧ (∀ (x : Interpreter) (r : Reply),
        (∀ i, freeSlot x = some i ↔ x.ordinary[i] = .free ∧ ∀ j : Fin 8, j < i → x.ordinary[j] ≠ .free)
        ∧ (x.reserved = none →
            replyImmediate r x = { x with reserved := some r, fillOrder := x.fillOrder ++ [.reserved] })
        ∧ (x.reserved ≠ none →
            (∀ i, freeSlot x = some i →
              replyImmediate r x =
                { x with ordinary := x.ordinary.set i (.filled r), fillOrder := x.fillOrder ++ [.ordinary i] })
            ∧ (freeSlot x = none → replyImmediate r x = { x with unanswered := satAdd x.unanswered 1 })))
    ∧ ∀ (s : State) (code tag : Half) (args : List Byte), code = 0x24#16 ∨ code = 0x3F#16 → args ≠ [] → args.length ≤ 1020 →
        exec (.controlPacket (controlRun code tag args)) s =
          .next (settleStall { s with interpreter := replyImmediate ⟨code, tag, .badArg, []⟩ s.interpreter })

/-- R158: STATUS_QUERY with IDENTITY answers the fixed identity record in every state. R157: STATUS_QUERY with each
other selector answers the items of its record and changes nothing; a selector outside Table 10-3 is BAD_ARG. The items
are those of R44 and R42 (TRACKER), R57, R58, R60, R62, R63, R71 and R79 (RING), R133 (REEL_RECORD), R110
(SCRATCH_TABLE), R121 (CUE_LIST), R112 and R132 (GRADE_SETS), R165 (NOTICES), and R2, R12, R68, R71 and R159 (COUNTERS),
written out in Safety.lean. Their layout is the model's where R167 leaves it open: the order and the absent items (LE 8,
DEDUCED), the free codes of the states (LE 7), the timeouts in the units of R56 (LE 32), the chunk flags (LE 35), an unset
plan (LE 36), levels and marks as 1 or 0 (LE 38), the marks "initial" and none as absent items (LE 39), a Pace Table level
in two words (LE 40), the codes of an origin (LE 41). The COUNTERS record is taken with the query itself in flight (LE
25). -/
def Obligations.StatusQueryAnswers : Prop :=
  (∀ s : State, answersWith (.statusQuery 1#32) s .ok [0x4410#32, 1#32, 4096#32, 16384#32, 4#32, 32#32, 64#32, 8#32] s)
    ∧ (∀ s : State,
    answersWith (.statusQuery 2#32) s .ok (trackerItems s) s
    ∧ answersWith (.statusQuery 3#32) s .ok (ringItems s) s
    ∧ answersWith (.statusQuery 4#32) s .ok (reelItems s.reel) s
    ∧ answersWith (.statusQuery 5#32) s .ok (repairItems s.repair) s
    ∧ answersWith (.statusQuery 6#32) s .ok (cueItems s.grading) s
    ∧ answersWith (.statusQuery 7#32) s .ok (gradingItems s.grading) s
    ∧ answersWith (.statusQuery 8#32) s .ok (noticeItems s.notices) s
    ∧ (∀ (tag : Half) (i : Fin 8), readyForCommand s i →
        exec (.statusQuery tag 9#32) s = .next (answeredIn i 0x30#16 tag .ok (counterItems i s) s))
    ∧ ∀ w : Word, w = 0#32 ∨ 10 ≤ w.toNat → refusedWith (.statusQuery w) s .badArg)

/-- R160, R162, R163: an occurrence, an acknowledgement and an enable at one class, and the NOTICE_ACK and
NOTICE_ENABLE commands. The codes of the latches in the reply are free (LE 7). R164: ATTN is asserted exactly while the
latch of some class is PENDING or RAISED, whatever the enables. -/
def Obligations.NoticesAnswer : Prop :=
  (∀ u : NoticeUnit, attn u = true ↔ ∃ c, (noticeOf u c).latch = .raised ∨ ∃ k, (noticeOf u c).latch = .pending k)
    ∧ (∀ (c : NoticeClass) (s : State),
      (raise c s).notices = setNotice s.notices c
        (let n := noticeOf s.notices c
         if n.enabled = true ∧ n.latch = .armed then ⟨true, 0, .pending (min (n.count + 1) 65535)⟩
         else { n with count := min (n.count + 1) 65535 }))
    ∧ (∀ (s : State) (w : Word), w = 0#32 ∨ 11 ≤ w.toNat → refusedWith (.noticeAck w) s .badArg)
    ∧ (∀ (s : State) (c : NoticeClass) (m : NoticeState),
        m = (match (noticeOf s.notices c).latch with
          | .raised =>
            if 0 < (noticeOf s.notices c).count ∧ (noticeOf s.notices c).enabled = true then
              ⟨true, 0, .pending (noticeOf s.notices c).count⟩
            else { noticeOf s.notices c with latch := .armed }
          | _ => noticeOf s.notices c) →
        answersWith (.noticeAck (word (classNumber c))) s .ok
          [Config.stateCode (match m.latch with
            | .armed => .latchArmed
            | .pending _ => .latchPending
            | .raised => .latchRaised), word m.count]
          { s with notices := setNotice s.notices c m })
    ∧ (∀ (s : State) (w v : Word), (w = 0#32 ∨ 11 ≤ w.toNat) ∧ w ≠ 255#32 ∨ 2 ≤ v.toNat →
        refusedWith (.noticeEnable w v) s .badArg)
    ∧ ∀ (s : State) (v : Bool),
        let set (n : NoticeState) : NoticeState :=
          if v = true ∧ n.latch = .armed ∧ 0 < n.count then ⟨true, 0, .pending n.count⟩ else { n with enabled := v }
        let value : Word := if v then 1#32 else 0#32
        let enableWords (u : NoticeUnit) : List Word :=
          [u.lockLost, u.framesLost, u.ringOverflow, u.intakeError, u.gradeMiss, u.scratchFull, u.ticketReady, u.transportFault,
            u.deliveryStall, u.clamp].map (fun n => oneIf n.enabled)
        (∀ c : NoticeClass, ∃ u : NoticeUnit,
          answersWith (.noticeEnable (word (classNumber c)) value) s .ok (enableWords u) { s with notices := u }
            ∧ u = setNotice s.notices c (set (noticeOf s.notices c)))
        ∧ ∃ u : NoticeUnit,
            answersWith (.noticeEnable 255#32 value) s .ok (enableWords u) { s with notices := u }
              ∧ ∀ c, noticeOf u c = set (noticeOf s.notices c)

/-! ## Frame Tracker -/

/-- R19, R20: three agreeing samples in a row change the filtered level and record an edge at the first of them, shorter
chatter records none; at level UNDEFINED they settle the level without an edge; a missing line's sample clears the run.
R22: an active edge in the blanking interval is spurious; in the acceptance interval it resolves, ACCEPTED, with its
deviation. R23, R26: at q + pitch + tol + 2 the window closes and a perforation is synthesized, or the lock is lost at
the coast limit; an edge that this sample records comes first. R18: a line record in its four steps; a sequence break
acted on in SEARCH raises nothing. That a line counts as unframed by the state which its break leaves is the model's
reading of R18 (LE 29), and that a lock gained or lost within its own samples does not change that, with or without a
break, is its choice (LE 42). -/
def Obligations.SamplesReachTracker : Prop :=
  (∀ (level : Level) (b : Bool) (p : Nat),
    let one := filterSample ⟨level, none⟩ b p
    let two := filterSample one.1 b (p + 1)
    let three := filterSample two.1 b (p + 2)
    one.2 = none ∧ two.2 = none
      ∧ (level = levelOf b → three = (⟨level, none⟩, none))
      ∧ (level ≠ levelOf b →
          one.1 = ⟨level, some ⟨b, 1, p⟩⟩ ∧ two.1 = ⟨level, some ⟨b, 2, p⟩⟩
            ∧ three = (⟨levelOf b, none⟩, if level = .undefined then none else some ⟨b, p⟩))
      ∧ (level ≠ .undefined → level ≠ levelOf b →
          filterSample one.1 (!b) (p + 1) = (⟨level, none⟩, none) ∧ filterSample two.1 (!b) (p + 2) = (⟨level, none⟩, none))
      ∧ (level = .undefined →
          filterSample one.1 (!b) (p + 1) = (⟨level, some ⟨!b, 1, p + 1⟩⟩, none)
            ∧ filterSample two.1 (!b) (p + 2) = (⟨level, some ⟨!b, 1, p + 2⟩⟩, none))
      ∧ ∀ f : Filter, filterMissing f = ⟨f.level, none⟩)
    ∧ (∀ (s : State) (f : TrackingFields) (w : PerfWindow) (e : Nat), s.tracker.window = some w →
        s.tracker.mode = .locked ∨ s.tracker.mode = .coasting →
        (e + w.tol < w.q + w.pitch →
          takeEdge f e s =
            { s with
              tracker :=
                { s.tracker with
                  counters := { s.tracker.counters with spuriousEdges := satAdd s.tracker.counters.spuriousEdges 1 } } })
        ∧ (w.q + w.pitch ≤ e + w.tol → e ≤ w.q + w.pitch + w.tol →
            takeEdge f e s = resolve f e (.accepted ((e : Int) - ((w.q : Int) + (w.pitch : Int)))) s)
        ∧ (e < w.q + w.pitch + w.tol + 2 → closeWindow f e s = s)
        ∧ (w.q + w.pitch + w.tol + 2 ≤ e →
            (s.tracker.synthRun < f.coastLimit → closeWindow f e s = resolve f (w.q + w.pitch) .synthesized s)
              ∧ (f.coastLimit ≤ s.tracker.synthRun → closeWindow f e s = loseLock false s)))
    ∧ (∀ (s : State) (f : TrackingFields) (e : Nat),
        (s.tracker.mode = .search → takeEdge f e s = addCandidate f e s) ∧ (s.tracker.mode = .idle → takeEdge f e s = s))
    ∧ (∀ (s : State) (f : TrackingFields) (b : Bool) (pos : Nat),
        let r := filterSample s.tracker.filter b pos
        let u : State := { s with tracker := { s.tracker with filter := r.1 } }
        (∀ e, r.2 = some e → (e.rising = true ↔ f.polarity = .rising) →
          examineSample f (some b) pos s = closeWindow f pos (takeEdge f e.position u))
        ∧ ((∀ e, r.2 = some e → ¬(e.rising = true ↔ f.polarity = .rising)) →
            examineSample f (some b) pos s = closeWindow f pos u)
        ∧ examineSample f none pos s =
            closeWindow f pos { s with tracker := { s.tracker with filter := ⟨s.tracker.filter.level, none⟩ } })
    ∧ (∀ (s : State) (r : LineRecord), s.tracker.mode = .idle → trackLine r s = s)
    ∧ ∀ (s : State) (f : TrackingFields) (r : LineRecord), s.tracker.mode ≠ .idle → s.tracker.fields = some f →
        let a : State :=
          if r.atBreak = false then s
          else if s.tracker.mode = .search then
            { s with tracker := { s.tracker with candidates := [], filter := ⟨.undefined, none⟩ } }
          else loseLock true s
        let unframed : Bool := decide (a.tracker.mode = .search) && r.received.isSome
        let entry : EdgeEntry := ⟨r.line, r.received.map (·.1)⟩
        let take (y : Tally) : Tally :=
          if 16 ≤ y.covered then y
          else match r.received with
            | some z => { y with covered := y.covered + 1, received := y.received + 1, sum := y.sum + z.1 }
            | none => { y with covered := y.covered + 1 }
        trackLine r s = (List.range 16).foldl
          (fun u p => examineSample f (r.received.map (fun z => z.2.getLsbD p)) (16 * r.line + p) u)
          { a with
            tracker :=
              { a.tracker with
                counters :=
                  { a.tracker.counters with
                    unframedLines := if unframed then satAdd a.tracker.counters.unframedLines 1
                      else a.tracker.counters.unframedLines },
                edgeLog := (a.tracker.edgeLog ++ [entry]).drop (a.tracker.edgeLog.length + 1 - 160),
                candidates := a.tracker.candidates.map (fun c => { c with tally := take c.tally }),
                pendingTop := a.tracker.pendingTop.map (fun c => { c with tally := take c.tally }) } }

/-- R39, R35, R37, R32, R40, R78, R80: a cut takes the number in the frame counter and consumes it; with fewer than 32
contexts the frame's context is appended with the Tracker's fields, H the rounded mean of the received edges less the
reference edge, or the last H with none received (R37), and each clamp that took effect raises CLAMP; an IDLE
Conformance Engine takes the oldest unfinished frame at its output line 0 (R80), any other goes on undisturbed; the last
needed line is R78's; else the frame is lost with a FRAMES_LOST occurrence. With no pending top nothing is cut. That the
current set is absent, the weight 0 and GRADE_MISS clear until grading's frame start is the model's choice (LE 37). -/
def Obligations.FrameIsCut : Prop :=
  (∀ (s : State) (at_ : CutState) (extra : Nat), s.tracker.pendingTop = none → cutFrame at_ extra s = s)
    ∧ ∀ (s : State) (at_ : CutState) (extra : Nat) (top : PendingTop), s.tracker.pendingTop = some top →
    let t := cutFrame at_ extra s
    let n : Int := top.tally.received
    let h : Int := match s.tracker.fields with
      | some f => if n = 0 then s.tracker.lastH else (top.tally.sum - n * f.referenceEdge + n / 2) / n
      | none => s.tracker.lastH
    let marked : Prop := ∃ m, s.tracker.spliceMark = some m ∧ m ≤ top.position
    t.tracker.frameCounter = s.tracker.frameCounter + 1 ∧ t.tracker.pendingTop = none
      ∧ t.tracker.lastH = max (-1024) (min h 1024) ∧ t.tracker.lastCut = some ⟨top.position, s.tracker.frameCounter⟩
      ∧ t.tracker =
          { s.tracker with
            frameCounter := t.tracker.frameCounter, pendingTop := none, lastH := t.tracker.lastH, lastCut := t.tracker.lastCut,
            spliceMark := t.tracker.spliceMark, counters := t.tracker.counters }
      ∧ (marked → t.tracker.spliceMark = none) ∧ (¬marked → t.tracker.spliceMark = s.tracker.spliceMark)
      ∧ (s.contexts.length < 32 →
          t.tracker.counters = s.tracker.counters
            ∧ ∃ c u, u = { s with tracker := t.tracker, notices := t.notices, contexts := s.contexts ++ [c] }
              ∧ (s.conformance.mode ≠ .idle → t = u)
              ∧ (∀ copy before x after, s.conformance.mode = .idle → s.conformance.copy = some copy →
                  s.contexts ++ [c] = before ++ x :: after → (∀ y ∈ before, y.finished = true ∨ y.aborted = true) →
                  x.finished = false → x.aborted = false → t = frameBegun copy x u)
              ∧ (s.conformance.mode = .idle → s.conformance.copy = none →
                  t = { u with conformance := { s.conformance with window := [] } })
              ∧ c.frame = s.tracker.frameCounter ∧ c.reelSequence = s.reel.sequence ∧ c.top = top.position
              ∧ c.topStatus = top.status ∧ c.cutState = at_ ∧ (c.splice = true ↔ marked)
              ∧ c.appliedS = max 62259 (min s.tracker.shrink 66191) ∧ (c.shrinkClamp = true ↔ c.appliedS ≠ s.tracker.shrink)
              ∧ c.appliedH = max (-1024) (min h 1024) ∧ (c.weaveClamp = true ↔ c.appliedH ≠ h)
              ∧ c.synthesized = (if top.status = .synthesized then 1 else 0) + extra
              ∧ (∀ copy, s.conformance.copy = some copy →
                  c.lastNeeded =
                    (16 * top.position
                      + ((16 * copy.fields.v0 + 256 * (copy.fields.hOut - 1)) * c.appliedS + 32768) / 65536) / 256 + 1)
              ∧ c.incomplete = false ∧ c.substituted = 0 ∧ c.temporal = 0 ∧ c.spatial = 0 ∧ c.scratchPixels = 0
              ∧ c.unrepaired = 0 ∧ c.referenceUsed = false ∧ c.targetSet = none ∧ c.firedCue = none ∧ c.clipped = 0
              ∧ c.meanR = 0 ∧ c.meanG = 0 ∧ c.meanB = 0 ∧ c.currentSet = none ∧ c.weight = 0 ∧ c.gradeMiss = false
              ∧ c.aborted = false ∧ c.finished = false ∧ c.opened = false
              ∧ (c.shrinkClamp = false → c.weaveClamp = false → t.notices = s.notices)
              ∧ (c.shrinkClamp ≠ c.weaveClamp → t.notices = setNotice s.notices .clamp (occur s.notices.clamp))
              ∧ (c.shrinkClamp = true → c.weaveClamp = true →
                  t.notices = setNotice s.notices .clamp (occur (occur s.notices.clamp))))
      ∧ (32 ≤ s.contexts.length →
          t.contexts = s.contexts ∧ t.notices = setNotice s.notices .framesLost (occur s.notices.framesLost)
            ∧ t.tracker.counters =
                { s.tracker.counters with framesLost := satAdd s.tracker.counters.framesLost 1 }
            ∧ t.conformance = s.conformance)

/-- R24, in LOCKED and COASTING, from a perforation's resolution at `q`, ACCEPTED with its deviation or SYNTHESIZED:
steps 1 to 4 give `u`: the counters (R24), the tracker state and its runs (R26), the verdict on an earlier SUSPECT
perforation or a new SUSPECT one, with the splice mark (R31, R32), the pitch history and S (R33, R34); step 5 cuts a
pending frame, with the cutting perforation's part of the span count (R39, R40; FrameIsCut says what a cut does);
steps 6 to 8 are `restOfResolution`. R36: a tally opens with the Edge Log's entries from the perforation's line on,
at most 16. -/
def Obligations.PerforationResolves : Prop :=
  (∀ (s : State) (f : TrackingFields) (q : Nat) (r : Resolution) (w : PerfWindow),
    s.tracker.mode = .locked ∨ s.tracker.mode = .coasting → s.tracker.window = some w → s.tracker.history.length ≤ 16 →
    let x := s.tracker
    let synth : Prop := r = .synthesized
    let st : PerfStatus := if r = .synthesized then .synthesized else .accepted
    let far : Prop := ∃ d, r = .accepted d ∧ f.spliceThreshold ≤ d.natAbs
    let measured (h : List Nat) : Nat :=
      max 49152 (min ((65536 * h.sum + h.length * f.nominalPitch / 2) / (h.length * f.nominalPitch)) 81920)
    ∃ u : State,
      restOfResolution f q st (openTally x.edgeLog q)
          (cutFrame (if u.tracker.mode = .coasting then .coasting else .locked) (if 2 ≤ f.k ∧ r = .synthesized then 1 else 0) u)
          (resolve f q r s)
        ∧ u = { s with tracker := u.tracker, pace := u.pace } ∧ (levelInv s → levelInv u)
        ∧ u.tracker =
            { x with
              mode := u.tracker.mode, synthRun := if r = .synthesized then x.synthRun + 1 else 0,
              acceptRun := u.tracker.acceptRun, counters := u.tracker.counters, suspect := u.tracker.suspect,
              spliceMark := u.tracker.spliceMark, history := u.tracker.history, shrink := u.tracker.shrink }
        ∧ (synth → u.tracker.mode = .coasting ∧ u.tracker.acceptRun = 0)
        ∧ (¬synth → x.mode = .locked → u.tracker.mode = .locked ∧ u.tracker.acceptRun = x.acceptRun)
        ∧ (¬synth → x.mode = .coasting → x.acceptRun = 0 → u.tracker.mode = .coasting ∧ u.tracker.acceptRun = 1)
        ∧ (¬synth → x.mode = .coasting → 1 ≤ x.acceptRun → u.tracker.mode = .locked ∧ u.tracker.acceptRun = 2)
        ∧ (∃ splice step odd : Bool,
            u.tracker.counters =
                { x.counters with
                  perforationsSeen := satAdd x.counters.perforationsSeen 1,
                  synthesized := satAdd x.counters.synthesized (if r = .synthesized then 1 else 0),
                  splices := if splice then satAdd x.counters.splices 1 else x.counters.splices,
                  pitchSteps := if step then satAdd x.counters.pitchSteps 1 else x.counters.pitchSteps,
                  irregular := if odd then satAdd x.counters.irregular 1 else x.counters.irregular }
            ∧ (∀ z, x.suspect = some z →
                u.tracker.suspect = none
                  ∧ (¬synth → ¬far →
                      splice = true ∧ step = false ∧ odd = false ∧ u.tracker.spliceMark = some (x.spliceMark.getD z.position))
                  ∧ (∀ d, r = .accepted d → far → ((0 < d) ↔ z.positive = true) →
                      splice = false ∧ step = true ∧ odd = false ∧ u.tracker.spliceMark = x.spliceMark
                        ∧ (u.tracker.mode = .locked →
                            u.tracker.history = [q - w.q] ∧ u.tracker.shrink = measured [q - w.q])
                        ∧ (u.tracker.mode = .coasting → u.tracker.history = [] ∧ u.tracker.shrink = x.shrink))
                  ∧ (synth ∨ (∃ d, r = .accepted d ∧ far ∧ ¬((0 < d) ↔ z.positive = true)) →
                      splice = false ∧ step = false ∧ odd = true ∧ u.tracker.spliceMark = x.spliceMark)
                  ∧ (step = false → u.tracker.history = x.history ∧ u.tracker.shrink = x.shrink))
            ∧ (x.suspect = none →
                splice = false ∧ step = false ∧ odd = false ∧ u.tracker.spliceMark = x.spliceMark
                  ∧ (∀ d, r = .accepted d → far → u.tracker.suspect = some ⟨q, decide (0 < d)⟩)
                  ∧ (¬far → u.tracker.suspect = none)
                  ∧ (¬synth → ¬far → u.tracker.mode = .locked → x.lastAccepted = true →
                      u.tracker.history =
                          (if x.history.length = 16 then x.history.tail ++ [q - w.q] else x.history ++ [q - w.q])
                        ∧ u.tracker.shrink = measured u.tracker.history)
                  ∧ (synth ∨ far ∨ u.tracker.mode = .coasting ∨ x.lastAccepted = false →
                      u.tracker.history = x.history ∧ u.tracker.shrink = x.shrink))))
    ∧ ∀ (log : List EdgeEntry) (q : Nat),
        let taken := (log.filter (fun e => decide (q / 16 ≤ e.line))).take 16
        openTally log q = ⟨q / 16, taken.length, (taken.filterMap (·.edge)).length, (taken.filterMap (·.edge)).sum⟩

/-- R27: in SEARCH an active edge joins the candidate list, the oldest of three leaving; with three whose two pitches
both lie within tol of the predicted one, lock is acquired, else the list is kept. R28, R30: at lock the Tracker is
LOCKED with both runs 0, the countdown is 1 at the first lock, and after a lock loss puts the top on the first
perforation whose elapsed count from q_top is a positive multiple of K; the three candidates resolve in order, and
what stands after e3. R29: at a lock loss a SUSPECT perforation is dropped and counted, a pending frame cut, the last
top kept as q_top, window, countdown and nudge discarded, the state SEARCH, the loss counted with LOCK_LOST. Where the
number of a re-lock's top would not rise, the model takes one more (LE 16). -/
def Obligations.LockGainedAndLost : Prop :=
  (∀ (s : State) (f : TrackingFields) (e : Nat),
    let x := s.tracker
    let p := pitchOf f x.shrink
    let list := (if 3 ≤ x.candidates.length then x.candidates.drop 1 else x.candidates) ++ [⟨e, openTally x.edgeLog e⟩]
    let kept : State := { s with tracker := { x with candidates := list } }
    let near (a b : Candidate) : Prop := b.position - a.position ≤ p + f.tol ∧ p ≤ b.position - a.position + f.tol
    (∀ e1 e2 e3, list = [e1, e2, e3] → near e1 e2 → near e2 e3 → addCandidate f e s = acquireLock f e1 e2 e3 kept)
      ∧ ((∀ e1 e2 e3, list = [e1, e2, e3] → ¬(near e1 e2 ∧ near e2 e3)) → addCandidate f e s = kept))
    ∧ (∀ (s : State) (f : TrackingFields) (e1 e2 e3 : Candidate), 1 ≤ f.k →
        let x := s.tracker
        let p := pitchOf f x.shrink
        let isTop (y : TopMark) (e : Candidate) : Prop :=
          1 ≤ pitchesFrom p y e.position ∧ pitchesFrom p y e.position % f.k = 0
        let t := acquireLock f e1 e2 e3 s
        ∃ (n : Nat) (u t1 t2 : State),
          (x.qTop = none → n = 1)
          ∧ (∀ y, x.qTop = some y →
              (isTop y e1 → n = 1) ∧ (¬isTop y e1 → isTop y e2 → n = 2) ∧ (¬isTop y e1 → ¬isTop y e2 → isTop y e3 → n = 3)
                ∧ (¬isTop y e1 → ¬isTop y e2 → ¬isTop y e3 → n = 3 + f.k - pitchesFrom p y e3.position % f.k))
          ∧ u =
              { s with
                tracker :=
                  { x with
                    mode := .locked, synthRun := 0, acceptRun := 0, candidates := [], countdown := some n,
                    rephasing := x.qTop.isSome, spanIndex := none },
                pace := u.pace }
          ∧ levelInv u
          ∧ candidateResolves f e1 u t1 ∧ candidateResolves f e2 t1 t2 ∧ candidateResolves f e3 t2 t
          ∧ t.tracker.mode = .locked ∧ t.tracker.synthRun = 0 ∧ t.tracker.acceptRun = 0 ∧ t.tracker.candidates = []
          ∧ t.tracker.suspect = x.suspect ∧ t.tracker.history = x.history ∧ t.tracker.shrink = x.shrink
          ∧ t.tracker.window = some ⟨e3.position, p, f.tol⟩ ∧ t.tracker.lastAccepted = true
          ∧ t.tracker.counters.perforationsSeen = satAdd x.counters.perforationsSeen 3
          ∧ t.tracker.countdown = some (if n ≤ 3 then f.k - (3 - n) % f.k else n - 3)
          ∧ t.tracker.pendingTop =
              if n ≤ 3 ∧ (3 - n) % f.k = 0 then some ⟨e3.position, .accepted, e3.tally⟩ else none)
    ∧ ∀ (s : State) (atBreak : Bool),
        let x := s.tracker
        let v := cutFrame (if x.mode = .coasting then .coasting else .locked) 0
          { s with
            tracker :=
              { x with
                suspect := none,
                counters :=
                  { x.counters with
                    irregular := if x.suspect = none then x.counters.irregular else satAdd x.counters.irregular 1 } } }
        let t := loseLock atBreak s
        t = { v with tracker := t.tracker, pace := t.pace, notices := t.notices } ∧ levelInv t
          ∧ t.tracker =
              { v.tracker with
                mode := .search, window := none, countdown := none, nudge := none, candidates := [], rephasing := false,
                spanIndex := none, qTop := t.tracker.qTop, filter := if atBreak = true then ⟨.undefined, none⟩ else x.filter,
                counters := { v.tracker.counters with lockLosses := satAdd v.tracker.counters.lockLosses 1 } }
          ∧ (∀ top, x.pendingTop = some top → t.tracker.qTop = some ⟨top.position, x.frameCounter⟩)
          ∧ (x.pendingTop = none → t.tracker.qTop = x.lastCut)
          ∧ t.notices = setNotice v.notices .lockLost (occur v.notices.lockLost)

/-! ## Pixel arithmetic -/

/-- R75, R76, R77: in each channel, an output pixel is the blend of the two columns at its horizontal position,
clamped to the edges, of the blend of the two source lines. -/
def Obligations.OutputPixelMapped : Prop :=
  ∀ (wIn f : Nat) (a b : List Pixel) (fields : ConformanceFields) (h : Int) (i : Nat) (ch : Pixel → Half),
    0 < wIn → a.length = wIn → f < 256 → f = 0 ∨ b.length = wIn → i < fields.wOut → ch ∈ [Pixel.r, Pixel.g, Pixel.b, Pixel.ir] →
    let x : Int := 16 * ((fields.u0 : Int) + i) + h
    let g := (x % 16).toNat
    let edge (c : Int) : Nat := if c < 0 then 0 else if (wIn : Int) - 1 < c then wIn - 1 else c.toNat
    let mid (c : Nat) : Nat :=
      ((256 - f) * (ch (a.getD c zeroPixel)).toNat + f * (ch (b.getD c zeroPixel)).toNat + 128) / 256
    let line := horizontalLine wIn (columnMap fields h) (verticalIntermediate f a b)
    line.length = fields.wOut
      ∧ (ch (line.getD i zeroPixel)).toNat =
          ((16 - g) * mid (edge (x / 16)) + g * mid (edge (x / 16 + 1)) + 8) / 16

/-- R117 to R120: a pixel through the input LUTs, the matrix with its offsets, clamping and rounding, and the output
LUTs of a set; and while a dissolve runs the blend of both sets' results. -/
def Obligations.PixelGraded : Prop :=
  (∀ (lut : List (Nat × Half)) (v : Half),
      let e (k : Nat) : Nat := ((tableGet lut (if k = 4096 then 4095 else k)).getD 0#16).toNat
      (lutLookup lut v).toNat =
        (e (v.toNat / 16) * (16 - v.toNat % 16) + e (v.toNat / 16 + 1) * (v.toNat % 16) + 8) / 16)
    ∧ (∀ (mR mG mB off : Int) (p : Rgb),
        let value := (mR * p.r.toNat + mG * p.g.toNat + mB * p.b.toNat + 2048) / 4096 + off
        ((matrixRow mR mG mB off p).1.toNat : Int) = max 0 (min value 65535)
          ∧ ((matrixRow mR mG mB off p).2 = true ↔ value < 0 ∨ 65535 < value))
    ∧ (∀ (g : GradeSet) (m : Matrix) (p : Rgb), g.matrix = some m →
        let q : Rgb := ⟨lutLookup g.luts[0] p.r, lutLookup g.luts[1] p.g, lutLookup g.luts[2] p.b⟩
        let r := matrixRow m.rr m.rg m.rb m.offR q
        let n := matrixRow m.gr m.gg m.gb m.offG q
        let b := matrixRow m.br m.bg m.bb m.offB q
        gradePixel g none 0 p =
          ⟨⟨lutLookup g.luts[3] r.1, lutLookup g.luts[4] n.1, lutLookup g.luts[5] b.1⟩, r.2 || n.2 || b.2⟩)
    ∧ ∀ (g k : GradeSet) (w : Nat) (p : Rgb) (ch : Rgb → Half), w < 256 → ch ∈ [Rgb.r, Rgb.g, Rgb.b] →
        (ch (gradePixel g (some k) w p).px).toNat =
            ((256 - w) * (ch (gradePixel g none 0 p).px).toNat + w * (ch (gradePixel k none 0 p).px).toNat + 128) / 256
          ∧ (gradePixel g (some k) w p).clipped = ((gradePixel g none 0 p).clipped || (gradePixel k none 0 p).clipped)

/-- R93: a pixel is IR-defective in IR mode ON when its IR sample times 256 is below threshold times clear level, and
defective when it is that or its column lies in the mask; the line's pixels are repaired with these marks (R92). R97,
R98, R99: the repair of one pixel: a sound one unchanged; a defective one copied from the reference when it may be, else
repaired from the nearest sound pixels within the span, else left unrepaired and marked so. -/
def Obligations.PixelRepaired : Prop :=
  (∀ (f : RepairFields) (p : Pixel),
    irDefective f p = true ↔ f.irOn = true ∧ p.ir.toNat * 256 < f.irThreshold * f.clearLevel)
    ∧ (∀ (f : RepairFields) (mask : List Nat) (px : List Pixel) (ref : Option (List RefRecord)),
        ∃ marks : List Bool, marks.length = px.length
          ∧ (∀ i (h : i < px.length), marks.getD i false = true ↔
              i ∈ mask ∨ f.irOn = true ∧ px[i].ir.toNat * 256 < f.irThreshold * f.clearLevel)
          ∧ repairPixels f mask px ref = (List.range px.length).map (repairPixel f ⟨px, marks, mask, ref⟩))
    ∧ ∀ (f : RepairFields) (v : RepairView) (i : Nat), i < v.pixels.length →
    let sound (c : Nat) : Prop := c < v.pixels.length ∧ v.defective.getD c true = false
    let left (d : Nat) : Prop := 1 ≤ d ∧ d ≤ i ∧ sound (i - d) ∧ (∀ e, 1 ≤ e → e < d → ¬sound (i - e)) ∧ d ≤ f.spanLimit
    let right (d : Nat) : Prop := 1 ≤ d ∧ sound (i + d) ∧ (∀ e, 1 ≤ e → e < d → ¬sound (i + e)) ∧ d ≤ f.spanLimit
    let copied (ref : List RefRecord) : Prop :=
      let near := [1, 2, 3, 4].flatMap (fun d => (if d ≤ i then [i - d] else []) ++ [i + d])
      let columns := (near.filter (fun c => decide (sound c))).take 4
      i ∉ v.mask ∧ v.reference = some ref ∧ columns ≠ []
        ∧ (columns.map (fun c => (((viewPixel v c).g.toNat : Int) - (ref.getD c zeroRecord).rgb.g.toNat).natAbs)).sum
            / columns.length ≤ f.motionThreshold
        ∧ (ref.getD i zeroRecord).unrepaired = false
    let kind : PixelOutcome := if i ∈ v.mask then .scratch else .spatial
    (v.defective.getD i true = false → repairPixel f v i = (⟨rgbOf (viewPixel v i), false⟩, .sound))
    ∧ (v.defective.getD i true = true →
        (∀ ref, copied ref → repairPixel f v i = (⟨(ref.getD i zeroRecord).rgb, false⟩, .temporal))
        ∧ ((∀ ref, ¬copied ref) →
            (∀ dl dr, left dl → right dr →
              let a := rgbOf (viewPixel v (i - dl))
              let b := rgbOf (viewPixel v (i + dr))
              let mix (x y : Half) : Half := BitVec.ofNat 16 ((x.toNat * dr + y.toNat * dl + (dl + dr) / 2) / (dl + dr))
              repairPixel f v i =
                (⟨if dl + dr ≤ f.spanLimit then ⟨mix a.r b.r, mix a.g b.g, mix a.b b.b⟩ else if dl ≤ dr then a else b, false⟩,
                  kind))
            ∧ (∀ dl, left dl → (∀ dr, ¬right dr) → repairPixel f v i = (⟨rgbOf (viewPixel v (i - dl)), false⟩, kind))
            ∧ (∀ dr, right dr → (∀ dl, ¬left dl) → repairPixel f v i = (⟨rgbOf (viewPixel v (i + dr)), false⟩, kind))
            ∧ ((∀ d, ¬left d) → (∀ d, ¬right d) → repairPixel f v i = (⟨rgbOf (viewPixel v i), true⟩, .unrepaired))))

/-! ## Line path -/

/-- R74, R83, R84, R85: a settled output line is built by Table 6-4 at the fraction of its vertical position, kept, and
offered; a substitution marks the frame INCOMPLETE and counts the line; the highest line read for it becomes the held
line and the READ lines stay in the window. -/
def Obligations.SettledLineIsBuilt : Prop :=
  ∀ (s : State) (job : FrameJob) (copy : ConformanceCopy) (px : List Pixel) (sub : Bool),
    s.conformance.mode = .gathering job → s.conformance.copy = some copy →
    (∀ n ∈ job.needed, n.verdict = .read ∨ n.verdict = .kept ∨ n.verdict = .unavailable) →
    let y := 16 * job.top + ((16 * copy.fields.v0 + 256 * job.j) * job.appliedS + 32768) / 65536
    let f := y % 256
    let build (a b : List Pixel) := horizontalLine copy.wIn job.columns (verticalIntermediate f a b)
    let held := match s.conformance.held with
      | .initial => List.replicate copy.wIn ⟨0#16, 0#16, 0#16, 0#16⟩
      | .line _ x => x
    let got (n : NeededLine) := n.verdict = .read ∨ n.verdict = .kept
    let stored (n : NeededLine) := windowPixels s.conformance.window n.line
    (∃ a, job.needed = [a] ∧ (got a ∧ px = build (stored a) (stored a) ∧ sub = false ∨ ¬got a ∧ px = build held held ∧ sub = true))
      ∨ (∃ a b, job.needed = [a, b]
          ∧ (got a ∧ got b ∧ px = build (stored a) (stored b) ∧ sub = false
            ∨ got a ∧ ¬got b ∧ px = build (stored a) (stored a) ∧ sub = true
            ∨ ¬got a ∧ got b ∧ px = build held (stored b) ∧ sub = true
            ∨ ¬got a ∧ ¬got b ∧ job.previous = some px ∧ sub = true
            ∨ ¬got a ∧ ¬got b ∧ job.previous = none ∧ px = build held held ∧ sub = true)) →
    advanceLine s =
      { s with
        contexts := if sub = true then
            changeContext job.frame (fun c => { c with incomplete := true, substituted := c.substituted + 1 }) s.contexts
          else s.contexts,
        conformance :=
          { s.conformance with
            mode := .offering { job with previous := some px } ⟨job.frame, job.j, px⟩,
            held := match (job.needed.filter (fun n => n.verdict == .read)).getLast? with
              | some n => .line n.line (stored n)
              | none => s.conformance.held,
            window := s.conformance.window.filter (fun x =>
              job.needed.any (fun n => n.line == x.number && (n.verdict == .read || n.verdict == .kept))) } }

/-- R69: the availability of a ring line, the first row of Table 5-4 that holds; that a line is in an intake write only
while that write is not stale is the model's reading (LE 28). R81, R82: an engine GATHERING with a
needed line not yet settled presents a read for the lowest AVAILABLE one, if no read of its own is presented or in
transfer (a discarded one is not its own, LE 33), and asks again about its PENDING lines when a change is reported.
R82, R68: the completion of a conformance read: discarded, it changes nothing in the engine; else the line enters the
source window, its verdict becomes READ, and the engine goes on to build the line or to read the next. R91, R92, R68:
the completion of a reference read: discarded, it changes nothing in the engine; else the line in hand is repaired with
the stored records and the write presented. -/
def Obligations.ReadsPresentedAndCompleted : Prop :=
  (∀ (s : State) (p : MemoryPlan) (l : Nat), s.frameMemory.plan = some p →
    let standing : Prop := tableGet s.frameMemory.slots (l % p.r) = some l
    let ended : Prop := ∃ m, s.intake.endMark = some m ∧ m ≤ l
    let coming : Prop := (∃ e ∈ s.intake.staging, e.number = l)
      ∨ (∃ slot a px, s.frameMemory.channel = some (.intakeWrite l slot a px false)) ∨ s.intake.writeLine ≤ l
    (standing → availability s l = .available)
      ∧ (¬standing → ended ∨ ¬coming → availability s l = .unavailable)
      ∧ (¬standing → ¬ended → coming → availability s l = .pending))
    ∧ (∀ (s : State) (job : FrameJob) (copy : ConformanceCopy), s.conformance.mode = .gathering job →
        s.conformance.copy = some copy →
        (∃ n ∈ job.needed, n.verdict = .available ∨ n.verdict = .pending) →
        let own : Prop := s.conformance.readRequest ≠ none
          ∨ ∃ l a k, s.frameMemory.channel = some (.conformanceRead l a k false)
        (own ∨ (∀ n ∈ job.needed, n.verdict ≠ .available) → advanceLine s = s)
          ∧ ∀ before n after, ¬own → job.needed = before ++ n :: after → n.verdict = .available →
              (∀ z ∈ before, z.verdict ≠ .available) →
              advanceLine s = { s with conformance := { s.conformance with readRequest := some n.line } })
    ∧ (∀ s : State,
        ((∀ job, s.conformance.mode ≠ .gathering job) → reportChange s = s)
          ∧ ∀ job, s.conformance.mode = .gathering job →
              reportChange s = advanceLine
                { s with
                  conformance :=
                    { s.conformance with
                      mode := .gathering
                        { job with
                          needed := job.needed.map (fun n =>
                            if n.verdict = .pending then { n with verdict := availability s n.line } else n) } } })
    ∧ (∀ (s : State) (line address n : Nat) (discard : Bool),
    s.frameMemory.channel = some (.conformanceRead line address n discard) → address + 8 * n ≤ s.frameMemory.size →
    let free : State := { s with frameMemory := { s.frameMemory with channel := none } }
    (discard = true ∨ (∀ job, s.conformance.mode ≠ .gathering job) →
      exec .conformanceReadComplete s = .next (settleStall free))
    ∧ ∀ job, discard = false → s.conformance.mode = .gathering job →
        exec .conformanceReadComplete s = .next (settleStall (advanceLine
          { free with
            conformance :=
              { s.conformance with
                window := s.conformance.window.filter (fun x =>
                    job.needed.any (fun k => k.line == x.number && k.line != line))
                  ++ [⟨line, readPixels s.frameMemory address n⟩],
                mode := .gathering
                  { job with
                    needed := job.needed.map (fun k => if k.line = line then { k with verdict := .read } else k) } } })))
    ∧ (∀ (s : State) (address n : Nat) (discard : Bool),
    s.frameMemory.channel = some (.referenceRead address n discard) → address + 8 * n ≤ s.frameMemory.size →
    (discard = true →
      exec .referenceReadComplete s = .next (settleStall { s with frameMemory := { s.frameMemory with channel := none } }))
    ∧ ∀ hand copy, discard = false → s.repair.mode = .fetching hand → s.repair.copy = some copy →
        let ref := (readPixels s.frameMemory address n).map (fun p => (⟨⟨p.r, p.g, p.b⟩, p.ir == 1#16⟩ : RefRecord))
        let out := repairPixels copy.fields s.repair.mask hand.line.pixels (some ref)
        exec .referenceReadComplete s = .next (settleStall
          { s with
            frameMemory := { s.frameMemory with channel := none },
            contexts := changeContext hand.line.frame
              (fun x =>
                { x with
                  temporal := x.temporal + (out.filter (fun y => y.2 == .temporal)).length,
                  spatial := x.spatial + (out.filter (fun y => y.2 == .spatial)).length,
                  scratchPixels := x.scratchPixels + (out.filter (fun y => y.2 == .scratch)).length,
                  unrepaired := x.unrepaired + (out.filter (fun y => y.2 == .unrepaired)).length })
              s.contexts,
            repair :=
              { s.repair with
                mode := .passing ⟨hand.line.frame, hand.line.j, out.map (·.1), hand.incomplete, false, false⟩,
                columnCounters := if copy.fields.irOn = true then
                    advanceCounters s.repair.columnCounters (hand.line.pixels.map (irDefective copy.fields))
                  else s.repair.columnCounters,
                writeRequest := true } }))

/-- R85, R86, R81: when the Repair Engine takes the offered line, the engine gathers the next output line of the frame,
with its needed lines by R74; past the last one the frame is finished and the engine takes the oldest unfinished context
at output line 0 (R80), or is IDLE. R100, R106, R101: the mask is the columns below W_out of the LOADED, TRACKED and
FADING entries, a splice turns TRACKED into FADING with miss count 0, and a line adds 1 to the counter of each
IR-defective column. R89, R90, R91, R92, R95, R99: REPAIR_TAKE_LINE: with temporal repair the engine fetches the
reference line, else it repairs the line at once, counts the outcomes in the frame's context and presents the write. The
Conformance Engine goes on as R85 and R86 say. At line 0 the frame start of R90 comes first, all of it written out. -/
def Obligations.RepairTakesLine : Prop :=
  (∀ (s : State) (job : FrameJob) (line : OutputLine) (copy : ConformanceCopy), s.conformance.mode = .offering job line →
    s.conformance.copy = some copy →
    (job.j + 1 < copy.fields.hOut →
      lineTaken s = advanceLine
        { s with
          conformance :=
            { s.conformance with
              mode := .gathering
                { job with
                  j := job.j + 1, needed := linesAsked copy.fields.v0 job.top job.appliedS (job.j + 1) s } } })
    ∧ (copy.fields.hOut ≤ job.j + 1 →
        let cs := changeContext job.frame (fun c => { c with finished := true }) s.contexts
        ((∀ c ∈ cs, c.finished = true ∨ c.aborted = true) →
          lineTaken s = { s with contexts := cs, conformance := { s.conformance with mode := .idle, window := [] } })
        ∧ ∀ before c after, cs = before ++ c :: after → (∀ x ∈ before, x.finished = true ∨ x.aborted = true) →
            c.finished = false → c.aborted = false → lineTaken s = frameBegun copy c { s with contexts := cs }))
    ∧ (∀ (wOut : Nat) (es : List ScratchEntry) (c : Nat), c ∈ maskOf wOut es ↔
        c < wOut ∧ ∃ e ∈ es, e.left ≤ c ∧ c < e.left + e.width
          ∧ (e.origin = .loaded ∨ ∃ n, e.origin = .learned .tracked n ∨ e.origin = .learned .fading n))
    ∧ (∀ e : ScratchEntry,
        (∀ n, e.origin = .learned .tracked n → fadeEntry e = { e with origin := .learned .fading n, miss := 0 })
        ∧ ((∀ n, e.origin ≠ .learned .tracked n) → fadeEntry e = e))
    ∧ (∀ (counters : List Nat) (marks : List Bool) (k : Nat),
        (advanceCounters counters marks).getD k 0 =
          if marks.getD k false = true then counters.getD k 0 + 1 else counters.getD k 0)
    ∧ (∀ (s : State) (copy : RepairCopy) (job : FrameJob) (line : OutputLine) (c : FrameContext), s.repair.mode = .waiting →
    s.repair.copy = some copy → s.conformance.mode = .offering job line → contextOf s line.frame = some c →
    let fill : Buffer := if s.repair.lastWritten = some .a then .b else .a
    let usable := match s.repair.lastWritten with
      | none => false
      | some x => (match (if x = .a then s.repair.recordA else s.repair.recordB) with
        | .valid n q => n + 1 == c.frame && q == c.reelSequence && !c.splice
        | _ => false)
    let table := if c.splice = true then s.repair.scratches.map fadeEntry else s.repair.scratches
    let begun : State :=
      { s with
        contexts := changeContext line.frame (fun x => { x with referenceUsed := usable }) s.contexts,
        repair :=
          { s.repair with
            recordA := if fill = .a then .filling c.frame c.reelSequence else s.repair.recordA,
            recordB := if fill = .b then .filling c.frame c.reelSequence else s.repair.recordB,
            temporal := usable, scratches := table, mask := maskOf copy.wOut table,
            columnCounters := List.replicate copy.wOut 0 } }
    let u : State := if line.j = 0 then begun else s
      ∃ t, exec .repairTakeLine s = .next t
        ∧ t.conformance = (lineTaken u).conformance
        ∧ (u.repair.temporal = true →
            t.repair = { u.repair with mode := .fetching ⟨line, c.incomplete⟩, readRequest := true }
              ∧ t.contexts = (lineTaken u).contexts)
        ∧ (u.repair.temporal = false →
            let out := repairPixels copy.fields u.repair.mask line.pixels none
            t.repair =
                { u.repair with
                  mode := .passing ⟨line.frame, line.j, out.map (·.1), c.incomplete, false, false⟩,
                  columnCounters := if copy.fields.irOn = true then
                      advanceCounters u.repair.columnCounters (line.pixels.map (irDefective copy.fields))
                    else u.repair.columnCounters,
                  writeRequest := true }
              ∧ t.contexts = changeContext line.frame
                  (fun x =>
                    { x with
                      temporal := x.temporal + (out.filter (fun y => y.2 == .temporal)).length,
                      spatial := x.spatial + (out.filter (fun y => y.2 == .spatial)).length,
                      scratchPixels := x.scratchPixels + (out.filter (fun y => y.2 == .scratch)).length,
                      unrepaired := x.unrepaired + (out.filter (fun y => y.2 == .unrepaired)).length })
                  (lineTaken u).contexts)
        ∧ t.pending = s.pending ∧ t.formats = s.formats ∧ t.intake = s.intake ∧ t.tracker = s.tracker ∧ t.pace = s.pace
        ∧ t.frameMemory = s.frameMemory ∧ t.grading = s.grading ∧ t.reel = s.reel ∧ t.interpreter = s.interpreter
        ∧ t.notices = s.notices ∧ t.delivery = { s.delivery with stall := t.delivery.stall })

/-- R92, R94, R95, R101, R68: the completion of a reference write stores the records at the transfer's address and no
other byte; unreported it changes nothing else; else it ends one obligation of the line in hand, and with the other
ended too the engine is WAITING, after the frame end at the last line, in IR mode ON with the Scratch Table updated
(ScratchTableUpdated) and one SCRATCH_FULL for each run discarded (R104). -/
def Obligations.ReferenceWriteCompletes : Prop :=
  ∀ (s : State) (address : Nat) (records : List RefRecord) (unreported : Bool),
    s.frameMemory.channel = some (.referenceWrite address records unreported) →
    address + 8 * records.length ≤ s.frameMemory.size →
    ∃ t, exec .referenceWriteComplete s = .next t
      ∧ t.frameMemory = { s.frameMemory with channel := none, bytes := t.frameMemory.bytes }
      ∧ (∀ a, a < address ∨ address + 8 * records.length ≤ a → readByte t.frameMemory a = readByte s.frameMemory a)
      ∧ readPixels t.frameMemory address records.length =
          records.map (fun x => ⟨x.rgb.r, x.rgb.g, x.rgb.b, if x.unrepaired = true then 1#16 else 0#16⟩)
      ∧ (unreported = true → t.repair = s.repair ∧ t.notices = s.notices)
      ∧ (∀ hand copy, unreported = false → s.repair.mode = .passing hand → s.repair.copy = some copy →
          (hand.taken = false →
            t.repair = { s.repair with mode := .passing { hand with written := true } } ∧ t.notices = s.notices)
          ∧ (hand.taken = true → hand.j + 1 < copy.hOut →
              t.repair = { s.repair with mode := .waiting } ∧ t.notices = s.notices)
          ∧ (hand.taken = true → copy.hOut ≤ hand.j + 1 →
              t.repair = repairAfterFrame copy hand s.repair ∧ t.notices = noticesAfterFrame copy hand s.repair s.notices))
      ∧ t.pending = s.pending ∧ t.formats = s.formats ∧ t.intake = s.intake ∧ t.tracker = s.tracker ∧ t.contexts = s.contexts
      ∧ t.pace = s.pace ∧ t.conformance = s.conformance ∧ t.grading = s.grading ∧ t.reel = s.reel
      ∧ t.interpreter = s.interpreter ∧ t.delivery = { s.delivery with stall := t.delivery.stall }

/-- R101, R102, R103, R104, R107: the Scratch Table at a frame end in IR mode ON. The frame's runs are the longest
stretches of at most 16 columns whose counters reach the threshold; each entry in turn takes the lowest-left run that
matches it, its columns at or above W_out apart; every entry is updated by Table 7-5; each matched LEARNED entry then
has its move; each unmatched run is offered, and discarded where it meets an entry or the table is full. A matched
entry that an earlier merge has met has its turn as LE 34 says, and a merge of equal state and first frame keeps a
free choice of the two (LE 13). -/
def Obligations.ScratchTableUpdated : Prop :=
  (∀ (threshold : Nat) (counters : List Nat), 1 ≤ threshold →
    (frameRuns threshold counters).Pairwise (fun a b => a.left + a.width < b.left)
      ∧ ∀ r, r ∈ frameRuns threshold counters ↔
          1 ≤ r.width ∧ r.width ≤ 16
            ∧ (∀ c, r.left ≤ c → c < r.left + r.width → threshold ≤ counters.getD c 0)
            ∧ (∀ c, c + 1 = r.left ∨ c = r.left + r.width → counters.getD c 0 < threshold))
    ∧ (∀ (wOut : Nat) (table : List ScratchEntry) (runs : List ColumnRun),
        runs.Pairwise (fun a b => a.left < b.left) → (∀ r ∈ runs, 1 ≤ r.width) → (∀ e ∈ table, 1 ≤ e.width) →
        let m := matchRuns wOut table runs
        let near (r : ColumnRun) (e : ScratchEntry) : Prop := spansNear r.left r.width e.left (min e.width (wOut - e.left))
        let open_ (before : List (ScratchEntry × Option ColumnRun)) (r : ColumnRun) : Prop :=
          r ∈ runs ∧ ∀ y ∈ before, y.2 ≠ some r
        m.1.map (·.1) = table
          ∧ (∀ before e taken after, m.1 = before ++ (e, taken) :: after →
              (∀ r, taken = some r → open_ before r ∧ near r e ∧ ∀ r', open_ before r' → near r' e → r.left ≤ r'.left)
                ∧ (taken = none → ∀ r, open_ before r → ¬near r e))
          ∧ m.2.Sublist runs ∧ ∀ r, r ∈ m.2 ↔ open_ m.1 r)
    ∧ (∀ e : ScratchEntry,
        let seen := satAdd e.tracked 1
        (e.origin = .loaded →
          updateEntry e true = some { e with tracked := seen } ∧ updateEntry e false = some e)
        ∧ (∀ n, e.origin = .learned .candidate n →
            updateEntry e false = none
              ∧ (e.confirm = 2 → updateEntry e true = some { e with confirm := 3, miss := 0, origin := .learned .tracked n })
              ∧ (e.confirm ≠ 2 → updateEntry e true = some { e with confirm := e.confirm + 1 }))
        ∧ (∀ n, e.origin = .learned .tracked n →
            updateEntry e true = some { e with miss := 0, tracked := seen }
              ∧ (7 ≤ e.miss → updateEntry e false = none)
              ∧ (e.miss < 7 → updateEntry e false = some { e with miss := e.miss + 1, tracked := seen }))
        ∧ ∀ n, e.origin = .learned .fading n →
            updateEntry e true = some { e with miss := 0, tracked := seen, origin := .learned .tracked n }
              ∧ (2 ≤ e.miss → updateEntry e false = none)
              ∧ (e.miss < 2 → updateEntry e false = some { e with miss := e.miss + 1, tracked := seen }))
    ∧ (∀ (mover : ScratchEntry) (r : ColumnRun) (table others : List ScratchEntry), mover ∈ table →
        (∀ e ∈ table, e.slot = mover.slot → e = mover) → 1 ≤ r.width → (∀ e ∈ table, 1 ≤ e.width) →
        others = table.filter (fun e => e.slot != mover.slot) →
        let t := moveEntry mover.slot r table
        let met (e : ScratchEntry) : Prop := spansMeet r.left r.width e.left e.width
        let l (e : ScratchEntry) := min r.left e.left
        let w (e : ScratchEntry) := max (r.left + r.width) (e.left + e.width) - l e
        ((∀ e ∈ others, ¬met e) → t.Perm ({ mover with left := r.left, width := r.width } :: others))
          ∧ ((∃ e ∈ others, met e ∧ e.origin = .loaded) → t = others)
          ∧ (∀ before e after, others = before ++ e :: after → met e → e.origin ≠ .loaded →
              (∀ z ∈ before ++ after, ¬met z ∧ z.slot ≠ e.slot) →
              (w e ≤ 16 → ∃ k, (k = mover ∨ k = e)
                ∧ (advancement e.origin < advancement mover.origin → k = mover)
                ∧ (advancement mover.origin < advancement e.origin → k = e)
                ∧ (advancement mover.origin = advancement e.origin →
                    (firstFrameOf mover.origin < firstFrameOf e.origin → k = mover)
                      ∧ (firstFrameOf e.origin < firstFrameOf mover.origin → k = e))
                ∧ t.Perm ({ k with left := l e, width := w e } :: (before ++ after)))
              ∧ (16 < w e → t = table))
          ∧ ((∃ a b, [a, b].Sublist others ∧ met a ∧ met b) → (∀ e ∈ others, met e → e.origin ≠ .loaded) → t = table))
    ∧ (∀ (frame : Nat) (r : ColumnRun) (table : List ScratchEntry), 1 ≤ r.width → (∀ e ∈ table, 1 ≤ e.width) →
        ((∃ e ∈ table, spansMeet r.left r.width e.left e.width) → offerRun frame r table = (table, 0))
          ∧ ((∀ e ∈ table, ¬spansMeet r.left r.width e.left e.width) →
              (32 ≤ table.length → offerRun frame r table = (table, 1))
              ∧ (table.length < 32 →
                  ∃ slot t, slot < 32 ∧ (∀ e ∈ table, e.slot ≠ slot) ∧ (∀ k < slot, ∃ e ∈ table, e.slot = k)
                    ∧ offerRun frame r table = (t, 0)
                    ∧ t.Perm (⟨slot, r.left, r.width, .learned .candidate frame, 1, 0, 0⟩ :: table))))
    ∧ ∀ (wOut frame threshold : Nat) (counters : List Nat) (table : List ScratchEntry),
        let m := matchRuns wOut table (frameRuns threshold counters)
        let updated := m.1.filterMap (fun y => (updateEntry y.1 y.2.isSome).map (fun e => (e, y.2)))
        let moved := updated.foldl
          (fun t y => match y.2 with
            | some r => if isLearned y.1 = true then moveEntry y.1.slot r t else t
            | none => t) (updated.map (·.1))
        let offered := m.2.foldl (fun z r => ((offerRun frame r z.1).1, z.2 + (offerRun frame r z.1).2)) (moved, 0)
        let u := scratchFrameEnd wOut frame threshold counters table
        u.table = offered.1 ∧ u.discarded = offered.2
          ∧ u.newlyTracked = (m.1.filter (fun y => y.2.isSome && y.1.confirm == 2
              && (match y.1.origin with
                | .learned .candidate _ => true
                | _ => false))).length

/-- R125, R126, R127, R128: the frame start at the Grading Engine: the cues collected and superseded, the candidate
missed or applied, the current set and the dissolve after it, and the grading fields of the frame's context. R127, R111: the
current set and the target set are IN_USE, every other set that was IN_USE is READY, and no set's contents or coverage
change. -/
def Obligations.GradingFrameStarts : Prop :=
  ∀ (s : State) (c : FrameContext) (cand : Option (FiredCue × Fin 4 × Nat)) (miss : Bool) (current : Option (Fin 4))
      (dissolve : Option Dissolve),
    let due := s.grading.cues.filter (fun x => x.trigger ≤ c.frame)
    let standing := match s.grading.dissolve with
      | some x => some x.target
      | none => s.grading.current
    cand = (match due.getLast? with
      | some x => some (.frame x.trigger, x.set, x.d)
      | none => if c.splice = true then s.grading.spliceCues.head?.map (fun x => (.splice, x.set, x.d)) else none) →
    ((cand = none ∧ miss = false ∧ current = s.grading.current ∧ dissolve = s.grading.dissolve)
      ∨ ∃ how set d, cand = some (how, set, d)
          ∧ ((s.grading.sets[set].state = .empty ∨ s.grading.sets[set].state = .loading)
              ∧ miss = true ∧ current = s.grading.current ∧ dissolve = s.grading.dissolve
            ∨ (s.grading.sets[set].state = .ready ∨ s.grading.sets[set].state = .inUse)
              ∧ miss = false
              ∧ ((d = 0 ∨ standing = some set) ∧ current = some set ∧ dissolve = none
                ∨ ¬(d = 0 ∨ standing = some set) ∧ current = standing ∧ dissolve = some ⟨set, d, 0⟩))) →
    let t := gradingFrameStart c s
    t.grading =
        { s.grading with
          cues := s.grading.cues.filter (fun x => c.frame < x.trigger),
          spliceCues := if c.splice = true then s.grading.spliceCues.tail else s.grading.spliceCues,
          current := current, dissolve := dissolve, accumulators := ⟨0, 0, 0, 0⟩, counters := t.grading.counters,
          sets := t.grading.sets }
      ∧ setsFollow current (dissolve.map (·.target)) s.grading t.grading
      ∧ t = { s with grading := t.grading, notices := t.notices, contexts := t.contexts }
      ∧ t.grading.counters =
          { applied := if cand ≠ none ∧ miss = false then satAdd s.grading.counters.applied 1 else s.grading.counters.applied,
            superseded := satAdd s.grading.counters.superseded
              (due.length - 1 + if due ≠ [] ∧ c.splice = true ∧ s.grading.spliceCues ≠ [] then 1 else 0),
            misses := if miss = true then satAdd s.grading.counters.misses 1 else s.grading.counters.misses }
      ∧ (t.notices = if miss = true then setNotice s.notices .gradeMiss (occur s.notices.gradeMiss) else s.notices)
      ∧ t.contexts = changeContext c.frame
          (fun x =>
            { x with
              currentSet := current, targetSet := dissolve.map (·.target),
              weight := (match dissolve with
                | some y => 256 * (y.k + 1) / (y.d + 1)
                | none => 0),
              firedCue := cand.map (·.1), gradeMiss := miss }) s.contexts

/-- R124, R130: GRADING_TAKE_LINE: at line 0 the frame start comes first (GradingFrameStarts) and the FRAME_HEAD is
owed; the line is graded, every pixel through the current set alone or, while a dissolve runs, blended with the target
set at the dissolve's weight (R119, R120, R128; PixelGraded), measured and owed, the frame's clipped count and, at the
last line, its means are written and the FRAME_TAIL is owed. R92, R95: the Repair Engine's obligation ends; with its
write ended too the engine is WAITING, after the frame end at the last line. -/
def Obligations.GradingTakesLine : Prop :=
  (∀ (s u : State) (hand : RepairedHand) (w h : Nat) (now : Fin 4), s.grading.mode = .waiting →
    s.repair.mode = .passing hand → hand.taken = false → s.grading.raster = some (w, h) → s.grading.current ≠ none →
    (0 < hand.j ∧ u = s ∨ hand.j = 0 ∧ ∃ c, contextOf s hand.frame = some c ∧ u = gradingFrameStart c s) →
    u.grading.current = some now →
      let px := hand.records.map (·.rgb)
      let graded := px.map (fun q => match u.grading.dissolve with
        | none => gradePixel u.grading.sets[now] none 0 q
        | some d => gradePixel u.grading.sets[now] (some u.grading.sets[d.target]) (256 * (d.k + 1) / (d.d + 1)) q)
      let acc : Accumulators :=
        ⟨u.grading.accumulators.sumR + (px.map (fun p => p.r.toNat)).sum,
          u.grading.accumulators.sumG + (px.map (fun p => p.g.toNat)).sum,
          u.grading.accumulators.sumB + (px.map (fun p => p.b.toNat)).sum,
          u.grading.accumulators.clipped + (graded.filter (·.clipped)).length⟩
      ∃ t, exec .gradingTakeLine s = .next t
        ∧ t.grading =
            { u.grading with
              accumulators := acc,
              mode := .placing
                ⟨hand.frame, hand.j, graded.map (·.px),
                  (if hand.j = 0 then [.head] else []) ++ [.lineOut] ++ (if hand.j + 1 = h then [.tail] else [])⟩ }
        ∧ t.contexts = changeContext hand.frame
            (fun c =>
              if hand.j + 1 = h then
                { c with
                  clipped := acc.clipped, meanR := acc.sumR / (w * h), meanG := acc.sumG / (w * h),
                  meanB := acc.sumB / (w * h) }
              else { c with clipped := acc.clipped }) u.contexts
        ∧ (hand.written = false →
            t.repair = { s.repair with mode := .passing { hand with taken := true } } ∧ t.notices = u.notices)
        ∧ (∀ copy, hand.written = true → s.repair.copy = some copy →
            (hand.j + 1 < copy.hOut → t.repair = { s.repair with mode := .waiting } ∧ t.notices = u.notices)
              ∧ (copy.hOut ≤ hand.j + 1 →
                  t.repair = repairAfterFrame copy hand s.repair
                    ∧ t.notices = noticesAfterFrame copy hand s.repair u.notices))
        ∧ t.pending = s.pending ∧ t.formats = s.formats ∧ t.intake = s.intake ∧ t.tracker = s.tracker ∧ t.pace = s.pace
        ∧ t.frameMemory = s.frameMemory ∧ t.conformance = s.conformance ∧ t.reel = s.reel
        ∧ t.interpreter = s.interpreter ∧ t.delivery = { s.delivery with stall := t.delivery.stall })
    ∧ ∀ (s : State) (c : FrameContext), s.grading.current ≠ none → (gradingFrameStart c s).grading.current ≠ none

/-- R124, R131, R128: PLACE_PACKET places the first packet owed at the tail of the output line queue while it holds
fewer than 8; the last one leaves the engine WAITING, and placing a FRAME_TAIL advances a running dissolve, which ends
at D: the target set becomes the current set, every other set that was IN_USE is READY, and no set's contents or coverage
change (R111). -/
def Obligations.PacketPlaced : Prop :=
  ∀ (s : State) (hand : GradedHand) (o : Owed) (rest : List Owed) (c : FrameContext), s.grading.mode = .placing hand →
    hand.owed = o :: rest → contextOf s hand.frame = some c →
    (8 ≤ s.delivery.queue.length → exec .placePacket s = .next (settleStall s))
    ∧ (s.delivery.queue.length < 8 →
        ∃ t, exec .placePacket s = .next t
          ∧ t.delivery =
              { s.delivery with
                queue := s.delivery.queue ++ [match o with
                  | .head => .head c
                  | .lineOut => .lineOut hand.frame hand.j hand.pixels
                  | .tail => .tail c],
                stall := t.delivery.stall }
          ∧ t.grading =
              { s.grading with
                mode := if rest = [] then .waiting else .placing { hand with owed := rest },
                sets := t.grading.sets, current := t.grading.current, dissolve := t.grading.dissolve }
          ∧ (o ≠ .tail ∨ s.grading.dissolve = none →
              t.grading.sets = s.grading.sets ∧ t.grading.current = s.grading.current
                ∧ t.grading.dissolve = s.grading.dissolve)
          ∧ (∀ x, o = .tail → s.grading.dissolve = some x →
              (x.k + 1 ≠ x.d → t.grading.sets = s.grading.sets ∧ t.grading.current = s.grading.current
                ∧ t.grading.dissolve = some { x with k := x.k + 1 })
              ∧ (x.k + 1 = x.d → t.grading.current = some x.target ∧ t.grading.dissolve = none
                ∧ setsFollow (some x.target) none s.grading t.grading))
          ∧ t.pending = s.pending ∧ t.formats = s.formats ∧ t.intake = s.intake ∧ t.tracker = s.tracker
          ∧ t.contexts = s.contexts ∧ t.pace = s.pace ∧ t.frameMemory = s.frameMemory ∧ t.conformance = s.conformance
          ∧ t.repair = s.repair ∧ t.reel = s.reel ∧ t.interpreter = s.interpreter ∧ t.notices = s.notices)

/-! ## Delivery Port and classification -/

/-- R13, R161: DELIVERY_CHOICE with the link free and a credit: the first reply of the fill order, else the notice of
the lowest-numbered PENDING class, else the head ticket, else the head frame packet; it takes one credit and leaves
the packet where it is. With the link busy, no credit or nothing waiting, nothing happens. Where the fields stand in each
payload is said by PacketsCarryTheirCrc. -/
def Obligations.DeliveryChooses : Prop :=
  ∀ s : State,
    let send (x : Source) (run : List Byte) : State :=
      { s with delivery := { s.delivery with pool := s.delivery.pool - 1, transmission := some ⟨x, run, false⟩ } }
    (s.delivery.transmission ≠ none ∨ s.delivery.pool = 0 → exec .deliveryChoice s = .next (settleStall s))
    ∧ (s.delivery.transmission = none → 0 < s.delivery.pool →
        (∀ x rest r, s.interpreter.fillOrder = x :: rest →
          x = .reserved ∧ s.interpreter.reserved = some r ∨ (∃ i, x = .ordinary i ∧ s.interpreter.ordinary[i] = .filled r) →
          exec .deliveryChoice s = .next (settleStall (send .reply (packetRun 0x20#8 (replyPayload r)))))
        ∧ (s.interpreter.fillOrder = [] →
            (∀ c k, (noticeOf s.notices c).latch = .pending k →
              (∀ d m, (noticeOf s.notices d).latch = .pending m → classNumber c ≤ classNumber d) →
              exec .deliveryChoice s = .next (settleStall (send (.notice c) (packetRun 0x21#8 (noticePayload c k)))))
            ∧ ((∀ d m, (noticeOf s.notices d).latch ≠ .pending m) →
                (∀ k rest, s.reel.tickets = k :: rest →
                  exec .deliveryChoice s = .next (settleStall (send .ticket (packetRun 0x22#8 (ticketPayload k)))))
                ∧ (s.reel.tickets = [] →
                    (∀ c rest, s.delivery.queue = .head c :: rest →
                      exec .deliveryChoice s = .next (settleStall
                        { send .framePacket (packetRun 0x10#8 (headPayload c)) with
                          contexts := changeContext c.frame (fun x => { x with opened := true }) s.contexts }))
                    ∧ (∀ frame j px rest, s.delivery.queue = .lineOut frame j px :: rest →
                        exec .deliveryChoice s =
                          .next (settleStall (send .framePacket (packetRun 0x11#8 (lineOutPayload frame j px)))))
                    ∧ (∀ c rest, s.delivery.queue = .tail c :: rest →
                        exec .deliveryChoice s =
                          .next (settleStall (send .framePacket (packetRun 0x12#8 (tailPayload c)))))
                    ∧ (s.delivery.queue = [] → exec .deliveryChoice s = .next (settleStall s))))))

/-- R13, R16, R142, R149, R151, R152: TRANSMISSION_COMPLETE: the packet leaves its source and its owner is told: the
reply's slot is FREE and the head command may start in it, the latch is RAISED, the ticket departs and lets a held one
take its place, which answers the close, and the commands behind the close start while a slot is FREE (R138, R153), the
frame packet's entry is free, and a FRAME_TAIL retires the head context into the Reel Record unless it is ABORTED. After a SOFT_RESET
a frame packet's entry is freed and nothing else (LE 11). That the raster added to pixels delivered is the one that the
Grading Engine copied at REEL_OPEN is the model's reading of R142 (LE 30). -/
def Obligations.TransmissionCompletes : Prop :=
  ∀ (s : State) (x : Source) (run : List Byte) (detached : Bool), s.delivery.transmission = some ⟨x, run, detached⟩ →
    let free : State := { s with delivery := { s.delivery with transmission := none } }
    let freed : Interpreter := match s.interpreter.fillOrder with
      | [] => s.interpreter
      | .reserved :: rest => { s.interpreter with reserved := none, fillOrder := rest }
      | .ordinary i :: rest => { s.interpreter with ordinary := s.interpreter.ordinary.set i .free, fillOrder := rest }
    (detached = true →
      exec .transmissionComplete s = .next (settleStall
        (if x = .framePacket then { free with delivery := { free.delivery with queue := s.delivery.queue.tail } } else free)))
    ∧ (detached = false →
        (∀ c, x = .notice c →
          exec .transmissionComplete s = .next (settleStall
            { free with
              notices := setNotice s.notices c
                (match (noticeOf s.notices c).latch with
                  | .pending _ => { noticeOf s.notices c with latch := .raised }
                  | _ => noticeOf s.notices c) }))
        ∧ (x = .reply →
            (s.interpreter.queue = [] ∨ s.interpreter.inFlight ≠ none →
              exec .transmissionComplete s = .next (settleStall { free with interpreter := freed }))
            ∧ ∀ c tag, c ≠ .wrongLength → s.interpreter.queue = [⟨codeOf c, tag, c⟩] → s.interpreter.inFlight = none →
                exec .transmissionComplete s = exec (rowOf tag c)
                  { free with interpreter := { freed with queue := [] } })
        ∧ (x = .reply →
            ∃ t, HeadsStart { free with interpreter := freed } t ∧ exec .transmissionComplete s = .next (settleStall t))
        ∧ (x = .ticket → s.reel.state ≠ .ticketWait →
            let departed : State := { free with reel := { s.reel with tickets := s.reel.tickets.tail } }
            (s.interpreter.queue = [] ∨ s.interpreter.inFlight ≠ none ∨ freeSlot s.interpreter = none →
              exec .transmissionComplete s = .next (settleStall departed))
            ∧ ∃ t, HeadsStart departed t ∧ exec .transmissionComplete s = .next (settleStall t))
        ∧ (∀ k q rest j, x = .ticket → s.reel.state = .ticketWait → s.reel.held = some k → s.interpreter.queue = q :: rest →
            s.interpreter.inFlight = some j →
            let closed : State :=
              { free with
                reel := { s.reel with state := .noReel, held := none, tickets := s.reel.tickets.tail ++ [k] },
                notices := setNotice s.notices .ticketReady (occur s.notices.ticketReady),
                pace := { s.pace with effective := 0, spinUp := none },
                interpreter :=
                  { s.interpreter with
                    queue := rest, inFlight := none,
                    ordinary := s.interpreter.ordinary.set j
                      (.filled ⟨q.code, q.tag, .ok, [word k.reelSequence.toNat, word k.cls]⟩),
                    fillOrder := s.interpreter.fillOrder ++ [.ordinary j] } }
            (rest = [] → exec .transmissionComplete s = .next (settleStall closed))
            ∧ ∃ t, HeadsStart closed t ∧ exec .transmissionComplete s = .next (settleStall t))
        ∧ (x = .framePacket →
            (∀ p rest, s.delivery.queue = p :: rest → (∀ c, p ≠ .tail c) →
              exec .transmissionComplete s = .next (settleStall
                { free with delivery := { free.delivery with queue := rest } }))
            ∧ ∀ k rest c others, s.delivery.queue = .tail k :: rest → s.contexts = c :: others →
                (c.aborted = true →
                  exec .transmissionComplete s = .next (settleStall
                    { free with delivery := { free.delivery with queue := rest }, contexts := others }))
                ∧ ∀ w h, c.aborted = false → s.grading.raster = some (w, h) →
                    exec .transmissionComplete s = .next (settleStall
                      { free with
                        delivery := { free.delivery with queue := rest }, contexts := others,
                        reel :=
                          { s.reel with
                            record :=
                              { s.reel.record with
                                framesDelivered := satAdd s.reel.record.framesDelivered 1,
                                framesIncomplete := satAdd s.reel.record.framesIncomplete (if c.incomplete then 1 else 0),
                                substitutedLines := satAdd s.reel.record.substitutedLines c.substituted,
                                sumS := s.reel.record.sumS + c.appliedS,
                                minS := some (match s.reel.record.minS with
                                  | some m => if m < c.appliedS then m else c.appliedS
                                  | none => c.appliedS),
                                maxS := some (match s.reel.record.maxS with
                                  | some m => if c.appliedS < m then m else c.appliedS
                                  | none => c.appliedS),
                                temporal := s.reel.record.temporal + c.temporal,
                                spatial := s.reel.record.spatial + c.spatial,
                                scratchPixels := s.reel.record.scratchPixels + c.scratchPixels,
                                unrepaired := s.reel.record.unrepaired + c.unrepaired,
                                clipped := s.reel.record.clipped + c.clipped,
                                pixelsDelivered := s.reel.record.pixelsDelivered + w * h,
                                sumMeanR := s.reel.record.sumMeanR + c.meanR,
                                sumMeanB := s.reel.record.sumMeanB + c.meanB } } })))

/-- R137, R138, R143, R147, R148, R149: CLASSIFICATION of a close that is ready: the counters copied, the metrics
computed, the matched rows and the class found, the ticket joined with TICKET_READY, the reel NO_REEL and the close
answered OK with sequence and class, and the commands behind it start while a slot is FREE (R152, R153); with the Ticket
Queue full the ticket is held, the reel is in TICKET_WAIT and the close stays in flight. Either way the Grading Engine
takes its values of the end of a close (R132), the level is 0 (R51), and the other blocks stand. A close that is not ready waits. R144 (Table 9-5): the twelve metrics of a Reel Record, 0 where
a denominator is 0. -/
def Obligations.ReelClassified : Prop :=
  (∀ (s : State) (x : ReelIdentity), s.reel.identity = some x →
    let ready := s.reel.state = .closing ∧ s.intake.mode = .closed ∧ s.contexts = [] ∧ s.repair.mode = .waiting
    (¬ready → exec .classification s = .next (settleStall s))
    ∧ ∀ (rows : List (Nat × ShelvingRow)) (cls : Nat) (entry : Option ClassEntry) (k : Ticket), ready →
        let record := recordAtEnd s s.reel.record
        let m := metricsOf record
        let holds (row : ShelvingRow) : Prop := match row.comparison with
          | .atLeast => row.threshold ≤ m.getD (row.metric - 1) 0
          | .atMost => m.getD (row.metric - 1) 0 ≤ row.threshold
        rows.Pairwise (fun a b => a.1 < b.1) →
        (∀ (i : Nat) (row : ShelvingRow), (i, row) ∈ rows ↔ ∃ h : i < 16, s.reel.shelving[i] = some row ∧ holds row) →
        ((rows = [] ∧ cls = 1) ∨ (∃ r ∈ rows, r.2.cls = cls) ∧ ∀ r ∈ rows, r.2.cls ≤ cls) →
        (∃ h : 1 ≤ cls ∧ cls ≤ 5, entry = s.reel.classes[cls - 1]) →
        k =
          { reelSequence := s.reel.sequence, accession := x.accession, reelNumber := x.reelNumber, format := x.format.val,
            cls := cls, previousClass := x.previousClass,
            change := x.previousClass.map (fun p => if cls < p then .better else if cls = p then .same else .worse),
            zone := (match entry with
              | some e => e.zone
              | none => 0),
            interval := (match entry with
              | some e => e.interval
              | none => 0),
            flags := (match entry with
              | some e => e.flags
              | none => ⟨false, false, false, false⟩),
            classUnset := decide (entry = none), matchedRows := rows.map (·.1), metrics := m,
            framesDelivered := s.reel.record.framesDelivered, framesLost := s.tracker.counters.framesLost, aborted := false } →
        let released (u : State) : Prop :=
          u.pace = { s.pace with effective := 0, spinUp := none }
            ∧ u.grading =
                { s.grading with
                  mode := .waiting, sets := u.grading.sets, current := none, dissolve := none, accumulators := ⟨0, 0, 0, 0⟩ }
            ∧ setsReleased s u
            ∧ u.pending = s.pending ∧ u.formats = s.formats ∧ u.intake = s.intake ∧ u.tracker = s.tracker ∧ u.contexts = []
            ∧ u.frameMemory = s.frameMemory ∧ u.conformance = s.conformance ∧ u.repair = s.repair
            ∧ u.delivery = s.delivery
        (4 ≤ s.reel.tickets.length → s.interpreter.inFlight ≠ none →
          ∃ u, exec .classification s = .next (settleStall u)
            ∧ u.reel = { s.reel with state := .ticketWait, record := record, lastMetrics := some m, held := some k }
            ∧ u.interpreter = s.interpreter ∧ u.notices = s.notices ∧ released u)
        ∧ (∀ (q : QueuedCommand) (rest : List QueuedCommand) (j : Fin 8), s.reel.tickets.length < 4 →
            s.interpreter.queue = q :: rest → s.interpreter.inFlight = some j →
            ∃ u t, HeadsStart u t ∧ exec .classification s = .next (settleStall t)
              ∧ (rest = [] → t = u)
              ∧ u.reel =
                  { s.reel with
                    state := .noReel, record := record, lastMetrics := some m, held := none,
                    tickets := s.reel.tickets ++ [k] }
              ∧ u.interpreter =
                  { s.interpreter with
                    queue := rest, inFlight := none,
                    ordinary := s.interpreter.ordinary.set j
                      (.filled ⟨q.code, q.tag, .ok, [word s.reel.sequence.toNat, word cls]⟩),
                    fillOrder := s.interpreter.fillOrder ++ [.ordinary j] }
              ∧ u.notices = setNotice s.notices .ticketReady (occur s.notices.ticketReady) ∧ released u))
    ∧ (∀ r : ReelRecord,
    let per (a b : Nat) : Nat := if b = 0 then 0 else a / b
    let mean := r.sumS / r.framesDelivered
    metricsOf r =
      [if r.framesDelivered = 0 ∨ 65536 ≤ mean then 0 else (65536 - mean) * 1000 / 65536,
        (match r.minS, r.maxS with
          | some a, some b => (b - a) * 1000 / 65536
          | _, _ => 0),
        r.splices, per (r.synthesized * 1000) r.perforationsSeen, r.lockLosses,
        per ((r.temporal + r.spatial) * 1000000) r.pixelsDelivered, per (r.unrepaired * 1000000) r.pixelsDelivered,
        r.scratchesTracked, min (per (1024 * r.sumMeanB) r.sumMeanR) 65535, r.framesLost, r.framesIncomplete,
        per (r.clipped * 1000000) r.pixelsDelivered])
end

