-- ==== Sys2Proof/Laws/State.lean ====
section
/-! SUPPORT. The fields of State after each named update of one block, one lemma a field. -/

namespace Sys2Proof.Machine

/-! ## setTracker -/

@[simp] theorem setTracker_pending (t : Tracker) (s : State) : (setTracker t s).pending = s.pending := rfl
@[simp] theorem setTracker_formats (t : Tracker) (s : State) : (setTracker t s).formats = s.formats := rfl
@[simp] theorem setTracker_intake (t : Tracker) (s : State) : (setTracker t s).intake = s.intake := rfl
@[simp] theorem setTracker_tracker (t : Tracker) (s : State) : (setTracker t s).tracker = t := rfl
@[simp] theorem setTracker_contexts (t : Tracker) (s : State) : (setTracker t s).contexts = s.contexts := rfl
@[simp] theorem setTracker_pace (t : Tracker) (s : State) : (setTracker t s).pace = s.pace := rfl
@[simp] theorem setTracker_frameMemory (t : Tracker) (s : State) : (setTracker t s).frameMemory = s.frameMemory := rfl
@[simp] theorem setTracker_conformance (t : Tracker) (s : State) : (setTracker t s).conformance = s.conformance := rfl
@[simp] theorem setTracker_repair (t : Tracker) (s : State) : (setTracker t s).repair = s.repair := rfl
@[simp] theorem setTracker_grading (t : Tracker) (s : State) : (setTracker t s).grading = s.grading := rfl
@[simp] theorem setTracker_reel (t : Tracker) (s : State) : (setTracker t s).reel = s.reel := rfl
@[simp] theorem setTracker_interpreter (t : Tracker) (s : State) : (setTracker t s).interpreter = s.interpreter := rfl
@[simp] theorem setTracker_notices (t : Tracker) (s : State) : (setTracker t s).notices = s.notices := rfl
@[simp] theorem setTracker_delivery (t : Tracker) (s : State) : (setTracker t s).delivery = s.delivery := rfl

/-! ## setIntake -/

@[simp] theorem setIntake_pending (x : Intake) (s : State) : (setIntake x s).pending = s.pending := rfl
@[simp] theorem setIntake_formats (x : Intake) (s : State) : (setIntake x s).formats = s.formats := rfl
@[simp] theorem setIntake_intake (x : Intake) (s : State) : (setIntake x s).intake = x := rfl
@[simp] theorem setIntake_tracker (x : Intake) (s : State) : (setIntake x s).tracker = s.tracker := rfl
@[simp] theorem setIntake_contexts (x : Intake) (s : State) : (setIntake x s).contexts = s.contexts := rfl
@[simp] theorem setIntake_pace (x : Intake) (s : State) : (setIntake x s).pace = s.pace := rfl
@[simp] theorem setIntake_frameMemory (x : Intake) (s : State) : (setIntake x s).frameMemory = s.frameMemory := rfl
@[simp] theorem setIntake_conformance (x : Intake) (s : State) : (setIntake x s).conformance = s.conformance := rfl
@[simp] theorem setIntake_repair (x : Intake) (s : State) : (setIntake x s).repair = s.repair := rfl
@[simp] theorem setIntake_grading (x : Intake) (s : State) : (setIntake x s).grading = s.grading := rfl
@[simp] theorem setIntake_reel (x : Intake) (s : State) : (setIntake x s).reel = s.reel := rfl
@[simp] theorem setIntake_interpreter (x : Intake) (s : State) : (setIntake x s).interpreter = s.interpreter := rfl
@[simp] theorem setIntake_notices (x : Intake) (s : State) : (setIntake x s).notices = s.notices := rfl
@[simp] theorem setIntake_delivery (x : Intake) (s : State) : (setIntake x s).delivery = s.delivery := rfl

/-! ## setRepair -/

@[simp] theorem setRepair_pending (x : Repair) (s : State) : (setRepair x s).pending = s.pending := rfl
@[simp] theorem setRepair_formats (x : Repair) (s : State) : (setRepair x s).formats = s.formats := rfl
@[simp] theorem setRepair_intake (x : Repair) (s : State) : (setRepair x s).intake = s.intake := rfl
@[simp] theorem setRepair_tracker (x : Repair) (s : State) : (setRepair x s).tracker = s.tracker := rfl
@[simp] theorem setRepair_contexts (x : Repair) (s : State) : (setRepair x s).contexts = s.contexts := rfl
@[simp] theorem setRepair_pace (x : Repair) (s : State) : (setRepair x s).pace = s.pace := rfl
@[simp] theorem setRepair_frameMemory (x : Repair) (s : State) : (setRepair x s).frameMemory = s.frameMemory := rfl
@[simp] theorem setRepair_conformance (x : Repair) (s : State) : (setRepair x s).conformance = s.conformance := rfl
@[simp] theorem setRepair_repair (x : Repair) (s : State) : (setRepair x s).repair = x := rfl
@[simp] theorem setRepair_grading (x : Repair) (s : State) : (setRepair x s).grading = s.grading := rfl
@[simp] theorem setRepair_reel (x : Repair) (s : State) : (setRepair x s).reel = s.reel := rfl
@[simp] theorem setRepair_interpreter (x : Repair) (s : State) : (setRepair x s).interpreter = s.interpreter := rfl
@[simp] theorem setRepair_notices (x : Repair) (s : State) : (setRepair x s).notices = s.notices := rfl
@[simp] theorem setRepair_delivery (x : Repair) (s : State) : (setRepair x s).delivery = s.delivery := rfl

/-! ## setGrading -/

@[simp] theorem setGrading_pending (x : Grading) (s : State) : (setGrading x s).pending = s.pending := rfl
@[simp] theorem setGrading_formats (x : Grading) (s : State) : (setGrading x s).formats = s.formats := rfl
@[simp] theorem setGrading_intake (x : Grading) (s : State) : (setGrading x s).intake = s.intake := rfl
@[simp] theorem setGrading_tracker (x : Grading) (s : State) : (setGrading x s).tracker = s.tracker := rfl
@[simp] theorem setGrading_contexts (x : Grading) (s : State) : (setGrading x s).contexts = s.contexts := rfl
@[simp] theorem setGrading_pace (x : Grading) (s : State) : (setGrading x s).pace = s.pace := rfl
@[simp] theorem setGrading_frameMemory (x : Grading) (s : State) : (setGrading x s).frameMemory = s.frameMemory := rfl
@[simp] theorem setGrading_conformance (x : Grading) (s : State) : (setGrading x s).conformance = s.conformance := rfl
@[simp] theorem setGrading_repair (x : Grading) (s : State) : (setGrading x s).repair = s.repair := rfl
@[simp] theorem setGrading_grading (x : Grading) (s : State) : (setGrading x s).grading = x := rfl
@[simp] theorem setGrading_reel (x : Grading) (s : State) : (setGrading x s).reel = s.reel := rfl
@[simp] theorem setGrading_interpreter (x : Grading) (s : State) : (setGrading x s).interpreter = s.interpreter := rfl
@[simp] theorem setGrading_notices (x : Grading) (s : State) : (setGrading x s).notices = s.notices := rfl
@[simp] theorem setGrading_delivery (x : Grading) (s : State) : (setGrading x s).delivery = s.delivery := rfl

/-! ## setPace -/

@[simp] theorem setPace_pending (x : Pace) (s : State) : (setPace x s).pending = s.pending := rfl
@[simp] theorem setPace_formats (x : Pace) (s : State) : (setPace x s).formats = s.formats := rfl
@[simp] theorem setPace_intake (x : Pace) (s : State) : (setPace x s).intake = s.intake := rfl
@[simp] theorem setPace_tracker (x : Pace) (s : State) : (setPace x s).tracker = s.tracker := rfl
@[simp] theorem setPace_contexts (x : Pace) (s : State) : (setPace x s).contexts = s.contexts := rfl
@[simp] theorem setPace_pace (x : Pace) (s : State) : (setPace x s).pace = x := rfl
@[simp] theorem setPace_frameMemory (x : Pace) (s : State) : (setPace x s).frameMemory = s.frameMemory := rfl
@[simp] theorem setPace_conformance (x : Pace) (s : State) : (setPace x s).conformance = s.conformance := rfl
@[simp] theorem setPace_repair (x : Pace) (s : State) : (setPace x s).repair = s.repair := rfl
@[simp] theorem setPace_grading (x : Pace) (s : State) : (setPace x s).grading = s.grading := rfl
@[simp] theorem setPace_reel (x : Pace) (s : State) : (setPace x s).reel = s.reel := rfl
@[simp] theorem setPace_interpreter (x : Pace) (s : State) : (setPace x s).interpreter = s.interpreter := rfl
@[simp] theorem setPace_notices (x : Pace) (s : State) : (setPace x s).notices = s.notices := rfl
@[simp] theorem setPace_delivery (x : Pace) (s : State) : (setPace x s).delivery = s.delivery := rfl

/-! ## setMemory -/

@[simp] theorem setMemory_pending (x : FrameMemory) (s : State) : (setMemory x s).pending = s.pending := rfl
@[simp] theorem setMemory_formats (x : FrameMemory) (s : State) : (setMemory x s).formats = s.formats := rfl
@[simp] theorem setMemory_intake (x : FrameMemory) (s : State) : (setMemory x s).intake = s.intake := rfl
@[simp] theorem setMemory_tracker (x : FrameMemory) (s : State) : (setMemory x s).tracker = s.tracker := rfl
@[simp] theorem setMemory_contexts (x : FrameMemory) (s : State) : (setMemory x s).contexts = s.contexts := rfl
@[simp] theorem setMemory_pace (x : FrameMemory) (s : State) : (setMemory x s).pace = s.pace := rfl
@[simp] theorem setMemory_frameMemory (x : FrameMemory) (s : State) : (setMemory x s).frameMemory = x := rfl
@[simp] theorem setMemory_conformance (x : FrameMemory) (s : State) : (setMemory x s).conformance = s.conformance := rfl
@[simp] theorem setMemory_repair (x : FrameMemory) (s : State) : (setMemory x s).repair = s.repair := rfl
@[simp] theorem setMemory_grading (x : FrameMemory) (s : State) : (setMemory x s).grading = s.grading := rfl
@[simp] theorem setMemory_reel (x : FrameMemory) (s : State) : (setMemory x s).reel = s.reel := rfl
@[simp] theorem setMemory_interpreter (x : FrameMemory) (s : State) : (setMemory x s).interpreter = s.interpreter := rfl
@[simp] theorem setMemory_notices (x : FrameMemory) (s : State) : (setMemory x s).notices = s.notices := rfl
@[simp] theorem setMemory_delivery (x : FrameMemory) (s : State) : (setMemory x s).delivery = s.delivery := rfl

/-! ## setInterpreter -/

@[simp] theorem setInterpreter_pending (x : Interpreter) (s : State) : (setInterpreter x s).pending = s.pending := rfl
@[simp] theorem setInterpreter_formats (x : Interpreter) (s : State) : (setInterpreter x s).formats = s.formats := rfl
@[simp] theorem setInterpreter_intake (x : Interpreter) (s : State) : (setInterpreter x s).intake = s.intake := rfl
@[simp] theorem setInterpreter_tracker (x : Interpreter) (s : State) : (setInterpreter x s).tracker = s.tracker := rfl
@[simp] theorem setInterpreter_contexts (x : Interpreter) (s : State) : (setInterpreter x s).contexts = s.contexts := rfl
@[simp] theorem setInterpreter_pace (x : Interpreter) (s : State) : (setInterpreter x s).pace = s.pace := rfl
@[simp] theorem setInterpreter_frameMemory (x : Interpreter) (s : State) : (setInterpreter x s).frameMemory = s.frameMemory := rfl
@[simp] theorem setInterpreter_conformance (x : Interpreter) (s : State) : (setInterpreter x s).conformance = s.conformance := rfl
@[simp] theorem setInterpreter_repair (x : Interpreter) (s : State) : (setInterpreter x s).repair = s.repair := rfl
@[simp] theorem setInterpreter_grading (x : Interpreter) (s : State) : (setInterpreter x s).grading = s.grading := rfl
@[simp] theorem setInterpreter_reel (x : Interpreter) (s : State) : (setInterpreter x s).reel = s.reel := rfl
@[simp] theorem setInterpreter_interpreter (x : Interpreter) (s : State) : (setInterpreter x s).interpreter = x := rfl
@[simp] theorem setInterpreter_notices (x : Interpreter) (s : State) : (setInterpreter x s).notices = s.notices := rfl
@[simp] theorem setInterpreter_delivery (x : Interpreter) (s : State) : (setInterpreter x s).delivery = s.delivery := rfl

/-! ## setDelivery -/

@[simp] theorem setDelivery_pending (x : DeliveryPort) (s : State) : (setDelivery x s).pending = s.pending := rfl
@[simp] theorem setDelivery_formats (x : DeliveryPort) (s : State) : (setDelivery x s).formats = s.formats := rfl
@[simp] theorem setDelivery_intake (x : DeliveryPort) (s : State) : (setDelivery x s).intake = s.intake := rfl
@[simp] theorem setDelivery_tracker (x : DeliveryPort) (s : State) : (setDelivery x s).tracker = s.tracker := rfl
@[simp] theorem setDelivery_contexts (x : DeliveryPort) (s : State) : (setDelivery x s).contexts = s.contexts := rfl
@[simp] theorem setDelivery_pace (x : DeliveryPort) (s : State) : (setDelivery x s).pace = s.pace := rfl
@[simp] theorem setDelivery_frameMemory (x : DeliveryPort) (s : State) : (setDelivery x s).frameMemory = s.frameMemory := rfl
@[simp] theorem setDelivery_conformance (x : DeliveryPort) (s : State) : (setDelivery x s).conformance = s.conformance := rfl
@[simp] theorem setDelivery_repair (x : DeliveryPort) (s : State) : (setDelivery x s).repair = s.repair := rfl
@[simp] theorem setDelivery_grading (x : DeliveryPort) (s : State) : (setDelivery x s).grading = s.grading := rfl
@[simp] theorem setDelivery_reel (x : DeliveryPort) (s : State) : (setDelivery x s).reel = s.reel := rfl
@[simp] theorem setDelivery_interpreter (x : DeliveryPort) (s : State) : (setDelivery x s).interpreter = s.interpreter := rfl
@[simp] theorem setDelivery_notices (x : DeliveryPort) (s : State) : (setDelivery x s).notices = s.notices := rfl
@[simp] theorem setDelivery_delivery (x : DeliveryPort) (s : State) : (setDelivery x s).delivery = x := rfl

/-! ## setReel -/

@[simp] theorem setReel_pending (x : ReelController) (s : State) : (setReel x s).pending = s.pending := rfl
@[simp] theorem setReel_formats (x : ReelController) (s : State) : (setReel x s).formats = s.formats := rfl
@[simp] theorem setReel_intake (x : ReelController) (s : State) : (setReel x s).intake = s.intake := rfl
@[simp] theorem setReel_tracker (x : ReelController) (s : State) : (setReel x s).tracker = s.tracker := rfl
@[simp] theorem setReel_contexts (x : ReelController) (s : State) : (setReel x s).contexts = s.contexts := rfl
@[simp] theorem setReel_pace (x : ReelController) (s : State) : (setReel x s).pace = s.pace := rfl
@[simp] theorem setReel_frameMemory (x : ReelController) (s : State) : (setReel x s).frameMemory = s.frameMemory := rfl
@[simp] theorem setReel_conformance (x : ReelController) (s : State) : (setReel x s).conformance = s.conformance := rfl
@[simp] theorem setReel_repair (x : ReelController) (s : State) : (setReel x s).repair = s.repair := rfl
@[simp] theorem setReel_grading (x : ReelController) (s : State) : (setReel x s).grading = s.grading := rfl
@[simp] theorem setReel_reel (x : ReelController) (s : State) : (setReel x s).reel = x := rfl
@[simp] theorem setReel_interpreter (x : ReelController) (s : State) : (setReel x s).interpreter = s.interpreter := rfl
@[simp] theorem setReel_notices (x : ReelController) (s : State) : (setReel x s).notices = s.notices := rfl
@[simp] theorem setReel_delivery (x : ReelController) (s : State) : (setReel x s).delivery = s.delivery := rfl

/-! ## setChannel, setNotice, raise, writeContext, forgetBytes, writeBytes -/

@[simp] theorem setChannel_pending (t : Option Transfer) (s : State) : (setChannel t s).pending = s.pending := rfl
@[simp] theorem setChannel_formats (t : Option Transfer) (s : State) : (setChannel t s).formats = s.formats := rfl
@[simp] theorem setChannel_intake (t : Option Transfer) (s : State) : (setChannel t s).intake = s.intake := rfl
@[simp] theorem setChannel_tracker (t : Option Transfer) (s : State) : (setChannel t s).tracker = s.tracker := rfl
@[simp] theorem setChannel_contexts (t : Option Transfer) (s : State) : (setChannel t s).contexts = s.contexts := rfl
@[simp] theorem setChannel_pace (t : Option Transfer) (s : State) : (setChannel t s).pace = s.pace := rfl
@[simp] theorem setChannel_conformance (t : Option Transfer) (s : State) : (setChannel t s).conformance = s.conformance := rfl
@[simp] theorem setChannel_repair (t : Option Transfer) (s : State) : (setChannel t s).repair = s.repair := rfl
@[simp] theorem setChannel_grading (t : Option Transfer) (s : State) : (setChannel t s).grading = s.grading := rfl
@[simp] theorem setChannel_reel (t : Option Transfer) (s : State) : (setChannel t s).reel = s.reel := rfl
@[simp] theorem setChannel_interpreter (t : Option Transfer) (s : State) : (setChannel t s).interpreter = s.interpreter := rfl
@[simp] theorem setChannel_notices (t : Option Transfer) (s : State) : (setChannel t s).notices = s.notices := rfl
@[simp] theorem setChannel_delivery (t : Option Transfer) (s : State) : (setChannel t s).delivery = s.delivery := rfl
@[simp] theorem setChannel_frameMemory (t : Option Transfer) (s : State) :
    (setChannel t s).frameMemory = { s.frameMemory with channel := t } := rfl
@[simp] theorem raise_pending (c : NoticeClass) (s : State) : (raise c s).pending = s.pending := rfl
@[simp] theorem raise_formats (c : NoticeClass) (s : State) : (raise c s).formats = s.formats := rfl
@[simp] theorem raise_intake (c : NoticeClass) (s : State) : (raise c s).intake = s.intake := rfl
@[simp] theorem raise_tracker (c : NoticeClass) (s : State) : (raise c s).tracker = s.tracker := rfl
@[simp] theorem raise_contexts (c : NoticeClass) (s : State) : (raise c s).contexts = s.contexts := rfl
@[simp] theorem raise_pace (c : NoticeClass) (s : State) : (raise c s).pace = s.pace := rfl
@[simp] theorem raise_frameMemory (c : NoticeClass) (s : State) : (raise c s).frameMemory = s.frameMemory := rfl
@[simp] theorem raise_conformance (c : NoticeClass) (s : State) : (raise c s).conformance = s.conformance := rfl
@[simp] theorem raise_repair (c : NoticeClass) (s : State) : (raise c s).repair = s.repair := rfl
@[simp] theorem raise_grading (c : NoticeClass) (s : State) : (raise c s).grading = s.grading := rfl
@[simp] theorem raise_reel (c : NoticeClass) (s : State) : (raise c s).reel = s.reel := rfl
@[simp] theorem raise_interpreter (c : NoticeClass) (s : State) : (raise c s).interpreter = s.interpreter := rfl
@[simp] theorem raise_delivery (c : NoticeClass) (s : State) : (raise c s).delivery = s.delivery := rfl
@[simp] theorem raise_notices (c : NoticeClass) (s : State) :
    (raise c s).notices = setNotice s.notices c (occur (noticeOf s.notices c)) := rfl
@[simp] theorem writeContext_pending (n : Nat) (g : FrameContext → FrameContext) (s : State) :
    (writeContext n g s).pending = s.pending := rfl
@[simp] theorem writeContext_formats (n : Nat) (g : FrameContext → FrameContext) (s : State) :
    (writeContext n g s).formats = s.formats := rfl
@[simp] theorem writeContext_intake (n : Nat) (g : FrameContext → FrameContext) (s : State) :
    (writeContext n g s).intake = s.intake := rfl
@[simp] theorem writeContext_tracker (n : Nat) (g : FrameContext → FrameContext) (s : State) :
    (writeContext n g s).tracker = s.tracker := rfl
@[simp] theorem writeContext_pace (n : Nat) (g : FrameContext → FrameContext) (s : State) :
    (writeContext n g s).pace = s.pace := rfl
@[simp] theorem writeContext_frameMemory (n : Nat) (g : FrameContext → FrameContext) (s : State) :
    (writeContext n g s).frameMemory = s.frameMemory := rfl
@[simp] theorem writeContext_conformance (n : Nat) (g : FrameContext → FrameContext) (s : State) :
    (writeContext n g s).conformance = s.conformance := rfl
@[simp] theorem writeContext_repair (n : Nat) (g : FrameContext → FrameContext) (s : State) :
    (writeContext n g s).repair = s.repair := rfl
@[simp] theorem writeContext_grading (n : Nat) (g : FrameContext → FrameContext) (s : State) :
    (writeContext n g s).grading = s.grading := rfl
@[simp] theorem writeContext_reel (n : Nat) (g : FrameContext → FrameContext) (s : State) :
    (writeContext n g s).reel = s.reel := rfl
@[simp] theorem writeContext_interpreter (n : Nat) (g : FrameContext → FrameContext) (s : State) :
    (writeContext n g s).interpreter = s.interpreter := rfl
@[simp] theorem writeContext_notices (n : Nat) (g : FrameContext → FrameContext) (s : State) :
    (writeContext n g s).notices = s.notices := rfl
@[simp] theorem writeContext_delivery (n : Nat) (g : FrameContext → FrameContext) (s : State) :
    (writeContext n g s).delivery = s.delivery := rfl
@[simp] theorem writeContext_contexts (n : Nat) (g : FrameContext → FrameContext) (s : State) :
    (writeContext n g s).contexts = changeContext n g s.contexts := rfl
@[simp] theorem formEffective_pending (s : State) : (formEffective s).pending = s.pending := rfl
@[simp] theorem formEffective_formats (s : State) : (formEffective s).formats = s.formats := rfl
@[simp] theorem formEffective_intake (s : State) : (formEffective s).intake = s.intake := rfl
@[simp] theorem formEffective_tracker (s : State) : (formEffective s).tracker = s.tracker := rfl
@[simp] theorem formEffective_contexts (s : State) : (formEffective s).contexts = s.contexts := rfl
@[simp] theorem formEffective_frameMemory (s : State) : (formEffective s).frameMemory = s.frameMemory := rfl
@[simp] theorem formEffective_conformance (s : State) : (formEffective s).conformance = s.conformance := rfl
@[simp] theorem formEffective_repair (s : State) : (formEffective s).repair = s.repair := rfl
@[simp] theorem formEffective_grading (s : State) : (formEffective s).grading = s.grading := rfl
@[simp] theorem formEffective_reel (s : State) : (formEffective s).reel = s.reel := rfl
@[simp] theorem formEffective_interpreter (s : State) : (formEffective s).interpreter = s.interpreter := rfl
@[simp] theorem formEffective_notices (s : State) : (formEffective s).notices = s.notices := rfl
@[simp] theorem formEffective_delivery (s : State) : (formEffective s).delivery = s.delivery := rfl
@[simp] theorem formEffective_pace (s : State) : (formEffective s).pace = withLevel (formedLevel s) s.pace := rfl

/-! ## settleStall -/

@[simp] theorem settleStall_pending (s : State) : (settleStall s).pending = s.pending := by
  unfold settleStall; split <;> (try split) <;> rfl
@[simp] theorem settleStall_formats (s : State) : (settleStall s).formats = s.formats := by
  unfold settleStall; split <;> (try split) <;> rfl
@[simp] theorem settleStall_intake (s : State) : (settleStall s).intake = s.intake := by
  unfold settleStall; split <;> (try split) <;> rfl
@[simp] theorem settleStall_tracker (s : State) : (settleStall s).tracker = s.tracker := by
  unfold settleStall; split <;> (try split) <;> rfl
@[simp] theorem settleStall_contexts (s : State) : (settleStall s).contexts = s.contexts := by
  unfold settleStall; split <;> (try split) <;> rfl
@[simp] theorem settleStall_pace (s : State) : (settleStall s).pace = s.pace := by
  unfold settleStall; split <;> (try split) <;> rfl
@[simp] theorem settleStall_frameMemory (s : State) : (settleStall s).frameMemory = s.frameMemory := by
  unfold settleStall; split <;> (try split) <;> rfl
@[simp] theorem settleStall_conformance (s : State) : (settleStall s).conformance = s.conformance := by
  unfold settleStall; split <;> (try split) <;> rfl
@[simp] theorem settleStall_repair (s : State) : (settleStall s).repair = s.repair := by
  unfold settleStall; split <;> (try split) <;> rfl
@[simp] theorem settleStall_grading (s : State) : (settleStall s).grading = s.grading := by
  unfold settleStall; split <;> (try split) <;> rfl
@[simp] theorem settleStall_reel (s : State) : (settleStall s).reel = s.reel := by
  unfold settleStall; split <;> (try split) <;> rfl
@[simp] theorem settleStall_interpreter (s : State) : (settleStall s).interpreter = s.interpreter := by
  unfold settleStall; split <;> (try split) <;> rfl
@[simp] theorem settleStall_notices (s : State) : (settleStall s).notices = s.notices := by
  unfold settleStall; split <;> (try split) <;> rfl
@[simp] theorem settleStall_delivery_pool (s : State) : (settleStall s).delivery.pool = s.delivery.pool := by
  unfold settleStall; split <;> (try split) <;> rfl
@[simp] theorem settleStall_delivery_excess (s : State) : (settleStall s).delivery.excess = s.delivery.excess := by
  unfold settleStall; split <;> (try split) <;> rfl
@[simp] theorem settleStall_delivery_badGrants (s : State) : (settleStall s).delivery.badGrants = s.delivery.badGrants := by
  unfold settleStall; split <;> (try split) <;> rfl
@[simp] theorem settleStall_delivery_queue (s : State) : (settleStall s).delivery.queue = s.delivery.queue := by
  unfold settleStall; split <;> (try split) <;> rfl
@[simp] theorem settleStall_delivery_transmission (s : State) : (settleStall s).delivery.transmission = s.delivery.transmission := by
  unfold settleStall; split <;> (try split) <;> rfl

end Sys2Proof.Machine
end

