-- ==== Sys2Proof/Laws/Frames.lean ====
section
/-! SUPPORT. What the operations of one block leave alone: for each operation one lemma over a bundle of everything outside it. -/

namespace Sys2Proof.Machine

/-- The frame numbers of the Frame Context Queue. -/
def frameNumbers (s : State) : List Nat := s.contexts.map (·.frame)

/-- Everything but the Conformance Engine and what the engines write into contexts. -/
def outsideConformance (s : State) :=
  (s.pending, s.formats, s.intake, s.tracker, s.pace, s.frameMemory, s.repair, s.grading, s.reel, s.interpreter, s.notices,
    s.delivery, frameNumbers s)

/-- Everything but the line path (conformance, repair), the notices and what the engines write into contexts. -/
def outsideRepair (s : State) :=
  (s.pending, s.formats, s.intake, s.tracker, s.pace, s.frameMemory, s.grading, s.reel, s.interpreter, s.delivery, frameNumbers s)

/-- Everything but the tracking path: tracker, contexts, pace, notices, conformance. -/
def outsideTracking (s : State) :=
  (s.pending, s.formats, s.intake, s.frameMemory, s.repair, s.grading, s.reel, s.interpreter, s.delivery)

/-- A write into a context keeps its frame number. -/
def KeepsFrame (g : FrameContext → FrameContext) : Prop := ∀ c, (g c).frame = c.frame

theorem changeContext_frames (n : Nat) (g : FrameContext → FrameContext) (h : KeepsFrame g) (cs : List FrameContext) :
    (changeContext n g cs).map (·.frame) = cs.map (·.frame) := by
  simp only [changeContext, List.map_map]
  refine List.map_congr_left (fun c _ => ?_)
  simp only [Function.comp]
  split
  · exact h c
  · rfl

theorem writeContext_frameNumbers (n : Nat) (g : FrameContext → FrameContext) (h : KeepsFrame g) (s : State) :
    frameNumbers (writeContext n g s) = frameNumbers s := changeContext_frames n g h s.contexts

/-! ## Conformance Engine -/

theorem writeContext_outsideConformance (n : Nat) (g : FrameContext → FrameContext) (h : KeepsFrame g) (s : State) :
    outsideConformance (writeContext n g s) = outsideConformance s := by
  simp [outsideConformance, writeContext_frameNumbers n g h]

theorem setConformance_outside (c : Conformance) (s : State) :
    outsideConformance { s with conformance := c } = outsideConformance s := rfl

theorem presentRead_outside (job : FrameJob) (s : State) : outsideConformance (presentRead job s) = outsideConformance s := by
  unfold presentRead
  split
  · rfl
  · split <;> rfl

theorem keepsFrame_substituted : KeepsFrame markSubstituted := fun _ => rfl

theorem buildLine_outside (copy : ConformanceCopy) (job : FrameJob) (s : State) :
    outsideConformance (buildLine copy job s) = outsideConformance s := by
  unfold buildLine
  dsimp only
  rw [setConformance_outside]
  split
  · exact writeContext_outsideConformance _ _ keepsFrame_substituted _
  · rfl

theorem advanceLine_outside (s : State) : outsideConformance (advanceLine s) = outsideConformance s := by
  unfold advanceLine
  split
  · split
    · exact buildLine_outside _ _ _
    · exact presentRead_outside _ _
  · rfl

theorem enterGathering_outside (copy : ConformanceCopy) (job : FrameJob) (j : Nat) (s : State) :
    outsideConformance (enterGathering copy job j s) = outsideConformance s := by
  unfold enterGathering
  dsimp only
  rw [advanceLine_outside, setConformance_outside]

theorem reportChange_outside (s : State) : outsideConformance (reportChange s) = outsideConformance s := by
  unfold reportChange
  split
  · dsimp only
    rw [advanceLine_outside, setConformance_outside]
  · rfl

theorem takeFrame_outside (s : State) : outsideConformance (takeFrame s) = outsideConformance s := by
  unfold takeFrame
  dsimp only
  split
  · rw [enterGathering_outside, setConformance_outside]
  · rw [setConformance_outside]

theorem takeIfIdle_outside (s : State) : outsideConformance (takeIfIdle s) = outsideConformance s := by
  unfold takeIfIdle
  split
  · exact takeFrame_outside s
  · rfl

theorem finishFrame_outside (n : Nat) (s : State) : outsideConformance (finishFrame n s) = outsideConformance s := by
  unfold finishFrame
  rw [takeFrame_outside]
  refine writeContext_outsideConformance _ _ ?_ _
  intro c; rfl

theorem lineTaken_outside (s : State) : outsideConformance (lineTaken s) = outsideConformance s := by
  unfold lineTaken
  split
  · split
    · exact enterGathering_outside _ _ _ _
    · exact finishFrame_outside _ _
  · rfl

theorem lineRead_outside (l : Nat) (px : List Pixel) (s : State) : outsideConformance (lineRead l px s) = outsideConformance s := by
  unfold lineRead
  split
  · dsimp only
    rw [advanceLine_outside, setConformance_outside]
  · rfl

/-! ## Repair Engine -/

theorem outsideRepair_of_conformance {s t : State} (h : outsideConformance s = outsideConformance t) :
    outsideRepair s = outsideRepair t := by
  simp only [outsideConformance, outsideRepair, Prod.mk.injEq] at h ⊢
  obtain ⟨h1, h2, h3, h4, h5, h6, -, h8, h9, h10, -, h12, h13⟩ := h
  exact ⟨h1, h2, h3, h4, h5, h6, h8, h9, h10, h12, h13⟩

theorem setRepair_outside (x : Repair) (s : State) : outsideRepair (setRepair x s) = outsideRepair s := rfl

theorem raise_outsideRepair (c : NoticeClass) (s : State) : outsideRepair (raise c s) = outsideRepair s := rfl

theorem writeContext_outsideRepair (n : Nat) (g : FrameContext → FrameContext) (h : KeepsFrame g) (s : State) :
    outsideRepair (writeContext n g s) = outsideRepair s := outsideRepair_of_conformance (writeContext_outsideConformance n g h s)

theorem raiseTimes_outside (c : NoticeClass) (n : Nat) (s : State) : outsideRepair (raiseTimes c n s) = outsideRepair s := by
  induction n generalizing s with
  | zero => rfl
  | succ n ih => rw [raiseTimes, ih, raise_outsideRepair]

theorem repairLine_outside (copy : RepairCopy) (hand : RepairHand) (ref : Option (List RefRecord)) (s : State) :
    outsideRepair (repairLine copy hand ref s) = outsideRepair s := by
  unfold repairLine
  dsimp only
  rw [setRepair_outside]
  refine writeContext_outsideRepair _ _ ?_ s
  intro c; rfl

theorem repairFrameStart_outside (copy : RepairCopy) (c : FrameContext) (s : State) :
    outsideRepair (repairFrameStart copy c s) = outsideRepair s := by
  unfold repairFrameStart
  dsimp only
  rw [setRepair_outside]
  refine writeContext_outsideRepair _ _ ?_ s
  intro c; rfl

theorem repairFrameEnd_outside (copy : RepairCopy) (n : Nat) (b : Bool) (s : State) :
    outsideRepair (repairFrameEnd copy n b s) = outsideRepair s := by
  unfold repairFrameEnd
  dsimp only
  split
  · rw [raiseTimes_outside, setRepair_outside]
  · rw [setRepair_outside]

theorem settleObligations_outside (s : State) : outsideRepair (settleObligations s) = outsideRepair s := by
  unfold settleObligations
  split
  · split
    · dsimp only
      rw [setRepair_outside]
      split
      · rfl
      · exact repairFrameEnd_outside _ _ _ _
    · rfl
  · rfl

theorem startFrameAt_outside (copy : RepairCopy) (line : OutputLine) (s : State) :
    outsideRepair (startFrameAt copy line s) = outsideRepair s := by
  unfold startFrameAt
  split
  · split
    · exact repairFrameStart_outside _ _ _
    · rfl
  · rfl

theorem fetchOrRepair_outside (copy : RepairCopy) (hand : RepairHand) (s : State) :
    outsideRepair (fetchOrRepair copy hand s) = outsideRepair s := by
  unfold fetchOrRepair
  split
  · rfl
  · exact repairLine_outside _ _ _ _

theorem takeOffered_outside (copy : RepairCopy) (line : OutputLine) (s : State) :
    outsideRepair (takeOffered copy line s) = outsideRepair s := by
  unfold takeOffered
  rw [fetchOrRepair_outside, outsideRepair_of_conformance (lineTaken_outside _), startFrameAt_outside]

/-! ## Frame Tracker -/

theorem outsideTracking_of_conformance {s t : State} (h : outsideConformance s = outsideConformance t) :
    outsideTracking s = outsideTracking t := by
  simp only [outsideConformance, outsideTracking, Prod.mk.injEq] at h ⊢
  obtain ⟨h1, h2, h3, -, -, h6, h7, h8, h9, h10, -, h12, -⟩ := h
  exact ⟨h1, h2, h3, h6, h7, h8, h9, h10, h12⟩

theorem setTracker_outside (t : Tracker) (s : State) : outsideTracking (setTracker t s) = outsideTracking s := rfl

theorem countTracker_outside (g : TrackerCounters → TrackerCounters) (s : State) :
    outsideTracking (countTracker g s) = outsideTracking s := rfl

theorem formEffective_outside (s : State) : outsideTracking (formEffective s) = outsideTracking s := rfl

theorem setMode_outside (m : TrackerMode) (s : State) : outsideTracking (setMode m s) = outsideTracking s := rfl

theorem raise_outsideTracking (c : NoticeClass) (s : State) : outsideTracking (raise c s) = outsideTracking s := rfl

theorem writeContext_outsideTracking (n : Nat) (g : FrameContext → FrameContext) (s : State) :
    outsideTracking (writeContext n g s) = outsideTracking s := rfl

theorem raiseIf_outside (b : Bool) (c : NoticeClass) (s : State) : outsideTracking (raiseIf b c s) = outsideTracking s := by
  unfold raiseIf; split <;> rfl

theorem loseFrames_outside (n : Nat) (s : State) : outsideTracking (loseFrames n s) = outsideTracking s := by
  unfold loseFrames; split <;> rfl

theorem cutFrame_outside (m : CutState) (n : Nat) (s : State) : outsideTracking (cutFrame m n s) = outsideTracking s := by
  unfold cutFrame
  split
  · rfl
  · dsimp only
    split
    · rw [outsideTracking_of_conformance (takeIfIdle_outside _), raiseIf_outside, raiseIf_outside]; rfl
    · rw [loseFrames_outside, setTracker_outside]

theorem countResolution_outside (r : Resolution) (s : State) : outsideTracking (countResolution r s) = outsideTracking s := rfl

theorem moveState_outside (r : Resolution) (s : State) : outsideTracking (moveState r s) = outsideTracking s := by
  unfold moveState
  dsimp only
  split
  · rfl
  · split
    · split <;> rfl
    · rfl

theorem rephase_outside (f : TrackingFields) (p : Nat) (s : State) : outsideTracking (rephase f p s) = outsideTracking s := by
  unfold rephase
  split
  · dsimp only
    rw [loseFrames_outside, setTracker_outside]
  · rfl

theorem moveCountdown_outside (f : TrackingFields) (p : Nat) (st : PerfStatus) (t : Tally) (s : State) :
    outsideTracking (moveCountdown f p st t s) = outsideTracking s := by
  unfold moveCountdown
  dsimp only
  split
  · rfl
  · split
    · rw [rephase_outside, setTracker_outside]
    · rfl

theorem updateSpan_outside (f : TrackingFields) (st : PerfStatus) (s : State) :
    outsideTracking (updateSpan f st s) = outsideTracking s := by
  unfold updateSpan
  split
  · split <;> rfl
  · rfl

theorem setWindow_outside (f : TrackingFields) (p : Nat) (st : PerfStatus) (s : State) :
    outsideTracking (setWindow f p st s) = outsideTracking s := rfl

theorem finishResolution_outside (f : TrackingFields) (p : Nat) (st : PerfStatus) (t : Tally) (s : State) :
    outsideTracking (finishResolution f p st t s) = outsideTracking s := by
  unfold finishResolution
  rw [setWindow_outside, updateSpan_outside, moveCountdown_outside, cutFrame_outside]

theorem resolve_outside (f : TrackingFields) (p : Nat) (r : Resolution) (s : State) :
    outsideTracking (resolve f p r s) = outsideTracking s := by
  unfold resolve
  dsimp only
  rw [finishResolution_outside, setTracker_outside, moveState_outside, countResolution_outside]

theorem resolveCandidate_outside (f : TrackingFields) (c : Candidate) (s : State) :
    outsideTracking (resolveCandidate f c s) = outsideTracking s := by
  unfold resolveCandidate
  rw [finishResolution_outside, countResolution_outside]

theorem acquireLock_outside (f : TrackingFields) (a b c : Candidate) (s : State) :
    outsideTracking (acquireLock f a b c s) = outsideTracking s := by
  unfold acquireLock
  dsimp only
  rw [resolveCandidate_outside, resolveCandidate_outside, resolveCandidate_outside, setMode_outside, setTracker_outside]

theorem addCandidate_outside (f : TrackingFields) (p : Nat) (s : State) :
    outsideTracking (addCandidate f p s) = outsideTracking s := by
  unfold addCandidate
  dsimp only
  split
  · split
    · rw [acquireLock_outside, setTracker_outside]
    · rfl
  · rfl

theorem loseLock_outside (b : Bool) (s : State) : outsideTracking (loseLock b s) = outsideTracking s := by
  unfold loseLock
  dsimp only
  rw [raise_outsideTracking, countTracker_outside, setMode_outside, setTracker_outside, cutFrame_outside, setTracker_outside]

theorem windowEdge_outside (f : TrackingFields) (w : PerfWindow) (e : Nat) (s : State) :
    outsideTracking (windowEdge f w e s) = outsideTracking s := by
  unfold windowEdge
  split
  · rfl
  · split
    · exact resolve_outside _ _ _ _
    · rfl

theorem takeEdge_outside (f : TrackingFields) (e : Nat) (s : State) : outsideTracking (takeEdge f e s) = outsideTracking s := by
  unfold takeEdge
  split
  · exact addCandidate_outside _ _ _
  · rfl
  · split
    · exact windowEdge_outside _ _ _ _
    · rfl

theorem closeWindow_outside (f : TrackingFields) (p : Nat) (s : State) :
    outsideTracking (closeWindow f p s) = outsideTracking s := by
  unfold closeWindow
  split
  · split
    · split
      · exact resolve_outside _ _ _ _
      · exact loseLock_outside _ _
    · rfl
  · rfl

theorem examineSample_outside (f : TrackingFields) (v : Option Bool) (p : Nat) (s : State) :
    outsideTracking (examineSample f v p s) = outsideTracking s := by
  unfold examineSample
  split
  · rw [closeWindow_outside, setTracker_outside]
  · dsimp only
    rw [closeWindow_outside]
    split
    · split
      · rw [takeEdge_outside, setTracker_outside]
      · rfl
    · rfl

theorem examineFrom_outside (f : TrackingFields) (line : Nat) (perf : Option Half) (p n : Nat) (s : State) :
    outsideTracking (examineFrom f line perf p n s) = outsideTracking s := by
  induction n generalizing p s with
  | zero => rfl
  | succ n ih => rw [examineFrom, ih, examineSample_outside]

theorem actOnBreak_outside (s : State) : outsideTracking (actOnBreak s) = outsideTracking s := by
  unfold actOnBreak
  split
  · rfl
  · rfl
  · exact loseLock_outside _ _

theorem countUnframed_outside (r : LineRecord) (s : State) : outsideTracking (countUnframed r s) = outsideTracking s := by
  unfold countUnframed; split <;> rfl

theorem trackLine_outside (r : LineRecord) (s : State) : outsideTracking (trackLine r s) = outsideTracking s := by
  unfold trackLine
  split
  · rfl
  · rfl
  · dsimp only
    rw [examineFrom_outside, setTracker_outside, countUnframed_outside]
    split
    · exact actOnBreak_outside s
    · rfl

/-! ## Reading the bundles -/

theorem reportChange_tracking (s : State) : outsideTracking (reportChange s) = outsideTracking s :=
  outsideTracking_of_conformance (reportChange_outside s)

theorem trackLine_intake (r : LineRecord) (s : State) : (trackLine r s).intake = s.intake :=
  congrArg (fun x => x.2.2.1) (trackLine_outside r s)

theorem reportChange_intake (s : State) : (reportChange s).intake = s.intake :=
  congrArg (fun x => x.2.2.1) (reportChange_outside s)

theorem trackLine_frameMemory (r : LineRecord) (s : State) : (trackLine r s).frameMemory = s.frameMemory :=
  congrArg (fun x => x.2.2.2.1) (trackLine_outside r s)

theorem reportChange_frameMemory (s : State) : (reportChange s).frameMemory = s.frameMemory :=
  congrArg (fun x => x.2.2.2.2.2.1) (reportChange_outside s)

end Sys2Proof.Machine
end

