-- ==== Sys2Proof/Laws/Steps.lean ====
section
/-! SUPPORT. What one step can do, said once: a property of states that the cases of `StepKeeps` keep is kept by every step. An invariant
is then proved case by case, without unfolding `exec` or the Command Interpreter. -/

namespace Sys2Proof.Machine

/-- The cases of a step other than POWER_ON_RESET, DIVIDER_UNDERFLOW, the TRUN rows and TIME_BASE_TICK, for a property that does not
speak of the Command Interpreter's block or of the stall timer. -/
structure SpanKeeps (P : State → Prop) : Prop where
  interpreter : ∀ x s, P s → P (setInterpreter x s)
  stall : ∀ x s, P s → P { s with delivery := { s.delivery with stall := x } }
  carried : ∀ c s, P s → P (carryOut c s).2
  abort : ∀ s, P s → P (abortReel s).state
  abortSoft : ∀ s, P s → P (abortReelSoft s).state
  soft : ∀ s, P s → P (softResetBlocks s)
  memoryReady : ∀ s, P s → P { s with frameMemory := { s.frameMemory with ready := true } }
  line : ∀ payload s, P s → P (receiveLine payload s)
  malformed : ∀ s, P s → P (malformed s)
  controlCrc : ∀ s, P s → P (controlCrcFailure s)
  credit : ∀ n s, P s → P (setDelivery (takeGrant n s.delivery) s)
  choice : ∀ x run s, P s → canChoose s = true → P (beginTransmission x run s)
  transmitted : ∀ t s, P s → s.delivery.transmission = some t → P (completeTransmission t s)
  classified : ∀ x s, P s → closeReady s = true → s.reel.identity = some x → P (runQueue (classify x s))
  fault : ∀ s, P s → P (transportFault s)
  silence : ∀ s, P s → P (silenceExpires s)
  noticeStall : ∀ s, P s → P (raise .deliveryStall s)
  ringCap : ∀ p read s, P s → P (evaluateRingCap p read s)
  grant : ∀ p g s, P s → s.frameMemory.channel = none → s.frameMemory.plan = some p → chooseRequester s = some g →
    P (grant p g (countGrant g s))
  intakeWritten : ∀ line slot address pixels stale s, P s →
    s.frameMemory.channel = some (.intakeWrite line slot address pixels stale) →
    P (setMemory (writeBytes { s.frameMemory with channel := none } address (pixels.flatMap pixelBytes)) s) ∧
      (stale = false → P (completeIntakeWrite line slot
        (setMemory (writeBytes { s.frameMemory with channel := none } address (pixels.flatMap pixelBytes)) s)))
  lineRead : ∀ line address count discard s, P s →
    s.frameMemory.channel = some (.conformanceRead line address count discard) →
    P (setChannel none s) ∧
      (discard = false → P (lineRead line (readPixels s.frameMemory address count) (setChannel none s)))
  referenceRead : ∀ address count discard s, P s →
    s.frameMemory.channel = some (.referenceRead address count discard) →
    P (setChannel none s) ∧
      (discard = false → P (repairFetched ((readPixels s.frameMemory address count).map recordOf) (setChannel none s)))
  referenceWritten : ∀ address records unreported s, P s →
    s.frameMemory.channel = some (.referenceWrite address records unreported) →
    P (setMemory (writeBytes { s.frameMemory with channel := none } address (records.flatMap recordBytes)) s) ∧
      (unreported = false → P (lineStored
        (setMemory (writeBytes { s.frameMemory with channel := none } address (records.flatMap recordBytes)) s)))
  repairTakes : ∀ copy job line s, P s → s.repair.mode = .waiting → s.conformance.mode = .offering job line →
    P (takeOffered copy line s)
  gradingTakes : ∀ raster hand s, P s → s.grading.mode = .waiting → s.repair.mode = .passing hand →
    P (takeRepaired raster hand s)
  placed : ∀ hand o rest c s, P s → s.grading.mode = .placing hand → hand.owed = o :: rest →
    contextOf s hand.frame = some c → s.delivery.queue.length < 8 → P (placeOwed hand o rest c s)

/-- The cases of a step other than POWER_ON_RESET and DIVIDER_UNDERFLOW: the TRUN rows and the tick among them. -/
structure RunKeeps (P : State → Prop) : Prop extends SpanKeeps P where
  trunUp : ∀ s, P s → P (setPace { holdSample true s.pace with spinUp := none } s)
  trunDown : ∀ s, P s → P (setPace (holdSample false s.pace) s)
  tick : ∀ s, P s → P (setPace { s.pace with tenth := (s.pace.tenth + 1) % 10, spinUp := tickTimer s.pace.spinUp } s)
  markDue : ∀ d s, P s → P (setPace { s.pace with due := d } s)
  tickSilence : ∀ s, P s → P (setIntake { s.intake with silence := tickTimer s.intake.silence } s)

/-- The cases of a step, the power-on reset and the divider underflow among them. -/
structure StepKeeps (P : State → Prop) : Prop extends RunKeeps P where
  powerOn : ∀ size epoch s, P s → P { State.powerOn size epoch with pending := s.pending }
  underflow : ∀ s, P s → P (setPace (underflow s.pace) s)

/-! ## The Command Interpreter's path -/

theorem runHead_keeps {P : State → Prop} (hi : ∀ x s, P s → P (setInterpreter x s)) (hc : ∀ c s, P s → P (carryOut c s).2)
    (i : Fin 8) (c : Command) (s : State) (h : P s) : P (runHead i c s) := by
  have h1 := hc c _ (hi (claimSlot i s.interpreter) s h)
  unfold runHead
  split
  · rename_i a t e
    rw [e] at h1
    exact hi _ _ h1
  · rename_i t e
    rw [e] at h1
    exact h1

theorem runCommands_keeps {P : State → Prop} (hi : ∀ x s, P s → P (setInterpreter x s)) (hc : ∀ c s, P s → P (carryOut c s).2)
    (n : Nat) (s : State) (h : P s) : P (runCommands n s) := by
  induction n generalizing s with
  | zero => exact h
  | succ n ih =>
    unfold runCommands
    split
    · exact ih _ (runHead_keeps hi hc _ _ _ h)
    · exact h

/-- The starting of queued commands keeps what a carried-out command keeps (R152). -/
theorem runQueue_keeps {P : State → Prop} (hi : ∀ x s, P s → P (setInterpreter x s)) (hc : ∀ c s, P s → P (carryOut c s).2)
    (s : State) (h : P s) : P (runQueue s) := runCommands_keeps hi hc _ s h

/-- The arrival of an ordinary command keeps what a carried-out command keeps (R150). -/
theorem arrive_keeps {P : State → Prop} (hi : ∀ x s, P s → P (setInterpreter x s)) (hc : ∀ c s, P s → P (carryOut c s).2)
    (q : QueuedCommand) (s : State) (h : P s) : P (arrive q s) := by
  unfold arrive
  dsimp only
  split
  · split
    · exact runQueue_keeps hi hc _ (hi _ _ h)
    · exact hi _ _ h
  · split
    · exact hi _ _ h
    · exact hi _ _ h

theorem SpanKeeps.runReelAbort {P : State → Prop} (k : SpanKeeps P) (tag : Half) (s : State) (h : P s) :
    P (runReelAbort tag s) := by
  unfold Machine.runReelAbort
  split
  · exact k.interpreter _ _ h
  · exact runQueue_keeps k.interpreter k.carried _ (k.interpreter _ _ (k.abort s h))

theorem SpanKeeps.runSoftReset {P : State → Prop} (k : SpanKeeps P) (tag : Half) (s : State) (h : P s) :
    P (runSoftReset tag s) := by
  unfold Machine.runSoftReset
  refine k.interpreter _ _ (k.soft _ (k.interpreter _ _ ?_))
  unfold softResetAbort
  split
  · exact h
  · exact k.abortSoft s h

theorem SpanKeeps.arriveImmediate {P : State → Prop} (k : SpanKeeps P) (code tag : Half) (args : List Byte) (s : State) (h : P s) :
    P (arriveImmediate code tag args s) := by
  unfold Machine.arriveImmediate
  split
  · exact k.interpreter _ _ h
  · split
    · exact k.runReelAbort tag s h
    · exact k.runSoftReset tag s h

theorem SpanKeeps.receivePacket {P : State → Prop} (k : SpanKeeps P) (run : List Byte) (s : State) (h : P s) :
    P (receivePacket run s) := by
  unfold Machine.receivePacket
  split
  · exact k.line _ s h
  · unfold receiveControl
    split
    · exact k.controlCrc s h
    · split
      · exact k.malformed s h
      · unfold arrivePacket
        split
        · exact k.arriveImmediate _ _ _ s h
        · exact arrive_keeps k.interpreter k.carried _ s h
  · exact k.malformed s h

/-! ## Every step -/

theorem SpanKeeps.settled {P : State → Prop} (k : SpanKeeps P) {s : State} (h : P s) : P (settleStall s) := by
  unfold settleStall
  split
  · split
    · exact h
    · exact k.stall _ s h
  · exact k.stall _ s h

theorem SpanKeeps.done {P : State → Prop} (k : SpanKeeps P) {s t : State} (h : P s) (e : done s = .next t) : P t := by
  unfold Machine.done at e
  injection e with e
  exact e ▸ k.settled h

theorem SpanKeeps.takeSpinUp {P : State → Prop} (k : SpanKeeps P) (s : State) (h : P s) : P (takeSpinUpExpiry s) := by
  unfold takeSpinUpExpiry
  split
  · exact k.fault s h
  · exact h

theorem SpanKeeps.takeRingCap {P : State → Prop} (k : SpanKeeps P) (s : State) (h : P s) : P (takeRingCapEvaluation s) := by
  unfold takeRingCapEvaluation
  split
  · exact k.ringCap _ _ s h
  · exact h

theorem SpanKeeps.takeSilence {P : State → Prop} (k : SpanKeeps P) (s : State) (h : P s) : P (takeSilenceExpiry s) := by
  unfold takeSilenceExpiry
  split
  · exact k.silence s h
  · exact h

theorem SpanKeeps.takeStall {P : State → Prop} (k : SpanKeeps P) (s : State) (h : P s) : P (takeStallExpiry s) := by
  unfold takeStallExpiry
  split
  · exact k.noticeStall _ (k.stall _ s h)
  · exact h

theorem RunKeeps.countTick {P : State → Prop} (k : RunKeeps P) (s : State) (h : P s) : P (countTick s) := by
  unfold Machine.countTick
  dsimp only
  split
  · exact k.stall _ _ (k.tickSilence _ (k.tick s h))
  · exact k.tick s h

theorem SpanKeeps.takeDue {P : State → Prop} (k : SpanKeeps P) (s : State) (h : P s) : P (takeDue s) :=
  k.settled (k.takeStall _ (k.settled (k.takeSilence _ (k.settled (k.takeRingCap _ (k.settled (k.takeSpinUp s h)))))))

theorem RunKeeps.ticked {P : State → Prop} (k : RunKeeps P) (s : State) (h : P s) :
    P (Machine.markDue (Machine.countTick (Machine.takeDue s))) :=
  k.markDue _ _ (k.countTick _ (k.takeDue s h))

theorem SpanKeeps.arriveCommand {P : State → Prop} (k : SpanKeeps P) (tag : Half) (c : Command) (s : State) (h : P s) :
    P (arriveCommand tag c s) := arrive_keeps k.interpreter k.carried _ s h

/-- Every command but POWER_ON_RESET, DIVIDER_UNDERFLOW, the TRUN rows and TIME_BASE_TICK that answers a next state keeps what its cases
keep. -/
theorem SpanKeeps.exec {P : State → Prop} (k : SpanKeeps P) (i : Instr) (s t : State) (h : P s) (hu : i ≠ .dividerUnderflow)
    (ha : i ≠ .trunAssertion) (hd : i ≠ .trunDrop) (ht : i ≠ .timeBaseTick) (hp : ∀ straps, i ≠ .powerOnReset straps) (e : exec i s = .next t) : P t := by
  cases i with
  | powerOnReset straps => exact absurd rfl (hp straps)
  | memoryInitComplete => exact k.done (k.memoryReady s h) e
  | linePacket run => exact k.done (k.receivePacket run s h) e
  | controlPacket run => exact k.done (k.receivePacket run s h) e
  | unknownKindPacket run => exact k.done (k.receivePacket run s h) e
  | creditGrant run => exact k.done (k.credit _ s h) e
  | trunAssertion => exact absurd rfl ha
  | trunDrop => exact absurd rfl hd
  | spinUpExpiry => exact k.done (k.takeSpinUp s h) e
  | silenceTimerExpiry => exact k.done (k.takeSilence s h) e
  | stallTimerExpiry => exact k.done (k.takeStall s h) e
  | ringCapEvaluation => exact k.done (k.takeRingCap s h) e
  | dividerUnderflow => exact absurd rfl hu
  | arbiterGrant =>
    simp only [Machine.exec, execArbiterGrant] at e
    split at e
    · rename_i p g h1 h2 h3
      exact k.done (k.grant p g s h h1 h2 h3) e
    · exact k.done h e
  | intakeWriteComplete =>
    simp only [Machine.exec, execIntakeWriteComplete] at e
    split at e
    · rename_i hc
      have w := k.intakeWritten _ _ _ _ _ s h hc
      split at e
      · split at e
        · exact k.done w.1 e
        · rename_i hs
          exact k.done (w.2 (by simpa using hs)) e
      · cases e
    · exact k.done h e
  | conformanceReadComplete =>
    simp only [Machine.exec, execConformanceReadComplete] at e
    split at e
    · rename_i hc
      have w := k.lineRead _ _ _ _ s h hc
      split at e
      · split at e
        · exact k.done w.1 e
        · rename_i hs
          exact k.done (w.2 (by simpa using hs)) e
      · cases e
    · exact k.done h e
  | referenceReadComplete =>
    simp only [Machine.exec, execReferenceReadComplete] at e
    split at e
    · rename_i hc
      have w := k.referenceRead _ _ _ s h hc
      split at e
      · split at e
        · exact k.done w.1 e
        · rename_i hs
          exact k.done (w.2 (by simpa using hs)) e
      · cases e
    · exact k.done h e
  | referenceWriteComplete =>
    simp only [Machine.exec, execReferenceWriteComplete] at e
    split at e
    · rename_i hc
      have w := k.referenceWritten _ _ _ s h hc
      split at e
      · split at e
        · exact k.done w.1 e
        · rename_i hs
          exact k.done (w.2 (by simpa using hs)) e
      · cases e
    · exact k.done h e
  | repairTakeLine =>
    simp only [Machine.exec, execRepairTakeLine] at e
    split at e
    · rename_i h1 _ h3
      exact k.done (k.repairTakes _ _ _ s h h1 h3) e
    · exact k.done h e
  | gradingTakeLine =>
    simp only [Machine.exec, execGradingTakeLine] at e
    split at e
    · rename_i h1 h2 _ _
      split at e
      · exact k.done h e
      · exact k.done (k.gradingTakes _ _ s h h1 h2) e
    · exact k.done h e
  | placePacket =>
    simp only [Machine.exec, execPlacePacket] at e
    split at e
    · rename_i h1
      split at e
      · rename_i h2 h3
        split at e
        · rename_i h4
          exact k.done (k.placed _ _ _ _ s h h1 h2 h3 h4) e
        · exact k.done h e
      · exact k.done h e
    · exact k.done h e
  | deliveryChoice =>
    simp only [Machine.exec, execDeliveryChoice] at e
    split at e
    · rename_i h1
      split at e
      · exact k.done (k.choice _ _ s h h1) e
      · exact k.done h e
    · exact k.done h e
  | transmissionComplete =>
    simp only [Machine.exec, execTransmissionComplete] at e
    split at e
    · rename_i h1
      exact k.done (k.transmitted _ s h h1) e
    · exact k.done h e
  | classification =>
    simp only [Machine.exec, execClassification] at e
    split at e
    · rename_i h1 h2
      exact k.done (k.classified _ s h h1 h2) e
    · exact k.done h e
  | formatSet tag a => exact k.done (k.arriveCommand tag _ s h) e
  | memoryPlan tag a => exact k.done (k.arriveCommand tag _ s h) e
  | paceTableSet tag a => exact k.done (k.arriveCommand tag _ s h) e
  | paceRequest tag l => exact k.done (k.arriveCommand tag _ s h) e
  | timingSet tag x y z => exact k.done (k.arriveCommand tag _ s h) e
  | framingNudge tag d => exact k.done (k.arriveCommand tag _ s h) e
  | lutLoad tag a b c d e' => exact k.done (k.arriveCommand tag _ s h) e
  | matrixLoad tag a => exact k.done (k.arriveCommand tag _ s h) e
  | setClear tag a => exact k.done (k.arriveCommand tag _ s h) e
  | setCommit tag a => exact k.done (k.arriveCommand tag _ s h) e
  | cueAdd tag a b c d => exact k.done (k.arriveCommand tag _ s h) e
  | cueClear tag a => exact k.done (k.arriveCommand tag _ s h) e
  | scratchLoad tag a => exact k.done (k.arriveCommand tag _ s h) e
  | scratchClear tag a => exact k.done (k.arriveCommand tag _ s h) e
  | shelvingRowSet tag a => exact k.done (k.arriveCommand tag _ s h) e
  | classSet tag a => exact k.done (k.arriveCommand tag _ s h) e
  | reelOpen tag a => exact k.done (k.arriveCommand tag _ s h) e
  | reelClose tag => exact k.done (k.arriveCommand tag _ s h) e
  | reelAbort tag => exact k.done (k.arriveImmediate _ tag _ s h) e
  | softReset tag => exact k.done (k.arriveImmediate _ tag _ s h) e
  | statusQuery tag a => exact k.done (k.arriveCommand tag _ s h) e
  | noticeEnable tag a b => exact k.done (k.arriveCommand tag _ s h) e
  | noticeAck tag a => exact k.done (k.arriveCommand tag _ s h) e
  | badCommand tag a => exact k.done (arrive_keeps k.interpreter k.carried _ s h) e
  | timeBaseTick => exact absurd rfl ht

/-- Every command but POWER_ON_RESET and DIVIDER_UNDERFLOW that answers a next state keeps what its cases keep. -/
theorem RunKeeps.exec {P : State → Prop} (k : RunKeeps P) (i : Instr) (s t : State) (h : P s) (hu : i ≠ .dividerUnderflow)
    (hp : ∀ straps, i ≠ .powerOnReset straps) (e : exec i s = .next t) : P t := by
  by_cases ha : i = .trunAssertion
  · subst ha
    simp only [Machine.exec, execTrunAssertion] at e
    split at e
    · exact k.done (k.trunUp s h) e
    · exact k.done h e
  · by_cases hd : i = .trunDrop
    · subst hd
      simp only [Machine.exec, execTrunDrop] at e
      split at e
      · split at e
        · exact k.done (k.fault _ (k.trunDown s h)) e
        · exact k.done (k.trunDown s h) e
      · exact k.done h e
    · by_cases ht : i = .timeBaseTick
      · subst ht
        exact k.done (k.ticked s h) e
      · exact k.toSpanKeeps.exec i s t h hu ha hd ht hp e

/-- Every command that answers a next state keeps what its cases keep. -/
theorem StepKeeps.exec {P : State → Prop} (k : StepKeeps P) (i : Instr) (s t : State) (h : P s) (e : exec i s = .next t) : P t := by
  by_cases hu : i = .dividerUnderflow
  · subst hu
    exact k.toRunKeeps.done (k.underflow s h) e
  · by_cases hp : ∃ straps, i = .powerOnReset straps
    · obtain ⟨straps, rfl⟩ := hp
      exact k.toRunKeeps.done (k.powerOn _ _ s h) e
    · exact k.toRunKeeps.exec i s t h hu (fun straps x => hp ⟨straps, x⟩) e

end Sys2Proof.Machine
end

