-- ==== Sys2Proof/Laws/Commands.lean ====
section
/-! SUPPORT. What carrying a queued command out can do, said once for every command, and the path of a command that starts at its
arrival. -/

namespace Sys2Proof.Machine

/-- The states that an owner's answering of a command in `s` can leave, by the block it changes, with what its checks have settled. -/
inductive OwnerEffect (s : State) : State → Prop where
  | same : OwnerEffect s s
  | formats (x : Vector (Option Format) 8) : OwnerEffect s { s with formats := x }
  | plan (p : MemoryPlan) (ready : s.frameMemory.ready = true) (state : s.reel.state = .noReel) : OwnerEffect s (acceptPlan p s)
  | pace (p : Pace) (held : p.counters = s.pace.counters) (level : p.trun = s.pace.trun) (due : p.due = s.pace.due) :
      OwnerEffect s (formEffective (setPace p s))
  | timing (a b c : Nat) :
      OwnerEffect s (setPace { s.pace with spinUpTimeout := a, silenceTimeout := b, stallTimeout := c } s)
  | nudge (d : Nat) (mode : s.tracker.mode ≠ .idle ∧ s.tracker.mode ≠ .search) :
      OwnerEffect s (setTracker { s.tracker with nudge := some d, countdown := s.tracker.countdown.map (· + d) } s)
  | gradeSet (i : Fin 4) (x : GradeSet) (before : s.grading.sets[i].state ≠ .inUse) (after : x.state ≠ .inUse) :
      OwnerEffect s (setGradeSet i x s)
  | frameCue (c : FrameCue) (room : s.grading.cues.length < 64) (new : ∀ x ∈ s.grading.cues, x.trigger ≠ c.trigger) :
      OwnerEffect s (setGrading { s.grading with cues := insertCue c s.grading.cues } s)
  | spliceCue (c : SpliceCue) (room : s.grading.spliceCues.length < 16) :
      OwnerEffect s (setGrading { s.grading with spliceCues := s.grading.spliceCues ++ [c] } s)
  | clearCues (a b : Bool) :
      OwnerEffect s
        (setGrading
          { s.grading with cues := if a then [] else s.grading.cues, spliceCues := if b then [] else s.grading.spliceCues } s)
  | loadScratches (xs : List ScratchSpan) (list : scratchListBad xs = false)
      (clear : ∀ e ∈ s.repair.scratches, isLearned e = false → meetsList xs e = false)
      (room : (s.repair.scratches.filter (fun e => !meetsList xs e)).length + xs.length ≤ 32) :
      OwnerEffect s
        (setRepair { s.repair with scratches := (loadScratches xs (s.repair.scratches.filter (fun e => !meetsList xs e))).1 } s)
  | clearScratches (which : Selection) :
      OwnerEffect s (setRepair { s.repair with scratches := s.repair.scratches.filter (fun e => !selectedEntry which e) } s)
  | shelving (x : Vector (Option ShelvingRow) 16) : OwnerEffect s (setReel { s.reel with shelving := x } s)
  | classes (x : Vector (Option ClassEntry) 5) : OwnerEffect s (setReel { s.reel with classes := x } s)
  | opened (x : ReelIdentity) (f : Format) (p : MemoryPlan) (state : s.reel.state = .noReel) (empty : s.contexts = [])
      (plan : s.frameMemory.plan = some p) (ready : s.grading.sets[x.initialSet].state = .ready) :
      OwnerEffect s (openReel x f p s)
  | notices (x : NoticeUnit) : OwnerEffect s { s with notices := x }

theorem formatSetOwner_effect (n : Nat) (f : Format) (s : State) : OwnerEffect s (formatSetOwner n f s).2 := by
  unfold formatSetOwner refuse
  repeat' split
  all_goals first | exact .same | exact .formats _

theorem memoryPlanOwner_effect (p : MemoryPlan) (s : State) : OwnerEffect s (memoryPlanOwner p s).2 := by
  unfold memoryPlanOwner refuse
  split
  · exact .same
  · split
    · exact .same
    · rename_i h1 h2
      split
      · exact .same
      · split
        · exact .same
        · split
          · exact .same
          · exact .plan p (by simpa using h1) (by simpa using h2)

theorem paceTableOwner_effect (t : Vector (Option PaceLevel) 7) (high low : Nat) (s : State) :
    OwnerEffect s (paceTableOwner t high low s).2 := by
  unfold paceTableOwner refuse
  dsimp only
  repeat' split
  all_goals first | exact .same | exact .pace _ rfl rfl rfl

theorem paceRequestOwner_effect (l : Nat) (s : State) : OwnerEffect s (paceRequestOwner l s).2 := .pace _ rfl rfl rfl

theorem timingSetOwner_effect (a b c : Nat) (s : State) : OwnerEffect s (timingSetOwner a b c s).2 := .timing _ _ _

theorem setTracker_same (s : State) : setTracker s.tracker s = s := rfl

theorem framingNudgeOwner_effect (d : Nat) (s : State) : OwnerEffect s (framingNudgeOwner d s).2 := by
  unfold framingNudgeOwner nudgeTracker
  dsimp only
  split
  · exact .same
  · split
    · exact .same
    · split
      · exact .same
      · rename_i h
        split
        · exact .same
        · exact .nudge d ⟨fun e => h (.inl e), fun e => h (.inr (.inl e))⟩

theorem lutLoadOwner_effect (set lut first count : Nat) (data : List Half) (s : State) :
    OwnerEffect s (lutLoadOwner set lut first count data s).2 := by
  unfold lutLoadOwner refuse
  split
  · split
    · exact .same
    · split
      · exact .same
      · rename_i h
        exact .gradeSet _ _ h (by simp [writeLut])
  · exact .same

theorem matrixLoadOwner_effect (set : Nat) (m : Matrix) (s : State) : OwnerEffect s (matrixLoadOwner set m s).2 := by
  unfold matrixLoadOwner refuse
  split
  · exact .same
  · split
    · exact .same
    · rename_i h
      exact .gradeSet _ _ h (by simp)

theorem setClearOwner_effect (set : Nat) (s : State) : OwnerEffect s (setClearOwner set s).2 := by
  unfold setClearOwner refuse
  split
  · exact .same
  · split
    · exact .same
    · rename_i h
      exact .gradeSet _ _ h (by simp [GradeSet.cleared])

theorem setCommitOwner_effect (set : Nat) (s : State) : OwnerEffect s (setCommitOwner set s).2 := by
  unfold setCommitOwner refuse
  split
  · exact .same
  · dsimp only
    split
    · rename_i h
      split
      · exact .gradeSet _ _ (by rw [h]; simp) (by simp)
      · exact .same
    · exact .same
    · exact .same

theorem cueAddOwner_effect (k : CueKind) (set d t : Nat) (s : State) : OwnerEffect s (cueAddOwner k set d t s).2 := by
  unfold cueAddOwner refuse
  split
  · exact .same
  · split
    · exact .same
    · split
      · exact .same
      · split
        · split
          · exact .same
          · rename_i hd
            split
            · exact .same
            · rename_i h
              refine .frameCue _ (by omega) (fun x hx e => hd ?_)
              exact List.any_eq_true.mpr ⟨x, hx, by simpa using e⟩
        · split
          · exact .same
          · exact .spliceCue _ (by omega)

theorem cueClearOwner_effect (w : Selection) (s : State) : OwnerEffect s (cueClearOwner w s).2 := by
  have := OwnerEffect.clearCues (s := s) (decide (w ≠ .second)) (decide (w ≠ .first))
  exact this

theorem scratchLoadOwner_effect (xs : List ScratchSpan) (s : State) : OwnerEffect s (scratchLoadOwner xs s).2 := by
  unfold scratchLoadOwner refuse
  dsimp only
  split
  · exact .same
  · rename_i h1
    split
    · exact .same
    · rename_i h2
      split
      · exact .same
      · rename_i h3
        refine .loadScratches xs (by simpa using h1) (fun e he hl => ?_) (by omega)
        by_contra hm
        apply h2
        refine List.any_eq_true.mpr ⟨e, he, ?_⟩
        simp [hl]
        simpa using hm

theorem scratchClearOwner_effect (w : Selection) (s : State) : OwnerEffect s (scratchClearOwner w s).2 := .clearScratches w

theorem shelvingRowOwner_effect (n : Nat) (r : Option ShelvingRow) (s : State) : OwnerEffect s (shelvingRowOwner n r s).2 := by
  unfold shelvingRowOwner refuse
  repeat' split
  all_goals first | exact .same | exact .shelving _

theorem classSetOwner_effect (n : Nat) (r : Option ClassEntry) (s : State) : OwnerEffect s (classSetOwner n r s).2 := by
  unfold classSetOwner refuse
  repeat' split
  all_goals first | exact .same | exact .classes _

theorem checkRequest_initial (r : ReelRequest) (f : Fin 8) (i : Fin 4) (_ : checkRequest r = some (f, i)) :
    (identityOf r f i).initialSet = i := rfl

theorem reelOpenOwner_effect (r : ReelRequest) (s : State) : OwnerEffect s (reelOpenOwner r s).2 := by
  unfold reelOpenOwner refuse
  split
  · exact .same
  · split
    · exact .same
    · rename_i h
      split
      · rename_i h1 _ h3
        exact .opened _ _ _ (by by_contra c; exact h (.inl c)) (by by_contra c; exact h (.inr c)) h1 h3
      · exact .same

theorem noticeEnableOwner_effect (n : Nat) (b : Bool) (s : State) : OwnerEffect s (noticeEnableOwner n b s).2 := by
  unfold noticeEnableOwner refuse
  split
  · exact .same
  · exact .notices _

theorem noticeAckOwner_effect (n : Nat) (s : State) : OwnerEffect s (noticeAckOwner n s).2 := by
  unfold noticeAckOwner refuse
  split
  · exact .same
  · exact .notices _

theorem withOperand_effect {α : Type} (x : Option α) (owner : α → State → Carried) (s : State)
    (h : ∀ v, OwnerEffect s (owner v s).2) : OwnerEffect s (withOperand x owner s).2 := by
  unfold withOperand badArg refuse
  split
  · exact h _
  · exact .same

/-- A command other than REEL_CLOSE is answered at once, with one of the effects of `OwnerEffect` (R153, R156, Table 10-6). -/
theorem carryOut_effect (c : Command) (s : State) (h : c ≠ .reelClose) :
    (carryOut c s).1.isSome = true ∧ OwnerEffect s (carryOut c s).2 := by
  refine ⟨by cases c <;> first | exact absurd rfl h | rfl, ?_⟩
  cases c with
  | formatSet a => exact withOperand_effect _ _ s (fun v => formatSetOwner_effect _ v s)
  | memoryPlan a => exact memoryPlanOwner_effect _ s
  | paceTableSet a => exact withOperand_effect _ _ s (fun v => paceTableOwner_effect v _ _ s)
  | paceRequest l => exact withOperand_effect _ _ s (fun v => paceRequestOwner_effect v s)
  | timingSet x y z => exact timingSetOwner_effect _ _ _ s
  | framingNudge d => exact framingNudgeOwner_effect _ s
  | lutLoad a b c d e => exact lutLoadOwner_effect _ _ _ _ _ s
  | matrixLoad a => exact withOperand_effect _ _ s (fun v => matrixLoadOwner_effect _ v s)
  | setClear a => exact setClearOwner_effect _ s
  | setCommit a => exact setCommitOwner_effect _ s
  | cueAdd k a d t => exact withOperand_effect _ _ s (fun v => cueAddOwner_effect v _ _ _ s)
  | cueClear w => exact withOperand_effect _ _ s (fun v => cueClearOwner_effect v s)
  | scratchLoad xs => exact withOperand_effect _ _ s (fun v => scratchLoadOwner_effect v s)
  | scratchClear w => exact withOperand_effect _ _ s (fun v => scratchClearOwner_effect v s)
  | shelvingRowSet a => exact withOperand_effect _ _ s (fun v => shelvingRowOwner_effect _ v s)
  | classSet a => exact withOperand_effect _ _ s (fun v => classSetOwner_effect _ v s)
  | reelOpen a => exact withOperand_effect _ _ s (fun v => reelOpenOwner_effect v s)
  | reelClose => exact absurd rfl h
  | noticeEnable a b => exact withOperand_effect _ _ s (fun v => noticeEnableOwner_effect _ v s)
  | noticeAck a => exact noticeAckOwner_effect _ s
  | statusQuery a => exact withOperand_effect _ _ s (fun v => .same)
  | wrongLength => exact .same
  | unknown => exact .same

/-- Everything that carrying a command out can do: an owner's effect with an answer, or an accepted REEL_CLOSE with none (R153). -/
theorem carryOut_cases (c : Command) (s : State) :
    ((carryOut c s).1.isSome = true ∧ OwnerEffect s (carryOut c s).2) ∨
      (c = .reelClose ∧ s.reel.state = .opened ∧ carryOut c s = (none, startClose s)) := by
  by_cases h : c = .reelClose
  · subst h
    by_cases e : s.reel.state = .opened
    · exact .inr ⟨rfl, e, by simp [carryOut, reelCloseOwner, e]⟩
    · refine .inl ?_
      rw [show carryOut .reelClose s = (some ⟨.badState, []⟩, s) by simp [carryOut, reelCloseOwner, e]]
      exact ⟨rfl, .same⟩
  · exact .inl (carryOut_effect c s h)

/-- What an owner's effect and the start of a close keep, a carried-out command keeps. -/
theorem carryOut_keeps {P : State → Prop} (ho : ∀ s t, P s → OwnerEffect s t → P t)
    (hs : ∀ s, P s → s.reel.state = .opened → P (startClose s)) (c : Command) (s : State) (h : P s) : P (carryOut c s).2 := by
  rcases carryOut_cases c s with ⟨-, e⟩ | ⟨-, e, k⟩
  · exact ho _ _ h e
  · rw [k]
    exact hs s h e

/-- Carrying a command out leaves the Command Interpreter's block to the interpreter. -/
theorem carryOut_interpreter (c : Command) (s : State) : (carryOut c s).2.interpreter = s.interpreter := by
  rcases carryOut_cases c s with ⟨-, e⟩ | ⟨-, -, k⟩
  · generalize (carryOut c s).2 = t at e
    cases e <;> rfl
  · rw [k]
    unfold startClose startDrain
    dsimp only
    split <;> rfl

/-! ## A command that starts at its arrival -/

/-- A queue of one command that can start: it is taken from the queue and nothing else starts (R152). -/
theorem runQueue_one (i : Fin 8) (q : QueuedCommand) (u : State) (hq : u.interpreter.queue = [q])
    (hs : startingSlot u.interpreter = some i) : runQueue u = runHead i q.command u := by
  unfold runQueue
  rw [hq]
  simp [runCommands, hq, hs]

/-- A command that arrives at a ready interpreter starts in the free slot (R150, R152). -/
theorem arrive_ready (i : Fin 8) (q : QueuedCommand) (s : State) (h : readyForCommand s i) :
    arrive q s = runHead i q.command (setInterpreter { s.interpreter with queue := [q] } s) := by
  obtain ⟨h1, h2, h3⟩ := h
  have e : arrive q s = runQueue (setInterpreter { s.interpreter with queue := [q] } s) := by
    unfold arrive
    simp [h1]
  rw [e]
  refine runQueue_one i q _ rfl ?_
  have hf : freeSlot { s.interpreter with queue := [q] } = some i := h3
  simp only [setInterpreter_interpreter, startingSlot, h2]
  simpa [h2] using hf

/-- A command that starts at its arrival and is answered at once: its reply stands in the slot, whatever else its owner did (R150, R152,
R151). -/
theorem arriveCommand_answered (i : Fin 8) (tag : Half) (c : Command) (a : Answer) (s t : State) (h : readyForCommand s i)
    (e : carryOut c (startedIn i ⟨codeOf c, tag, c⟩ s) = (some a, t)) :
    done (arriveCommand tag c s) = .next (answeredIn i (codeOf c) tag a.status a.data (setInterpreter s.interpreter t)) := by
  have ht : t.interpreter = claimSlot i { s.interpreter with queue := [⟨codeOf c, tag, c⟩] } := by
    have := carryOut_interpreter c (startedIn i ⟨codeOf c, tag, c⟩ s)
    rw [e] at this
    exact this
  have r : runHead i c (setInterpreter { s.interpreter with queue := [⟨codeOf c, tag, c⟩] } s)
      = setInterpreter (answerHead a t.interpreter) t := by
    unfold runHead
    rw [show setInterpreter (claimSlot i (setInterpreter { s.interpreter with queue := [⟨codeOf c, tag, c⟩] } s).interpreter)
      (setInterpreter { s.interpreter with queue := [⟨codeOf c, tag, c⟩] } s) = startedIn i ⟨codeOf c, tag, c⟩ s from rfl, e]
  unfold done arriveCommand
  rw [arrive_ready i _ s h, r, ht]
  obtain ⟨h1, h2, -⟩ := h
  simp only [answeredIn, setInterpreter, answerHead, claimSlot, fillOrdinary, Vector.set_set, h1, h2]

/-- An accepted REEL_CLOSE that starts at its arrival stays in flight at the head of the queue (R153). -/
theorem arriveCommand_unanswered (i : Fin 8) (tag : Half) (c : Command) (s t : State) (h : readyForCommand s i)
    (e : carryOut c (startedIn i ⟨codeOf c, tag, c⟩ s) = (none, t)) :
    done (arriveCommand tag c s) = .next (settleStall t) := by
  unfold done arriveCommand
  rw [arrive_ready i _ s h]
  unfold runHead
  rw [show setInterpreter (claimSlot i (setInterpreter { s.interpreter with queue := [⟨codeOf c, tag, c⟩] } s).interpreter)
      (setInterpreter { s.interpreter with queue := [⟨codeOf c, tag, c⟩] } s) = startedIn i ⟨codeOf c, tag, c⟩ s from rfl, e]

theorem setInterpreter_setInterpreter (x y : Interpreter) (s : State) :
    setInterpreter x (setInterpreter y s) = setInterpreter x s := rfl

/-- A command's row is its arrival. -/
theorem exec_rowOf (c : Command) (tag : Half) (s : State) (h : c ≠ .wrongLength) :
    exec (rowOf tag c) s = done (arriveCommand tag c s) := by
  cases c <;> first | exact absurd rfl h | rfl

/-- What a command's row answers follows from what carrying it out answers, whatever the interpreter's block holds meanwhile. -/
theorem answersWith_of {c : Command} {s t : State} {st : ReplyStatus} {d : List Word} (hc : c ≠ .wrongLength)
    (ht : t.interpreter = s.interpreter)
    (e : ∀ x, carryOut c (setInterpreter x s) = (some ⟨st, d⟩, setInterpreter x t)) : answersWith c s st d t := by
  intro tag i h
  rw [exec_rowOf c tag s hc]
  rw [arriveCommand_answered i tag c ⟨st, d⟩ s _ h (e _)]
  have : setInterpreter s.interpreter t = t := by rw [← ht]; rfl
  simp only [setInterpreter_setInterpreter, this]

/-- The same for a refusal. -/
theorem refusedWith_of {c : Command} {s : State} {st : ReplyStatus} (hc : c ≠ .wrongLength)
    (e : ∀ x, carryOut c (setInterpreter x s) = (some ⟨st, []⟩, setInterpreter x s)) : refusedWith c s st :=
  answersWith_of hc rfl e

end Sys2Proof.Machine
end

