-- ==== Sys2Proof/Laws/GradeSets.lean ====
section
/-! SUPPORT. The states of the Grade Sets follow the current set and the target set (R111): one lemma for each operation. -/

namespace Sys2Proof.Machine

/-- `setsInv` on the grading block. -/
def gradingInv (g : Grading) : Prop := ∀ i : Fin 4, g.sets[i].state = .inUse ↔ setInUse g i

theorem mapSets_get (f : Fin 4 → GradeSet → GradeSet) (v : Vector GradeSet 4) (i : Fin 4) : (mapSets f v)[i] = f i v[i] := by
  match i with
  | 0 => rfl
  | 1 => rfl
  | 2 => rfl
  | 3 => rfl

theorem settleSets_inv (g : Grading) : gradingInv (settleSets g) := by
  intro i
  have : (settleSets g).sets[i] = settleSet (g.current == some i || targetOf g.dissolve == some i) g.sets[i] := mapSets_get _ _ i
  rw [this]
  have e : setInUse (settleSets g) i ↔ (g.current == some i || targetOf g.dissolve == some i) = true := by
    simp [setInUse, settleSets]
  rw [e]
  unfold settleSet
  split
  · simp_all
  · split <;> simp_all

/-- R127: settling leaves every set's contents, and its state follows the current set and the target set. -/
theorem settleSets_follow (g : Grading) : setsFollow g.current (g.dissolve.map (·.target)) g (settleSets g) := by
  intro k
  have : (settleSets g).sets[k] = settleSet (g.current == some k || targetOf g.dissolve == some k) g.sets[k] := mapSets_get _ _ k
  rw [this]
  by_cases h : g.current = some k ∨ g.dissolve.map (·.target) = some k
  · rw [if_pos h]
    have : (g.current == some k || targetOf g.dissolve == some k) = true := by simpa [targetOf] using h
    rw [this]; rfl
  · rw [if_neg h]
    have : (g.current == some k || targetOf g.dissolve == some k) = false := by
      rw [not_or] at h
      simpa [targetOf] using h
    rw [this]
    unfold settleSet
    by_cases h2 : g.sets[k].state = .inUse
    · rw [if_neg (by simp), if_pos h2, if_pos h2]
    · rw [if_neg (by simp), if_neg h2, if_neg h2]

theorem gradingInv_congr {g h : Grading} (e1 : g.sets = h.sets) (e2 : g.current = h.current) (e3 : targetOf g.dissolve = targetOf h.dissolve) (k : gradingInv h) : gradingInv g := by
  intro i; rw [e1]; unfold setInUse; rw [e2, e3]; exact k i

theorem frameStartGrading_inv (n : Nat) (b : Bool) (g : Grading) : gradingInv (frameStartGrading n b g) := by
  unfold frameStartGrading
  dsimp only
  split <;> exact settleSets_inv _

theorem releaseSets_inv (g : Grading) : gradingInv (releaseSets g) := settleSets_inv _

theorem abort_gradingInv (g : Grading) : gradingInv g.abort := gradingInv_congr rfl rfl rfl (releaseSets_inv g)

theorem endOfClose_gradingInv (g : Grading) : gradingInv g.endOfClose := gradingInv_congr rfl rfl rfl (releaseSets_inv g)

theorem opening_gradingInv (f : ConformanceFields) (i : Fin 4) (g : Grading) : gradingInv (g.opening f i) := settleSets_inv _

theorem advanceDissolve_inv (g : Grading) (h : gradingInv g) : gradingInv (advanceDissolve g) := by
  unfold advanceDissolve
  split
  · exact h
  · rename_i x hx
    split
    · exact settleSets_inv _
    · refine gradingInv_congr (h := g) rfl rfl ?_ h
      simp [targetOf, hx]

end Sys2Proof.Machine
end

