-- ==== Sys2Proof/Laws/Intake.lean ====
section
/-! SUPPORT. The Intake Port's handling of a line packet, said once: what its parts keep, the handling keeps. -/

namespace Sys2Proof.Machine

/-- The parts of a line packet's handling, for a property that does not speak of the Intake Port's own block. -/
structure LineKeeps (P : State → Prop) : Prop where
  intake : ∀ x s, P s → P (setIntake x s)
  stage : ∀ l s, P s → P (stageLine l s)
  track : ∀ r s, P s → P (trackLine r s)
  report : ∀ s, P s → P (reportChange s)
  error : ∀ s, P s → P (raise .intakeError s)
  stop : ∀ s, P s → P (forceStop s)

namespace LineKeeps

variable {P : State → Prop} (k : LineKeeps P)

include k

theorem endDrain (s : State) (h : P s) : P (endDrain s) := k.stop _ (k.intake _ s h)

theorem count (g : IntakeCounters → IntakeCounters) (s : State) (h : P s) : P (countIntake g s) := k.intake _ s h

theorem consumeMissing (b : Bool) (s : State) (h : P s) : P (consumeMissing b s) :=
  k.report _ (k.track _ _ (k.count _ _ (k.intake _ s h)))

theorem consumeReceived (l : LinePayload) (b : Bool) (s : State) (h : P s) : P (consumeReceived l b s) :=
  k.report _ (k.track _ _ (k.stage _ _ (k.count _ _ (k.intake _ s h))))

theorem consumePacket (l : LinePayload) (b : Bool) (s : State) (h : P s) : P (consumePacket l b s) := by
  unfold Machine.consumePacket
  split
  · exact k.consumeMissing b s h
  · exact k.consumeReceived l b s h

theorem takeNumber (l : LinePayload) (b : Bool) (s : State) (h : P s) : P (takeNumber l b s) := by
  unfold Machine.takeNumber
  split
  · exact k.endDrain s h
  · exact k.consumePacket l b _ (k.intake _ s h)

theorem consumeGap (l : LinePayload) (n : Nat) (s : State) (h : P s) : P (consumeGap l n s) := by
  induction n generalizing s with
  | zero => exact k.takeNumber l false s h
  | succ n ih =>
    unfold Machine.consumeGap
    split
    · exact k.endDrain s h
    · exact ih _ (k.consumeMissing false s h)

theorem startGap (s : State) (h : P s) : P (startGap s) := by
  unfold Machine.startGap
  split
  · exact h
  · exact k.error _ (k.count _ s h)

theorem startBreak (s : State) (h : P s) : P (startBreak s) := by
  unfold Machine.startBreak
  split
  · exact h
  · exact k.error _ (k.count _ s h)

theorem goodLine (l : LinePayload) (s : State) (h : P s) : P (goodLine l s) := by
  unfold Machine.goodLine
  split
  · exact k.takeNumber l false s h
  · dsimp only
    split
    · exact k.takeNumber l false s h
    · split
      · exact k.consumeGap l _ _ (k.startGap s h)
      · split
        · exact k.count _ s h
        · exact k.takeNumber l true _ (k.startBreak s h)

theorem failedLine (s : State) (h : P s) : P (failedLine s) := by
  unfold Machine.failedLine
  split
  · exact k.endDrain s h
  · exact k.consumeMissing false _ (k.error _ (k.intake _ _ (k.count _ s h)))

/-- A line packet's handling keeps what its parts keep (R5 to R10). -/
theorem receiveLine (payload : Option (List Byte)) (s : State) (h : P s) : P (receiveLine payload s) := by
  unfold Machine.receiveLine
  split
  · exact h
  · dsimp only
    split
    · exact k.goodLine _ _ (k.intake _ s h)
    · exact k.failedLine _ (k.intake _ s h)

theorem malformed (s : State) (h : P s) : P (malformed s) := k.error _ (k.count _ s h)

theorem controlCrcFailure (s : State) (h : P s) : P (controlCrcFailure s) := k.error _ (k.count _ s h)

theorem silenceExpires (s : State) (h : P s) : P (silenceExpires s) := k.report _ (k.endDrain _ (k.intake _ s h))

end LineKeeps

end Sys2Proof.Machine
end

