-- ==== Sys2Proof/Laws/LineTracking.lean ====
section
/-! SUPPORT. The Frame Tracker's handling of a line, said once: what its parts keep, the handling keeps. -/

namespace Sys2Proof.Machine

/-- The parts of a tracked line's handling, for a property that does not speak of the Tracker's own block, of the contexts, the notices
or the Conformance Engine: `same` says the last, `form` that forming the effective level anew keeps it. -/
structure TrackKeeps (P : State → Prop) : Prop where
  same : ∀ s t, outsideConformance s = outsideConformance t → P t → P s
  tracker : ∀ x s, P s → P (setTracker x s)
  contexts : ∀ x s, P s → P { s with contexts := x }
  notice : ∀ c s, P s → P (raise c s)
  form : ∀ s, P s → P (formEffective s)

namespace TrackKeeps

variable {P : State → Prop} (k : TrackKeeps P)

include k

theorem count (g : TrackerCounters → TrackerCounters) (s : State) (h : P s) : P (countTracker g s) := k.tracker _ s h

theorem mode (m : TrackerMode) (s : State) (h : P s) : P (setMode m s) := k.form _ (k.tracker _ s h)

theorem noticeIf (b : Bool) (c : NoticeClass) (s : State) (h : P s) : P (raiseIf b c s) := by
  unfold raiseIf; split
  · exact k.notice _ _ h
  · exact h

theorem lose (n : Nat) (s : State) (h : P s) : P (loseFrames n s) := by
  unfold loseFrames; split
  · exact h
  · exact k.notice _ _ (k.count _ _ h)

theorem cut (m : CutState) (n : Nat) (s : State) (h : P s) : P (cutFrame m n s) := by
  unfold cutFrame
  split
  · exact h
  · dsimp only
    split
    · exact k.same _ _ (takeIfIdle_outside _) (k.noticeIf _ _ _ (k.noticeIf _ _ _ (k.contexts _ _ (k.tracker _ _ h))))
    · exact k.lose _ _ (k.tracker _ _ h)

theorem move (r : Resolution) (s : State) (h : P s) : P (moveState r s) := by
  unfold moveState
  dsimp only
  split
  · exact k.mode _ _ (k.tracker _ _ h)
  · split
    · split
      · exact k.mode _ _ (k.tracker _ _ h)
      · exact k.tracker _ _ h
    · exact k.tracker _ _ h

theorem rephase (f : TrackingFields) (p : Nat) (s : State) (h : P s) : P (rephase f p s) := by
  unfold Machine.rephase
  split
  · exact k.lose _ _ (k.tracker _ _ h)
  · exact k.tracker _ _ h

theorem countdown (f : TrackingFields) (p : Nat) (st : PerfStatus) (t : Tally) (s : State) (h : P s) : P (moveCountdown f p st t s) := by
  unfold moveCountdown
  dsimp only
  split
  · exact h
  · split
    · exact k.rephase _ _ _ (k.tracker _ _ h)
    · exact k.tracker _ _ h

theorem span (f : TrackingFields) (st : PerfStatus) (s : State) (h : P s) : P (updateSpan f st s) := by
  unfold updateSpan
  split
  · split
    · exact k.contexts _ s h
    · exact h
  · exact h

theorem finish (f : TrackingFields) (p : Nat) (st : PerfStatus) (t : Tally) (s : State) (h : P s) : P (finishResolution f p st t s) :=
  k.tracker _ _ (k.span _ _ _ (k.countdown _ _ _ _ _ (k.cut _ _ _ h)))

theorem resolve (f : TrackingFields) (p : Nat) (r : Resolution) (s : State) (h : P s) : P (resolve f p r s) :=
  k.finish _ _ _ _ _ (k.tracker _ _ (k.move _ _ (k.count _ _ h)))

theorem candidate (f : TrackingFields) (c : Candidate) (s : State) (h : P s) : P (resolveCandidate f c s) := k.finish _ _ _ _ _ (k.count _ _ h)

theorem acquire (f : TrackingFields) (a b c : Candidate) (s : State) (h : P s) : P (acquireLock f a b c s) :=
  k.candidate _ _ _ (k.candidate _ _ _ (k.candidate _ _ _ (k.mode _ _ (k.tracker _ _ h))))

theorem add (f : TrackingFields) (p : Nat) (s : State) (h : P s) : P (addCandidate f p s) := by
  unfold addCandidate
  dsimp only
  split
  · split
    · exact k.acquire _ _ _ _ _ (k.tracker _ _ h)
    · exact k.tracker _ _ h
  · exact k.tracker _ _ h

theorem lock (b : Bool) (s : State) (h : P s) : P (loseLock b s) :=
  k.notice _ _ (k.count _ _ (k.mode _ _ (k.tracker _ _ (k.cut _ _ _ (k.tracker _ _ h)))))

theorem edge (f : TrackingFields) (e : Nat) (s : State) (h : P s) : P (takeEdge f e s) := by
  unfold takeEdge
  split
  · exact k.add _ _ _ h
  · exact h
  · split
    · unfold windowEdge
      split
      · exact k.count _ _ h
      · split
        · exact k.resolve _ _ _ _ h
        · exact h
    · exact h

theorem close (f : TrackingFields) (p : Nat) (s : State) (h : P s) : P (closeWindow f p s) := by
  unfold closeWindow
  split
  · split
    · split
      · exact k.resolve _ _ _ _ h
      · exact k.lock _ _ h
    · exact h
  · exact h

theorem sample (f : TrackingFields) (v : Option Bool) (p : Nat) (s : State) (h : P s) : P (examineSample f v p s) := by
  unfold examineSample
  split
  · exact k.close _ _ _ (k.tracker _ _ h)
  · dsimp only
    refine k.close _ _ _ ?_
    split
    · split
      · exact k.edge _ _ _ (k.tracker _ _ h)
      · exact k.tracker _ _ h
    · exact k.tracker _ _ h

theorem examine (f : TrackingFields) (l : Nat) (v : Option Half) (p n : Nat) (s : State) (h : P s) : P (examineFrom f l v p n s) := by
  induction n generalizing p s with
  | zero => exact h
  | succ n ih => exact ih _ _ (k.sample _ _ _ _ h)

/-- The tracking of a line keeps what its parts keep (R18, R44). -/
theorem trackLine (r : LineRecord) (s : State) (h : P s) : P (trackLine r s) := by
  unfold Machine.trackLine
  split
  · exact h
  · exact h
  · dsimp only
    refine k.examine _ _ _ _ _ _ (k.tracker _ _ ?_)
    have h1 : P (if r.atBreak = true then actOnBreak s else s) := by
      split
      · unfold actOnBreak
        split
        · exact k.tracker _ _ h
        · exact h
        · exact k.lock _ _ h
      · exact h
    generalize (if r.atBreak = true then actOnBreak s else s) = u at h1
    unfold countUnframed
    split
    · exact k.count _ _ h1
    · exact h1

end TrackKeeps

end Sys2Proof.Machine
end

