-- ==== Sys2Proof/Laws/Memory.lean ====
section
/-! SUPPORT. The sparse tables and the DDR memory: every operation keeps the canonical form, and a read gives what was written. -/

namespace Sys2Proof.Machine

/-! ## The canonical form is kept -/

theorem keysRise_nil {α : Type} : keysRise ([] : List (Nat × α)) := List.Pairwise.nil

theorem keysRise_filter {α : Type} {m : List (Nat × α)} (p : Nat × α → Bool) (h : keysRise m) : keysRise (m.filter p) :=
  List.Pairwise.filter p h

theorem keysRise_erase {α : Type} {m : List (Nat × α)} (k : Nat) (h : keysRise m) : keysRise (tableErase m k) :=
  keysRise_filter _ h

theorem keysRise_set {α : Type} {m : List (Nat × α)} (k : Nat) (v : α) (h : keysRise m) : keysRise (tableSet m k v) := by
  unfold tableSet keysRise
  rw [List.pairwise_append, List.pairwise_cons]
  refine ⟨keysRise_filter _ h, ⟨?_, keysRise_filter _ h⟩, ?_⟩
  · intro x hx
    simpa using (List.mem_filter.mp hx).2
  · intro x hx y hy
    have hx' : x.1 < k := by simpa using (List.mem_filter.mp hx).2
    rcases List.mem_cons.mp hy with rfl | hy
    · exact hx'
    · have hy' : k < y.1 := by simpa using (List.mem_filter.mp hy).2
      omega

theorem mem_runAt {α : Type} (vs : List α) (k : Nat) (x : Nat × α) (h : x ∈ runAt k vs) : k ≤ x.1 ∧ x.1 < k + vs.length := by
  induction vs generalizing k with
  | nil => simp [runAt] at h
  | cons v vs ih =>
    rcases List.mem_cons.mp h with rfl | h
    · simp
    · have := ih (k + 1) h
      simp only [List.length_cons]
      omega

theorem keysRise_runAt {α : Type} (vs : List α) (k : Nat) : keysRise (runAt k vs) := by
  induction vs generalizing k with
  | nil => exact List.Pairwise.nil
  | cons v vs ih =>
    refine List.pairwise_cons.mpr ⟨fun x hx => ?_, ih (k + 1)⟩
    have := (mem_runAt vs (k + 1) x hx).1
    simp only
    omega

theorem keysRise_setRun {α : Type} {m : List (Nat × α)} (k : Nat) (vs : List α) (h : keysRise m) :
    keysRise (tableSetRun m k vs) := by
  unfold tableSetRun keysRise
  rw [List.pairwise_append, List.pairwise_append]
  refine ⟨⟨keysRise_filter _ h, keysRise_runAt vs k, ?_⟩, keysRise_filter _ h, ?_⟩
  · intro x hx y hy
    have hx' : x.1 < k := by simpa using (List.mem_filter.mp hx).2
    have := (mem_runAt vs k y hy).1
    omega
  · intro x hx y hy
    have hy' : k + vs.length ≤ y.1 := by simpa using (List.mem_filter.mp hy).2
    rcases List.mem_append.mp hx with hx | hx
    · have hx' : x.1 < k := by simpa using (List.mem_filter.mp hx).2
      omega
    · have := (mem_runAt vs k x hx).2
      omega

/-- A transfer that stores bytes keeps the memory's canonical form. -/
theorem memoryWf_writeBytes (f : FrameMemory) (a : Nat) (bs : List Byte) (h : memoryWf f.bytes) :
    memoryWf (writeBytes f a bs).bytes := keysRise_setRun a bs h

/-- A memory whose contents become undefined has the canonical form. -/
theorem memoryWf_forgetBytes (f : FrameMemory) : memoryWf (forgetBytes f).bytes := keysRise_nil

/-- The memory after reset has the canonical form. -/
theorem memoryWf_reset : memoryWf State.reset.frameMemory.bytes := keysRise_nil

/-! ## Reading a table -/

theorem tableGet_filter_eq {α : Type} (m : List (Nat × α)) (p : Nat × α → Bool) (k : Nat)
    (h : ∀ x : Nat × α, x.1 = k → p x = true) : tableGet (m.filter p) k = tableGet m k := by
  unfold tableGet
  induction m with
  | nil => rfl
  | cons x xs ih =>
    by_cases hx : x.1 = k
    · simp [List.filter_cons, h x hx, hx]
    · by_cases hp : p x = true
      · simp [List.filter_cons, hp, hx] at ih ⊢
        exact ih
      · simp [List.filter_cons, hp, hx] at ih ⊢
        exact ih

theorem tableGet_filter_none {α : Type} (m : List (Nat × α)) (p : Nat × α → Bool) (k : Nat)
    (h : ∀ x : Nat × α, x.1 = k → p x = false) : tableGet (m.filter p) k = none := by
  unfold tableGet
  rw [Option.map_eq_none_iff, List.find?_eq_none]
  intro x hx
  have := (List.mem_filter.mp hx).2
  by_cases hk : x.1 = k
  · rw [h x hk] at this; exact absurd this (by decide)
  · simpa using hk

theorem tableGet_append {α : Type} (m n : List (Nat × α)) (k : Nat) :
    tableGet (m ++ n) k = (tableGet m k).or (tableGet n k) := by
  unfold tableGet
  rw [List.find?_append]
  cases List.find? (fun x => x.1 == k) m <;> simp

theorem tableGet_runAt {α : Type} (vs : List α) (k a : Nat) :
    tableGet (runAt k vs) a = if k ≤ a then vs[a - k]? else none := by
  induction vs generalizing k with
  | nil => simp [runAt, tableGet]
  | cons v vs ih =>
    unfold tableGet at ih ⊢
    by_cases h : k = a
    · subst h; simp [runAt]
    · simp only [runAt, List.find?_cons]
      rw [show (k == a) = false by simpa using h]
      simp only [Bool.false_eq_true, ↓reduceIte] at *
      rw [ih (k + 1)]
      by_cases hk : k ≤ a
      · have e : a - k = (a - (k + 1)) + 1 := by omega
        simp [hk, show k + 1 ≤ a by omega, e]
      · simp [hk, show ¬ k + 1 ≤ a by omega]

/-- A read outside a stored run gives what stood there. -/
theorem tableGet_setRun_outside {α : Type} (m : List (Nat × α)) (k a : Nat) (vs : List α) (h : a < k ∨ k + vs.length ≤ a) :
    tableGet (tableSetRun m k vs) a = tableGet m a := by
  unfold tableSetRun
  rw [tableGet_append, tableGet_append, tableGet_runAt]
  rcases h with h | h
  · rw [tableGet_filter_eq m (fun x => decide (x.1 < k)) a (fun x hx => by simp; omega),
      tableGet_filter_none m (fun x => decide (k + vs.length ≤ x.1)) a (fun x hx => by simp; omega)]
    simp [show ¬ k ≤ a by omega]
  · rw [tableGet_filter_none m (fun x => decide (x.1 < k)) a (fun x hx => by simp; omega),
      tableGet_filter_eq m (fun x => decide (k + vs.length ≤ x.1)) a (fun x hx => by simp; omega)]
    simp [show k ≤ a by omega, show vs.length ≤ a - k by omega]

/-- A read inside a stored run gives the value stored. -/
theorem tableGet_setRun_inside {α : Type} (m : List (Nat × α)) (k i : Nat) (vs : List α) (h : i < vs.length) :
    tableGet (tableSetRun m k vs) (k + i) = some vs[i] := by
  unfold tableSetRun
  rw [tableGet_append, tableGet_append, tableGet_runAt,
    tableGet_filter_none m (fun x => decide (x.1 < k)) (k + i) (fun x hx => by simp; omega)]
  simp [h]

/-- A byte outside a stored run reads as before (R60). -/
theorem readByte_writeBytes_outside (f : FrameMemory) (a b : Nat) (bs : List Byte) (h : b < a ∨ a + bs.length ≤ b) :
    readByte (writeBytes f a bs) b = readByte f b := by
  unfold readByte readByte? writeBytes
  rw [tableGet_setRun_outside _ _ _ _ h]

/-- A byte of a stored run reads as stored (R60). -/
theorem readByte_writeBytes_inside (f : FrameMemory) (a i : Nat) (bs : List Byte) (h : i < bs.length) :
    readByte (writeBytes f a bs) (a + i) = bs[i] := by
  unfold readByte readByte? writeBytes
  rw [tableGet_setRun_inside _ _ _ _ h]
  rfl

end Sys2Proof.Machine
end

