-- ==== Sys2Proof/Laws/Pace.lean ====
section
/-! SUPPORT. The step counters (R52): what loading, forming the level and an underflow do to what they hold. -/

namespace Sys2Proof.Machine

/-- Level 0 has no entry: it loads nothing (R47). -/
@[simp] theorem loadCounters_zero (p : Pace) : loadCounters p 0 = none := rfl

/-- Loading gives the level with the P and Q of its entry in the Pace Table, and nothing where there is none. -/
theorem loadCounters_eq (p : Pace) (l : Nat) : loadCounters p l = loadedWith p l := by
  unfold loadCounters loadedWith paceEntry
  by_cases h : l = 0
  · simp [h]
  · rw [if_pos (by omega), if_neg h]
    rcases p.table[l - 1]? with _ | _ | x <;> rfl

/-- Forming the effective level leaves what RUNNING counters hold. -/
theorem withLevel_running (n : Nat) (p : Pace) (l : LoadedLevel) (h : p.counters = some l) :
    (withLevel n p).counters = some l := by
  unfold withLevel
  split
  · exact h
  · rw [if_neg (by simp [h])]
    exact h

@[simp] theorem withLevel_effective (n : Nat) (p : Pace) : (withLevel n p).effective = n := by
  unfold withLevel
  split
  · exact Eq.symm ‹_›
  · split <;> rfl

@[simp] theorem withLevel_table (n : Nat) (p : Pace) : (withLevel n p).table = p.table := by
  unfold withLevel
  split
  · rfl
  · split <;> rfl

@[simp] theorem withLevel_trun (n : Nat) (p : Pace) : (withLevel n p).trun = p.trun := by
  unfold withLevel
  split
  · rfl
  · split <;> rfl

@[simp] theorem withLevel_due (n : Nat) (p : Pace) : (withLevel n p).due = p.due := by
  unfold withLevel
  split
  · rfl
  · split <;> rfl

/-- STOPPED counters do not underflow. -/
theorem underflow_stopped (p : Pace) (h : p.counters = none) : underflow p = p := by simp [underflow, h]

/-- The underflow of RUNNING counters: a pulse, and the standing effective level is loaded. -/
theorem underflow_running (p : Pace) (l : LoadedLevel) (h : p.counters = some l) :
    underflow p = { p with pulses := p.pulses + 1, counters := loadedWith p p.effective } := by
  simp [underflow, h, loadCounters_eq]

end Sys2Proof.Machine
end

