-- ==== Sys2Proof/Laws/Packets.lean ====
section
/-! SUPPORT. The runs of the links read back: bytes, words, pixels and whole packets (R1, R166, R167). -/

namespace Sys2Proof

/-! ## Bytes and 16-bit values -/

theorem halfBytes_length (h : Half) : (halfBytes h).length = 2 := rfl

theorem wordBytes_length (w : Word) : (wordBytes w).length = 4 := rfl

/-- The two bytes of a 16-bit value put together again. -/
theorem half_join (h : Half) : h.extractLsb' 8 8 ++ h.extractLsb' 0 8 = h := by
  apply BitVec.eq_of_getLsbD_eq
  intro i hi
  rw [BitVec.getLsbD_append]
  split
  · rename_i h8
    simp [h8]
  · rename_i h8
    rw [BitVec.getLsbD_extractLsb', show 8 + (i - 8) = i by omega]
    simp
    omega

theorem byteAt_append_left (a b : List Byte) (i : Nat) (h : i < a.length) : byteAt (a ++ b) i = byteAt a i := by
  simp [byteAt, List.getD_eq_getElem?_getD, List.getElem?_append_left h]

theorem byteAt_append_right (a b : List Byte) (i : Nat) (h : a.length ≤ i) : byteAt (a ++ b) i = byteAt b (i - a.length) := by
  simp [byteAt, List.getD_eq_getElem?_getD, List.getElem?_append_right h]

theorem halfAt_append_left (a b : List Byte) (i : Nat) (h : i + 1 < a.length) : halfAt (a ++ b) i = halfAt a i := by
  unfold halfAt
  rw [byteAt_append_left _ _ _ h, byteAt_append_left _ _ _ (by omega)]

theorem halfAt_append_right (a b : List Byte) (i : Nat) (h : a.length ≤ i) : halfAt (a ++ b) i = halfAt b (i - a.length) := by
  unfold halfAt
  rw [byteAt_append_right _ _ _ h, byteAt_append_right _ _ _ (by omega)]
  congr 2
  omega

/-- A 16-bit value read at the start of its own bytes. -/
theorem halfAt_halfBytes (h : Half) (rest : List Byte) : halfAt (halfBytes h ++ rest) 0 = h := half_join h

theorem wordAt_append_left (a b : List Byte) (i : Nat) (h : 4 * i + 3 < a.length) : wordAt (a ++ b) i = wordAt a i := by
  unfold wordAt
  rw [halfAt_append_left _ _ _ (by omega), halfAt_append_left _ _ _ (by omega)]

theorem wordAt_append_right (a b : List Byte) (i : Nat) (h : a.length = 4 * i) : wordAt (a ++ b) i = wordAt b 0 := by
  unfold wordAt
  rw [halfAt_append_right _ _ _ (by omega), halfAt_append_right _ _ _ (by omega)]
  congr 2 <;> omega

/-- A word read at the start of its own bytes. -/
theorem wordAt_wordBytes (w : Word) (rest : List Byte) : wordAt (wordBytes w ++ rest) 0 = w := by
  simp only [wordAt, halfAt, byteAt, wordBytes, List.cons_append, List.nil_append]
  apply BitVec.eq_of_getLsbD_eq
  intro i hi
  simp only [Nat.mul_zero, Nat.zero_add, List.getD_cons_succ, List.getD_cons_zero, BitVec.getLsbD_append, BitVec.getLsbD_extractLsb']
  split
  · split
    · rename_i h8
      simp [h8]
    · rw [show 8 + (i - 8) = i by omega]
      simp
      omega
  · split
    · rw [show 16 + (i - (8 + 8)) = i by omega]
      simp
      omega
    · rw [show 24 + (i - (8 + 8) - 8) = i by omega]
      simp
      omega

/-- Reading past a word: the words of a run stand four bytes apart. -/
theorem wordAt_cons (w : Word) (rest : List Byte) (i : Nat) : wordAt (wordBytes w ++ rest) (i + 1) = wordAt rest i := by
  unfold wordAt
  rw [halfAt_append_right _ _ _ (by rw [wordBytes_length]; omega), halfAt_append_right _ _ _ (by rw [wordBytes_length]; omega)]
  simp only [wordBytes_length]
  congr 2

/-! ## Lists of values -/

theorem bytesOfWords_length (ws : List Word) : (bytesOfWords ws).length = 4 * ws.length := by
  induction ws with
  | nil => rfl
  | cons w ws ih =>
    have : bytesOfWords (w :: ws) = wordBytes w ++ bytesOfWords ws := rfl
    rw [this, List.length_append, ih, wordBytes_length, List.length_cons]
    omega

theorem wordsOf_bytesOfWords (ws : List Word) (rest : List Byte) : wordsOf ws.length (bytesOfWords ws ++ rest) = ws := by
  induction ws with
  | nil => rfl
  | cons w ws ih =>
    have e : bytesOfWords (w :: ws) ++ rest = wordBytes w ++ (bytesOfWords ws ++ rest) := by
      simp [bytesOfWords]
    rw [List.length_cons, wordsOf, e, wordAt_wordBytes]
    congr 1

theorem halvesOf_halfBytes (hs : List Half) (rest : List Byte) : halvesOf hs.length (hs.flatMap halfBytes ++ rest) = hs := by
  induction hs with
  | nil => rfl
  | cons h hs ih =>
    have e : (h :: hs).flatMap halfBytes ++ rest = halfBytes h ++ (hs.flatMap halfBytes ++ rest) := by simp
    rw [List.length_cons, halvesOf, e, halfAt_halfBytes]
    congr 1

theorem halfBytes_flatMap_length (hs : List Half) : (hs.flatMap halfBytes).length = 2 * hs.length := by
  induction hs with
  | nil => rfl
  | cons h hs ih => rw [List.flatMap_cons, List.length_append, ih, halfBytes_length, List.length_cons]; omega

namespace Machine

theorem pixelBytes_length (p : Pixel) : (pixelBytes p).length = 8 := rfl

/-- A pixel read from its own eight bytes (R60). -/
theorem pixelAt_pixelBytes (p : Pixel) (rest : List Byte) : pixelAt (pixelBytes p ++ rest) = p := by
  cases p with
  | mk r g b ir =>
    have e := half_join
    simp only [pixelAt, pixelBytes, halfAt, byteAt, halfBytes, List.cons_append, List.nil_append]
    simp [e]

theorem pixelBytes_flatMap_length (ps : List Pixel) : (ps.flatMap pixelBytes).length = 8 * ps.length := by
  induction ps with
  | nil => rfl
  | cons p ps ih => rw [List.flatMap_cons, List.length_append, ih, pixelBytes_length, List.length_cons]; omega

/-- The pixels of a line read back from its bytes (R60, Table 12-4). -/
theorem pixelsOf_pixelBytes (ps : List Pixel) (rest : List Byte) : pixelsOf ps.length (ps.flatMap pixelBytes ++ rest) = ps := by
  induction ps with
  | nil => rfl
  | cons p ps ih =>
    have e : (p :: ps).flatMap pixelBytes ++ rest = pixelBytes p ++ (ps.flatMap pixelBytes ++ rest) := by simp
    rw [List.length_cons, pixelsOf, e, pixelAt_pixelBytes]
    congr 1

/-! ## Whole packets (Table 12-1) -/

theorem packetBody_length (kind : Byte) (p : List Byte) : (packetBody kind p).length = 4 * (payloadWords p.length + 1) := by
  simp only [packetBody, List.length_append, List.length_cons, List.length_nil, halfBytes_length, List.length_replicate, payloadWords]
  omega

theorem packetRun_length (kind : Byte) (p : List Byte) : (packetRun kind p).length = 4 * (payloadWords p.length + 2) := by
  simp only [packetRun, List.length_append, packetBody_length, halfBytes_length, List.length_cons, List.length_nil]
  omega

theorem packetRun_kind (kind : Byte) (p : List Byte) : byteAt (packetRun kind p) 0 = kind := rfl

theorem packetRun_statedLength (kind : Byte) (p : List Byte) (h : p.length < 65536) : statedLength (packetRun kind p) = p.length := by
  have e : packetRun kind p = [kind, 0#8] ++ (halfBytes (BitVec.ofNat 16 p.length) ++ (p
    ++ List.replicate (4 * payloadWords p.length - p.length) 0#8 ++ halfBytes (crc16 (packetBody kind p)) ++ [0#8, 0#8])) := by
    simp [packetRun, packetBody]
  unfold statedLength
  rw [e, halfAt_append_right _ _ _ (by simp)]
  rw [show 2 - [kind, 0#8].length = 0 from rfl, halfAt_halfBytes]
  simp
  omega

/-- A packet with its own check value is intact (R1, R166). -/
theorem packetRun_intact (kind : Byte) (p : List Byte) (h : p.length < 65536) : runIntact (packetRun kind p) = true := by
  have l := packetRun_length kind p
  have b := packetBody_length kind p
  have e : packetRun kind p = packetBody kind p ++ (halfBytes (crc16 (packetBody kind p)) ++ [0#8, 0#8]) := by
    simp [packetRun]
  have n : (packetRun kind p).length - 4 = (packetBody kind p).length := by omega
  have t : (packetRun kind p).take (packetBody kind p).length = packetBody kind p := by
    rw [e]
    exact List.take_left' rfl
  have c : halfAt (packetRun kind p) (packetBody kind p).length = crc16 (packetBody kind p) := by
    rw [e, halfAt_append_right _ _ _ (Nat.le_refl _), Nat.sub_self, halfAt_halfBytes]
  unfold runIntact
  rw [packetRun_statedLength kind p h, n, t, c, l]
  simp

theorem packetRun_payload (kind : Byte) (p : List Byte) (h : p.length < 65536) : payloadOf (packetRun kind p) = p := by
  unfold payloadOf
  rw [packetRun_statedLength kind p h]
  have e : packetRun kind p = ([kind, 0#8] ++ halfBytes (BitVec.ofNat 16 p.length)) ++ (p
    ++ (List.replicate (4 * payloadWords p.length - p.length) 0#8 ++ halfBytes (crc16 (packetBody kind p)) ++ [0#8, 0#8])) := by
    simp [packetRun, packetBody]
  rw [e, List.drop_left' (by simp [halfBytes_length]), List.take_left' rfl]

theorem goodPayload_packetRun (kind : Byte) (p : List Byte) (h : p.length < 65536) : goodPayload (packetRun kind p) = some p := by
  unfold goodPayload
  rw [packetRun_intact kind p h, packetRun_payload kind p h]
  rfl

/-- A packet of kind LINE arrives with its payload (R4). -/
theorem arrivalOf_line (p : List Byte) (h : p.length < 65536) : arrivalOf (packetRun 0x01#8 p) = .line (some p) := by
  unfold arrivalOf
  rw [packetRun_length, packetRun_kind, goodPayload_packetRun _ _ h]
  rw [if_neg (by omega), if_pos rfl]

/-- A packet of kind CONTROL arrives with its payload (R4). -/
theorem arrivalOf_control (p : List Byte) (h : p.length < 65536) : arrivalOf (packetRun 0x02#8 p) = .control (some p) := by
  unfold arrivalOf
  rw [packetRun_length, packetRun_kind, goodPayload_packetRun _ _ h]
  rw [if_neg (by omega), if_neg (by decide), if_pos rfl]

/-- The payload of a line's packet read back (Table 12-4). -/
theorem linePayloadOf_lineRun (seq perf : Half) (edge : Int) (px : List Pixel) :
    linePayloadOf (halfBytes seq ++ halfBytes perf ++ wordBytes (BitVec.ofInt 32 edge) ++ px.flatMap pixelBytes)
      = some { sequence := seq, perf := perf, edge := (BitVec.ofInt 32 edge).toInt, pixels := px } := by
  have l := pixelBytes_flatMap_length px
  unfold linePayloadOf
  rw [if_neg (by rw [List.length_append, l]; simp only [List.length_append, halfBytes_length, wordBytes_length]; omega)]
  congr 2
  · simp only [List.append_assoc]
    rw [halfAt_halfBytes]
  · simp only [List.append_assoc]
    rw [halfAt_append_right _ _ _ (by simp [halfBytes_length]), halfBytes_length, Nat.sub_self, halfAt_halfBytes]
  · rw [List.append_assoc, wordAt_append_right _ _ _ (by simp [halfBytes_length]), wordAt_wordBytes]
  · rw [List.drop_left' (by simp [halfBytes_length, wordBytes_length])]
    have n : ((halfBytes seq ++ halfBytes perf ++ wordBytes (BitVec.ofInt 32 edge) ++ px.flatMap pixelBytes).length - 8) / 8
        = px.length := by
      simp only [List.length_append, halfBytes_length, wordBytes_length, l]
      omega
    rw [n]
    have := pixelsOf_pixelBytes px []
    simpa using this

end Machine

end Sys2Proof
end

