-- ==== Sys2Proof/Laws/Queue.lean ====
section
/-! SUPPORT. The Command Queue (R152, R153): the head command that starts, and what the starting of queued commands does, said once. -/

namespace Sys2Proof.Machine

/-- A head command started by the interpreter leaves what `headStarted` says. -/
theorem runHead_headStarted (i : Fin 8) (q : QueuedCommand) (rest : List QueuedCommand) (s : State)
    (h : s.interpreter.queue = q :: rest) : runHead i q.command s = headStarted i q rest s := by
  have e : setInterpreter (claimSlot i s.interpreter) s =
      { s with
        interpreter :=
          { s.interpreter with
            queue := q :: rest, inFlight := some i, ordinary := s.interpreter.ordinary.set i .claimed } } := by
    unfold claimSlot
    rw [← h]
    rfl
  have k := carryOut_interpreter q.command (setInterpreter (claimSlot i s.interpreter) s)
  unfold runHead headStarted
  rw [e] at k ⊢
  dsimp only at k ⊢
  split
  · rename_i a t ht
    rw [ht] at k
    simp only [ht]
    dsimp only at k
    unfold answerHead
    rw [k]
    simp [fillOrdinary, setInterpreter]
  · rename_i t ht
    simp only [ht]

/-- A head command that has started is answered and has left the queue, or is in flight in its slot. -/
theorem headStarted_interpreter (i : Fin 8) (q : QueuedCommand) (rest : List QueuedCommand) (s : State) :
    (headStarted i q rest s).interpreter.queue = rest ∨ (headStarted i q rest s).interpreter.inFlight = some i := by
  unfold headStarted
  dsimp only
  split
  · exact .inl rfl
  · rename_i t ht
    refine .inr ?_
    have k := carryOut_interpreter q.command
      { s with
        interpreter :=
          { s.interpreter with
            queue := q :: rest, inFlight := some i, ordinary := s.interpreter.ordinary.set i .claimed } }
    rw [ht] at k
    exact congrArg (·.inFlight) k

/-- With a command in flight no other starts (R153). -/
theorem runCommands_inFlight (n : Nat) (s : State) (i : Fin 8) (h : s.interpreter.inFlight = some i) : runCommands n s = s := by
  cases n with
  | zero => rfl
  | succ n => simp [runCommands, startingSlot, h]

theorem startingSlot_none (x : Interpreter) (h : startingSlot x = none) :
    x.queue = [] ∨ x.inFlight ≠ none ∨ freeSlot x = none := by
  unfold startingSlot at h
  cases hq : x.queue <;> cases hf : x.inFlight <;> simp_all

theorem startingSlot_some (x : Interpreter) (i : Fin 8) (h : startingSlot x = some i) :
    x.inFlight = none ∧ freeSlot x = some i := by
  unfold startingSlot at h
  cases hq : x.queue <;> cases hf : x.inFlight <;> simp_all

theorem runCommands_starts (n : Nat) (s : State) (h : s.interpreter.queue.length ≤ n) : HeadsStart s (runCommands n s) := by
  induction n generalizing s with
  | zero => exact .stop s (.inl (by simpa using h))
  | succ n ih =>
    unfold runCommands
    split
    · rename_i i q rest h1 h2
      obtain ⟨h3, h4⟩ := startingSlot_some _ _ h1
      rw [runHead_headStarted i q rest s h2]
      refine .start s _ i q rest h2 h3 h4 ?_
      rcases headStarted_interpreter i q rest s with k | k
      · exact ih _ (by rw [k]; simpa [h2] using h)
      · rw [runCommands_inFlight n _ i k]
        exact .stop _ (.inr (.inl (by simp [k])))
    · rename_i h1
      refine .stop s ?_
      cases hq : s.interpreter.queue with
      | nil => exact .inl rfl
      | cons q rest =>
        cases hi : startingSlot s.interpreter with
        | some i => exact absurd hq (h1 i q rest hi)
        | none => simpa [hq] using startingSlot_none _ hi

/-- R152, R153: the starting of queued commands is the start of one head after the other. -/
theorem runQueue_starts (s : State) : HeadsStart s (runQueue s) := runCommands_starts _ s (Nat.le_refl _)

/-- Where no head can start, none does. -/
theorem headsStart_stopped {s t : State} (k : HeadsStart s t)
    (h : s.interpreter.queue = [] ∨ s.interpreter.inFlight ≠ none ∨ freeSlot s.interpreter = none) : t = s := by
  cases k with
  | stop => rfl
  | start _ _ i q rest h1 h2 h3 _ => simp [h1, h2, h3] at h

end Sys2Proof.Machine
end

