-- ==== Sys2Proof/Laws/Reels.lean ====
section
/-! SUPPORT. What the shared operations of reels, aborts and resets leave: the pace without a moving reel, the stall timer, the reply of
an immediate command, the Grade Sets released, and the blocks after an abort. -/

namespace Sys2Proof.Machine

/-- In NO_REEL the effective level formed is 0 and the spin-up timer stopped (R51, R53). -/
theorem formEffective_noReel (s : State) (h : s.reel.state = .noReel) :
    formEffective s = { s with pace := { s.pace with effective := 0, spinUp := none } } := by
  simp [formEffective, formedLevel, reelMoves, h, withLevel]

/-- The stall timer is all that settling changes (R15). -/
theorem settleStall_changes (s : State) :
    settleStall s = { s with delivery := { s.delivery with stall := (settleStall s).delivery.stall } } := by
  unfold settleStall
  split
  · split <;> rfl
  · rfl

/-- An empty Command Queue starts nothing (R152). -/
theorem runQueue_empty (s : State) (h : s.interpreter.queue = []) : runQueue s = s := by simp [runQueue, h, runCommands]

/-- The reply of an immediate command leaves the Command Queue (R154). -/
theorem replyImmediate_queue (r : Reply) (x : Interpreter) : (replyImmediate r x).queue = x.queue := by
  unfold replyImmediate
  split <;> rfl

/-- R132: a set that was IN_USE is READY after the sets are released; nothing else of a set changes. -/
theorem releaseSets_sets (g : Grading) (k : Fin 4) :
    (releaseSets g).sets[k] =
      { g.sets[k] with state := if g.sets[k].state = .inUse then .ready else g.sets[k].state } := by
  fin_cases k <;> simp [releaseSets, settleSets, mapSets, targetOf, settleSet] <;> split <;> simp_all

/-- R140: every block after an abort; only the aging counts are left unsaid. -/
theorem abortBlocks_changes (s : State) :
    ∃ aging, abortBlocks s =
      { s with
        intake := { s.intake with mode := .closed, drainTarget := none, silence := none, staging := [] },
        tracker := s.tracker.idled, pace := { s.pace with requested := 0, effective := 0, spinUp := none },
        frameMemory := { s.frameMemory with aging := aging, channel := discardTransfer s.frameMemory.channel },
        conformance := { s.conformance with mode := .idle, window := [], readRequest := none }, repair := s.repair.abort,
        grading := s.grading.abort, reel := { s.reel with state := .noReel, held := none },
        interpreter := answerHead ⟨.aborted, []⟩ s.interpreter } := by
  refine ⟨(abortBlocks s).frameMemory.aging, ?_⟩
  have e : abortBlocks s = formEffective (State.mk s.pending s.formats
      { s.intake with mode := .closed, drainTarget := none, silence := none, staging := [] } s.tracker.idled s.contexts
      { s.pace with requested := 0 }
      { s.frameMemory with
        aging := (abortBlocks s).frameMemory.aging, channel := discardTransfer s.frameMemory.channel }
      { s.conformance with mode := .idle, window := [], readRequest := none } s.repair.abort s.grading.abort
      { s.reel with state := .noReel, held := none } (answerHead ⟨.aborted, []⟩ s.interpreter) s.notices s.delivery) := rfl
  rw [formEffective_noReel _ rfl] at e
  exact e

/-- SOFT_RESET leaves every class ARMED with count 0 and its enable (R165). -/
theorem softReset_noticeOf (u : NoticeUnit) (c : NoticeClass) : noticeOf u.softReset c = ⟨(noticeOf u c).enabled, 0, .armed⟩ := by
  cases c <;> rfl

end Sys2Proof.Machine
end

