-- ==== Sys2Proof/Laws/Replies.lean ====
section
/-! SUPPORT. The Reply Queue: every operation on the interpreter's block keeps the fill order and the claimed slot (R151, R153). -/

namespace Sys2Proof.Machine

/-- The fill order and the claimed slot of an interpreter's block. -/
def interpreterInv (x : Interpreter) : Prop := fillOrderInv x ∧ claimedInv x

theorem ordinary_set_other (v : Vector ReplySlot 8) (i j : Fin 8) (a : ReplySlot) (e : j ≠ i) : (v.set i a)[j] = v[j] := by
  simp [Vector.getElem_set]; intro e2; exact absurd (Fin.ext e2.symm) e

theorem ordinary_set_same (v : Vector ReplySlot 8) (i : Fin 8) (a : ReplySlot) : (v.set i a)[i] = a := by simp

theorem freeSlot_free (x : Interpreter) (i : Fin 8) (h : freeSlot x = some i) : x.ordinary[i] = .free := by
  have := List.find?_some h
  revert this
  cases x.ordinary[i] <;> simp [isFree]

theorem fillOrdinary_fillOrder (i : Fin 8) (r : Reply) (x : Interpreter) (h : interpreterInv x) (hf : x.ordinary[i] = .free ∨ x.ordinary[i] = .claimed) : 
    fillOrderInv (fillOrdinary i r x) := by
  obtain ⟨⟨h1, h2, h3⟩, h4, h5⟩ := h
  have ni : SlotName.ordinary i ∉ x.fillOrder := by
    intro hm
    have := (h2 i).1 hm
    rcases hf with hf | hf <;> simp [hf, isFilled] at this
  refine ⟨?_, ?_, ?_⟩
  · simp only [fillOrdinary]
    rw [List.nodup_append]
    refine ⟨h1, by simp, ?_⟩
    intro a ha b hb e
    simp at hb; subst hb; subst e; exact ni ha
  · intro j
    simp only [fillOrdinary, List.mem_append, List.mem_singleton, SlotName.ordinary.injEq]
    by_cases e : j = i
    · subst e; simp [isFilled]
    · have : (x.ordinary.set i (.filled r))[j] = x.ordinary[j] := by
        simp [Vector.getElem_set]; intro e2; exact absurd (Fin.ext e2.symm) e
      rw [this]; simp [e]; exact h2 j
  · simp [fillOrdinary]; simpa using h3

theorem fillOrdinary_inv (i : Fin 8) (r : Reply) (x : Interpreter) (h : interpreterInv x) (hf : x.ordinary[i] = .free) : interpreterInv (fillOrdinary i r x) := by
  refine ⟨fillOrdinary_fillOrder i r x h (.inl hf), ?_, h.2.2⟩
  intro j
  have h4 := h.2.1
  simp only [fillOrdinary]
  by_cases e : j = i
  · subst e
    rw [ordinary_set_same]
    have := h4 j
    rw [hf] at this
    simp at this ⊢
    exact this
  · rw [ordinary_set_other _ _ _ _ e]; exact h4 j

theorem claimSlot_inv (i : Fin 8) (x : Interpreter) (h : interpreterInv x) (hf : x.ordinary[i] = .free) (hn : x.inFlight = none) (hq : x.queue ≠ []) : interpreterInv (claimSlot i x) := by
  obtain ⟨⟨h1, h2, h3⟩, h4, h5⟩ := h
  refine ⟨⟨h1, ?_, h3⟩, ?_, fun _ => hq⟩
  · intro j
    simp only [claimSlot]
    by_cases e : j = i
    · subst e; rw [ordinary_set_same, h2 j, hf]; simp [isFilled]
    · rw [ordinary_set_other _ _ _ _ e]; exact h2 j
  · intro j
    simp only [claimSlot, Option.some.injEq]
    by_cases e : j = i
    · subst e; simp
    · rw [ordinary_set_other _ _ _ _ e, h4 j, hn]; simp [Ne.symm e]

theorem answerHead_inv (a : Answer) (x : Interpreter) (h : interpreterInv x) : interpreterInv (answerHead a x) ∧ (answerHead a x).inFlight = none := by
  unfold answerHead
  split
  · rename_i i q rest hi hq
    have hc : x.ordinary[i] = .claimed := (h.2.1 i).2 hi
    refine ⟨⟨fillOrdinary_fillOrder i ⟨q.code, q.tag, a.status, a.data⟩ x h (.inr hc), ?_, by simp⟩, rfl⟩
    intro j
    simp only [fillOrdinary]
    by_cases e : j = i
    · subst e; rw [ordinary_set_same]; simp
    · rw [ordinary_set_other _ _ _ _ e, h.2.1 j, hi]; simp [Ne.symm e]
  · rename_i hx
    refine ⟨h, ?_⟩
    cases hi : x.inFlight with
    | none => rfl
    | some i =>
      exfalso
      cases hq : x.queue with
      | nil => exact h.2.2 (by simp [hi]) hq
      | cons q rest => exact hx i q rest hi hq

theorem freeReply_inv (x : Interpreter) (h : interpreterInv x) : interpreterInv (freeReply x) := by
  obtain ⟨⟨h1, h2, h3⟩, h4, h5⟩ := h
  unfold freeReply
  split
  · exact ⟨⟨h1, h2, h3⟩, h4, h5⟩
  · rename_i rest e
    rw [e] at h1 h2 h3
    have nd := List.nodup_cons.mp h1
    refine ⟨⟨nd.2, ?_, ?_⟩, h4, h5⟩
    · intro i; rw [← h2 i]; simp
    · simp [nd.1]
  · rename_i i rest e
    rw [e] at h1 h2 h3
    have nd := List.nodup_cons.mp h1
    refine ⟨⟨nd.2, ?_, ?_⟩, ?_, h5⟩
    · intro j
      by_cases ej : j = i
      · subst ej; simp only [ordinary_set_same]; simp [isFilled, nd.1]
      · simp only [ordinary_set_other _ _ _ _ ej]; rw [← h2 j]; simp [ej]
    · rw [← h3]; simp
    · intro j
      by_cases ej : j = i
      · subst ej; simp only [ordinary_set_same]
        have hf := (h2 j).1 (by simp)
        have h4j := h4 j
        constructor
        · intro hh; cases hh
        · intro hh
          have := h4j.2 hh
          rw [this] at hf; simp [isFilled] at hf
      · simp only [ordinary_set_other _ _ _ _ ej]; exact h4 j

theorem fillReserved_inv (r) (x : Interpreter) (h : interpreterInv x) (hn : x.reserved = none) : interpreterInv (fillReserved r x) := by
  obtain ⟨⟨h1, h2, h3⟩, h4, h5⟩ := h
  have ni : SlotName.reserved ∉ x.fillOrder := by
    intro hm; have := h3.1 hm; simp [hn] at this
  refine ⟨⟨?_, ?_, ?_⟩, h4, h5⟩
  · simp only [fillReserved]
    rw [List.nodup_append]
    refine ⟨h1, by simp, ?_⟩
    intro a ha b hb e
    simp at hb; subst hb; subst e; exact ni ha
  · intro j; simp [fillReserved]; simpa using h2 j
  · simp [fillReserved]

theorem replyImmediate_inv (r) (x : Interpreter) (h : interpreterInv x) : interpreterInv (replyImmediate r x) ∧ (replyImmediate r x).inFlight = x.inFlight := by
  unfold replyImmediate
  split
  · rename_i hr; exact ⟨fillReserved_inv r x h hr, rfl⟩
  · rename_i i _ hf; exact ⟨fillOrdinary_inv i r x h (freeSlot_free x i hf), rfl⟩
  · exact ⟨h, rfl⟩

/-- The invariant by its two parts. -/
theorem repliesInv_iff (s) : repliesInv s ↔ interpreterInv s.interpreter ∧ closeInFlight s := by
  unfold repliesInv interpreterInv; tauto

end Sys2Proof.Machine
end

