-- ==== Sys2Proof/Laws/Scratches.lean ====
section
/-! SUPPORT. The Scratch Table stands in ascending left column, no column belongs to two entries, and each entry has a slot of its own
(R100): one lemma for each operation. -/

namespace Sys2Proof.Machine

/-- Two entries share no column and no slot (R100). -/
def entryApart (a b : ScratchEntry) : Prop := (a.left + a.width ≤ b.left ∨ b.left + b.width ≤ a.left) ∧ a.slot ≠ b.slot

/-- The entries of a table in any order, each apart from the others. -/
def entriesApart (t : List ScratchEntry) : Prop := t.Pairwise entryApart ∧ ∀ e ∈ t, 1 ≤ e.width ∧ e.slot < 32

/-- `scratchesInv` on the table (R100). -/
def entriesInOrder (t : List ScratchEntry) : Prop :=
  t.Pairwise (fun a b => a.left + a.width ≤ b.left ∧ a.slot ≠ b.slot) ∧ ∀ e ∈ t, 1 ≤ e.width ∧ e.slot < 32

theorem entryApart_symm {a b : ScratchEntry} (h : entryApart a b) : entryApart b a := ⟨h.1.symm, fun e => h.2 e.symm⟩

theorem insertEntry_perm (e : ScratchEntry) (t : List ScratchEntry) : (insertEntry e t).Perm (e :: t) := by
  induction t with
  | nil => exact .refl _
  | cons x xs ih => unfold insertEntry; split; exact .refl _; exact (ih.cons x).trans (.swap e x xs)

theorem sortEntries_perm (t : List ScratchEntry) : (sortEntries t).Perm t := by
  induction t with
  | nil => exact .refl _
  | cons x xs ih => exact (insertEntry_perm x _).trans (ih.cons x)

theorem insertEntry_sorted (e : ScratchEntry) (t : List ScratchEntry) (h : t.Pairwise (fun a b => a.left ≤ b.left)) :
    (insertEntry e t).Pairwise (fun a b => a.left ≤ b.left) := by
  induction t with
  | nil => simp [insertEntry]
  | cons x xs ih =>
    rw [List.pairwise_cons] at h
    unfold insertEntry; split
    · rename_i hx
      rw [List.pairwise_cons]
      refine ⟨?_, List.pairwise_cons.mpr h⟩
      intro a ha
      rcases List.mem_cons.mp ha with ha | ha
      · subst ha; exact hx
      · exact Nat.le_trans hx (h.1 a ha)
    · rename_i hx
      rw [List.pairwise_cons]
      refine ⟨?_, ih h.2⟩
      intro a ha
      rcases List.mem_cons.mp ((insertEntry_perm e xs).subset ha) with ha | ha
      · subst ha; omega
      · exact h.1 a ha

theorem sortEntries_sorted (t : List ScratchEntry) : (sortEntries t).Pairwise (fun a b => a.left ≤ b.left) := by
  induction t with
  | nil => exact .nil
  | cons x xs ih => exact insertEntry_sorted x _ ih

theorem entriesApart_perm {t u : List ScratchEntry} (p : t.Perm u) (h : entriesApart u) : entriesApart t :=
  ⟨(p.pairwise_iff (fun h => entryApart_symm h)).mpr h.1, fun e he => h.2 e (p.subset he)⟩

theorem entriesInOrder_of_sorted {t : List ScratchEntry} (h : entriesApart t)
    (s : t.Pairwise (fun a b => a.left ≤ b.left)) : entriesInOrder t := by
  refine ⟨?_, h.2⟩
  have := h.1.and s
  refine this.imp_of_mem ?_
  intro a b ha hb k
  have w := (h.2 b hb).1
  have w' := (h.2 a ha).1
  obtain ⟨⟨k1, k2⟩, k3⟩ := k
  exact ⟨by omega, k2⟩

theorem entriesInOrder_apart {t : List ScratchEntry} (h : entriesInOrder t) : entriesApart t :=
  ⟨h.1.imp (fun k => ⟨.inl k.1, k.2⟩), h.2⟩

/-- Entries apart from each other, sorted, are in order. -/
theorem sortEntries_inOrder {t : List ScratchEntry} (h : entriesApart t) : entriesInOrder (sortEntries t) :=
  entriesInOrder_of_sorted (entriesApart_perm (sortEntries_perm t) h) (sortEntries_sorted t)

theorem entriesInOrder_sublist {t u : List ScratchEntry} (s : t.Sublist u) (h : entriesInOrder u) : entriesInOrder t :=
  ⟨h.1.sublist s, fun e he => h.2 e (s.subset he)⟩

theorem entriesApart_cons {e : ScratchEntry} {t : List ScratchEntry} (h : entriesApart t) (w : 1 ≤ e.width) (sl : e.slot < 32)
    (k : ∀ x ∈ t, entryApart e x) : entriesApart (e :: t) :=
  ⟨List.pairwise_cons.mpr ⟨k, h.1⟩, by intro x hx; rcases List.mem_cons.mp hx with r | r; subst r; exact ⟨w, sl⟩; exact h.2 x r⟩

theorem shareColumn_false {a b c d : Nat} (h : shareColumn a b c d = false) : a + b ≤ c ∨ c + d ≤ a := by
  unfold shareColumn at h
  by_cases k : a < c + d
  · simp [k] at h; omega
  · omega

theorem shareColumn_true {a b c d : Nat} (h : shareColumn a b c d = true) : a < c + d ∧ c < a + b := by
  simpa [shareColumn] using h

/-- The lowest slot not in use is below 32 and free while the table has room (R100). -/
theorem freeScratchSlot_free (t : List ScratchEntry) (h : t.length < 32) :
    freeScratchSlot t < 32 ∧ ∀ e ∈ t, e.slot ≠ freeScratchSlot t := by
  unfold freeScratchSlot
  cases k : (List.range 32).find? (fun i => t.all (fun e => e.slot != i)) with
  | some i =>
    have a := List.mem_of_find?_eq_some k
    have b := List.find?_some k
    simp at a b
    exact ⟨a, b⟩
  | none =>
    exfalso
    rw [List.find?_eq_none] at k
    have : (List.range 32) ⊆ t.map (·.slot) := by
      intro i hi
      have := k i hi
      simp at this
      obtain ⟨e, he, hs⟩ := this
      exact List.mem_map.mpr ⟨e, he, hs⟩
    have := (List.nodup_range (n := 32)).subperm this
    have := this.length_le
    simp at this; omega

/-- A move keeps the order (R103). -/
theorem moveEntry_inOrder (slot : Nat) (r : ColumnRun) (t : List ScratchEntry) (hr : 1 ≤ r.width) (h : entriesInOrder t) :
    entriesInOrder (moveEntry slot r t) := by
  unfold moveEntry
  split
  · exact h
  · rename_i mover hm
    have mm := List.mem_of_find?_eq_some hm
    have ms : mover.slot = slot := by have := List.find?_some hm; simpa using this
    have ho : entriesInOrder (t.filter (fun e => e.slot != slot)) := entriesInOrder_sublist List.filter_sublist h
    dsimp only
    split
    · rename_i hn
      rw [List.filter_eq_nil_iff] at hn
      refine sortEntries_inOrder (entriesApart_cons (entriesInOrder_apart ho) hr (h.2 mover mm).2 ?_)
      intro x hx
      have a := hn x hx
      refine ⟨shareColumn_false (by simpa using a), ?_⟩
      have := (List.mem_filter.mp hx).2
      simp at this; rw [ms] ; exact fun e => this e.symm
    · rename_i met more hn
      split
      · exact ho
      · split
        · rename_i hc
          obtain ⟨hc1, hc2⟩ := hc
          subst hc1
          have hmet : met ∈ (t.filter (fun e => e.slot != slot)) ∧ shareColumn r.left r.width met.left met.width = true := by
            have : met ∈ (t.filter (fun e => e.slot != slot)).filter (fun e => shareColumn r.left r.width e.left e.width) := by
              rw [hn]; simp
            exact List.mem_filter.mp this
          have hk : mergeKeeps mover met = mover ∨ mergeKeeps mover met = met := by
            unfold mergeKeeps; repeat' split
            all_goals simp
          have hmt : met ∈ t := (List.mem_filter.mp hmet.1).1
          have hms : met.slot ≠ slot := by simpa using (List.mem_filter.mp hmet.1).2
          have hsh := shareColumn_true hmet.2
          refine sortEntries_inOrder (entriesApart_cons (entriesInOrder_apart (entriesInOrder_sublist List.filter_sublist ho)) ?_ ?_ ?_)
          · simp only [unionSpan]; omega
          · rcases hk with k | k <;> simp only [k]
            · exact (h.2 _ mm).2
            · exact (h.2 _ hmt).2
          · intro x hx
            obtain ⟨hx1, hx2⟩ := List.mem_filter.mp hx
            have hxs : x.slot ≠ met.slot := by simpa using hx2
            have hxt := (List.mem_filter.mp hx1).1
            have hxs2 : x.slot ≠ slot := by simpa using (List.mem_filter.mp hx1).2
            have hxr : shareColumn r.left r.width x.left x.width = false := by
              cases hq : shareColumn r.left r.width x.left x.width with
              | false => rfl
              | true =>
                have : x ∈ (t.filter (fun e => e.slot != slot)).filter (fun e => shareColumn r.left r.width e.left e.width) :=
                  List.mem_filter.mpr ⟨hx1, hq⟩
                rw [hn] at this; simp at this; subst this; exact absurd rfl hxs
            have hxm : entryApart met x := by
              have := (entriesInOrder_apart h).1
              have := ((List.perm_cons_erase hmt).pairwise_iff (fun h => entryApart_symm h)).mp this
              refine (List.pairwise_cons.mp this).1 x ((List.mem_erase_of_ne ?_).mpr hxt)
              intro e; subst e; exact hxs rfl
            have := shareColumn_false hxr
            refine ⟨?_, ?_⟩
            · simp only [unionSpan]; have := hxm.1; have := (h.2 x hxt).1; have := (h.2 met hmt).1;  omega
            · rcases hk with k | k <;> simp only [k]
              · rw [ms]; exact fun e => hxs2 e.symm
              · exact fun e => hxs e.symm
        · exact h

theorem moveAll_inOrder (l : List (ScratchEntry × Option ColumnRun)) (t : List ScratchEntry)
    (hl : ∀ x ∈ l, ∀ r ∈ x.2, 1 ≤ r.width) (h : entriesInOrder t) : entriesInOrder (moveAll l t) := by
  induction l generalizing t with
  | nil => exact h
  | cons x xs ih =>
    obtain ⟨e, o⟩ := x
    have hx := fun y hy => hl y (List.mem_cons_of_mem _ hy)
    cases o with
    | none => exact ih t hx h
    | some r =>
      unfold moveAll
      refine ih _ hx ?_
      split
      · exact moveEntry_inOrder _ _ _ (hl _ (List.mem_cons_self ..) r rfl) h
      · exact h

/-- An offered run keeps the order (R104). -/
theorem offerRun_inOrder (n : Nat) (r : ColumnRun) (t : List ScratchEntry) (hr : 1 ≤ r.width) (h : entriesInOrder t) :
    entriesInOrder (offerRun n r t).1 := by
  unfold offerRun; split
  · exact h
  · rename_i ha
    split
    · exact h
    · have f := freeScratchSlot_free t (by omega)
      refine sortEntries_inOrder (entriesApart_cons (entriesInOrder_apart h) hr f.1 ?_)
      intro x hx
      refine ⟨shareColumn_false ?_, fun e => f.2 x hx e.symm⟩
      simp at ha; exact ha x hx

theorem offerAll_inOrder (n : Nat) (rs : List ColumnRun) (t : List ScratchEntry) (hr : ∀ r ∈ rs, 1 ≤ r.width) (h : entriesInOrder t) :
    entriesInOrder (offerAll n rs t).1 := by
  induction rs generalizing t with
  | nil => exact h
  | cons r rs ih => exact ih _ (fun x hx => hr x (List.mem_cons_of_mem _ hx)) (offerRun_inOrder _ _ _ (hr r (List.mem_cons_self ..)) h)

/-- Matching keeps the entries, and its runs are not empty (R101). -/
theorem matchRuns_entries (w : Nat) (es : List ScratchEntry) (rs : List ColumnRun) (hr : ∀ r ∈ rs, 1 ≤ r.width) :
    (matchRuns w es rs).1.map (·.1) = es ∧ (∀ x ∈ (matchRuns w es rs).1, ∀ r ∈ x.2, 1 ≤ r.width)
      ∧ ∀ r ∈ (matchRuns w es rs).2, 1 ≤ r.width := by
  induction es generalizing rs with
  | nil => exact ⟨rfl, by simp [matchRuns], hr⟩
  | cons e es ih =>
    unfold matchRuns
    split
    · rename_i r hf
      obtain ⟨a, b, c⟩ := ih (rs.erase r) (fun x hx => hr x (List.mem_of_mem_erase hx))
      refine ⟨by simp [a], ?_, c⟩
      intro x hx
      rcases List.mem_cons.mp hx with k | k
      · subst k; intro y hy; simp at hy; subst hy; exact hr _ (List.mem_of_find?_eq_some hf)
      · exact b x k
    · obtain ⟨a, b, c⟩ := ih rs hr
      refine ⟨by simp [a], ?_, c⟩
      intro x hx
      rcases List.mem_cons.mp hx with k | k
      · subst k; intro y hy; simp at hy
      · exact b x k

theorem stretches_width (th c : Nat) (o : Option ColumnRun) (l : List Nat) (ho : ∀ r ∈ o, 1 ≤ r.width) :
    ∀ r ∈ stretches th c o l, 1 ≤ r.width := by
  induction l generalizing c o with
  | nil => intro r hr; unfold stretches at hr; exact ho r (by simpa using hr)
  | cons x xs ih =>
    intro r hr
    unfold stretches at hr
    split at hr
    · refine ih _ _ ?_ r hr
      intro y hy; cases o with
      | none => simp at hy; subst hy; exact Nat.le_refl 1
      | some z => simp at hy; subst hy; simp
    · rcases List.mem_append.mp hr with k | k
      · exact ho r (by simpa using k)
      · exact ih _ none (by simp) r k

theorem updateEntry_columns (e : ScratchEntry) (b : Bool) (e' : ScratchEntry) (h : updateEntry e b = some e') :
    e'.left = e.left ∧ e'.width = e.width ∧ e'.slot = e.slot := by
  unfold updateEntry at h
  dsimp only at h
  split at h <;> (try split at h) <;> simp at h <;> subst h <;> exact ⟨rfl, rfl, rfl⟩

/-- A frame end keeps the order (R101 to R104). -/
theorem scratchFrameEnd_inOrder (w n th : Nat) (c : List Nat) (t : List ScratchEntry) (h : entriesInOrder t) :
    entriesInOrder (scratchFrameEnd w n th c t).table := by
  unfold scratchFrameEnd
  dsimp only
  have hr : ∀ r ∈ frameRuns th c, 1 ≤ r.width := fun r hr => stretches_width th 0 none c (by simp) r (List.mem_filter.mp hr).1
  obtain ⟨a, b, d⟩ := matchRuns_entries w t _ hr
  refine offerAll_inOrder _ _ _ d (moveAll_inOrder _ _ ?_ ?_)
  · intro x hx r hrx
    obtain ⟨y, hy, e⟩ := List.mem_filterMap.mp hx
    simp at e
    obtain ⟨z, hz, e⟩ := e
    subst e
    exact b y hy r hrx
  · generalize (matchRuns w t (frameRuns th c)).1 = l at a b
    rw [← a] at h
    have key : (l.filterMap (fun x => (updateEntry x.1 x.2.isSome).map (fun e => (e, x.2)))).map (·.1) =
        l.filterMap (fun x => updateEntry x.1 x.2.isSome) := by
      rw [List.map_filterMap]; congr 1; funext x; cases updateEntry x.1 x.2.isSome <;> rfl
    rw [key]
    constructor
    · rw [List.pairwise_filterMap]
      have h1 := List.pairwise_map.mp h.1
      refine h1.imp ?_
      intro x y hxy u hu v hv
      obtain ⟨u1, u2, u3⟩ := updateEntry_columns _ _ _ hu
      obtain ⟨v1, v2, v3⟩ := updateEntry_columns _ _ _ hv
      rw [u1, u2, u3, v1, v3]; exact hxy
    · intro e he
      obtain ⟨x, hx, hu⟩ := List.mem_filterMap.mp he
      obtain ⟨u1, u2, u3⟩ := updateEntry_columns _ _ _ hu
      rw [u2, u3]; exact h.2 x.1 (List.mem_map.mpr ⟨x, hx, rfl⟩)

/-- SCRATCH_LOAD keeps the order (R107). -/
theorem loadScratches_inOrder (xs : List ScratchSpan) (t : List ScratchEntry) (h : entriesInOrder t)
    (hl : t.length + xs.length ≤ 32) (hw : ∀ x ∈ xs, 1 ≤ x.width)
    (ha : xs.Pairwise (fun a b => shareColumn a.left a.width b.left b.width = false))
    (hb : ∀ e ∈ t, ∀ x ∈ xs, shareColumn x.left x.width e.left e.width = false) : entriesInOrder (loadScratches xs t).1 := by
  induction xs generalizing t with
  | nil => exact h
  | cons x xs ih =>
    unfold loadScratches
    rw [List.pairwise_cons] at ha
    simp only [List.length_cons] at hl
    have f := freeScratchSlot_free t (by omega)
    refine ih _ ?_ ?_ (fun y hy => hw y (List.mem_cons_of_mem _ hy)) ha.2 ?_
    · refine sortEntries_inOrder (entriesApart_cons (entriesInOrder_apart h) (hw x (List.mem_cons_self ..)) f.1 ?_)
      intro e he
      exact ⟨shareColumn_false (hb e he x (List.mem_cons_self ..)), fun k => f.2 e he k.symm⟩
    · rw [(sortEntries_perm _).length_eq]; simp; omega
    · intro e he y hy
      rcases List.mem_cons.mp ((sortEntries_perm _).subset he) with k | k
      · subst k
        have := shareColumn_false (ha.1 y hy)
        unfold shareColumn; simp; omega
      · exact hb e k y (List.mem_cons_of_mem _ hy)

/-- The fading at a splice keeps the order (R106). -/
theorem fadeEntries_inOrder (t : List ScratchEntry) (h : entriesInOrder t) : entriesInOrder (t.map fadeEntry) := by
  have e : ∀ e, (fadeEntry e).left = e.left ∧ (fadeEntry e).width = e.width ∧ (fadeEntry e).slot = e.slot := by
    intro e; unfold fadeEntry; split <;> exact ⟨rfl, rfl, rfl⟩
  constructor
  · rw [List.pairwise_map]; refine h.1.imp ?_; intro a b k; rw [(e a).1, (e a).2.1, (e a).2.2, (e b).1, (e b).2.2]; exact k
  · intro x hx; obtain ⟨y, hy, k⟩ := List.mem_map.mp hx; subst k; rw [(e y).2.1, (e y).2.2]; exact h.2 y hy

/-- R107: an entry meets a list when it shares a column with one of its scratches. -/
theorem meetsList_iff (xs : List ScratchSpan) (e : ScratchEntry) (hx : ∀ x ∈ xs, 1 ≤ x.width) (he : 1 ≤ e.width) :
    meetsList xs e = true ↔ ∃ x ∈ xs, spansMeet x.left x.width e.left e.width := by
  simp only [meetsList, List.any_eq_true]
  refine exists_congr (fun x => and_congr_right (fun m => ?_))
  have w := hx x m
  constructor
  · intro h
    have k := shareColumn_true h
    rcases Nat.le_total x.left e.left with m | m
    · exact ⟨e.left, by omega, by omega, by omega, by omega⟩
    · exact ⟨x.left, by omega, by omega, by omega, by omega⟩
  · rintro ⟨c, h1, h2, h3, h4⟩
    unfold shareColumn
    simp only [Bool.and_eq_true, decide_eq_true_eq]
    constructor <;> omega

end Sys2Proof.Machine
end

