-- ==== Sys2Proof/Laws/Ticks.lean ====
section
/-! SUPPORT. The time base (R45): what a tick does to the counts, what it gives its users, and what is taken before it counts. -/

namespace Sys2Proof.Machine

/-- The stall timer's conditions do not speak of its count. -/
theorem stallStands_setStall (x : Option Nat) (s : State) :
    stallStands { s with delivery := { s.delivery with stall := x } } = stallStands s := rfl

/-- A stall timer that follows its conditions is left as it is. -/
theorem settleStall_of_stallInv {s : State} (h : stallInv s) : settleStall s = s := by
  unfold stallInv at h
  unfold settleStall
  split
  · rename_i e
    split
    · rfl
    · rename_i n
      simp [n, e] at h
  · rename_i e
    have : s.delivery.stall = none := by simpa [e] using h
    rw [← this]

theorem stallInv_settleStall (s : State) : stallInv (settleStall s) := by
  unfold stallInv settleStall
  split
  · rename_i e
    split
    · rename_i n
      simp [n, e]
    · simp [stallStands_setStall, e]
  · rename_i e
    simpa [stallStands_setStall] using e

/-- Settling the stall timer twice is settling it once. -/
@[simp] theorem settleStall_settleStall (s : State) : settleStall (settleStall s) = settleStall s :=
  settleStall_of_stallInv (stallInv_settleStall s)

/-- Settling the stall timer reads nothing of the Pace Generator. -/
theorem settleStall_setPace (p : Pace) (s : State) : settleStall (setPace p s) = setPace p (settleStall s) := by
  have h : stallStands (setPace p s) = stallStands s := rfl
  unfold settleStall
  rw [h]
  split
  · rw [setPace_delivery]
    split <;> rfl
  · rfl

/-- R50: where a reading waits, the reel moves and there is a plan, the cap is evaluated from the reading; else nothing is taken. -/
theorem takeRingCapEvaluation_cases (s : State) :
    (∃ p read, reelMoves s = true ∧ s.frameMemory.plan = some p ∧ s.pace.due.ringCap = some read ∧
        takeRingCapEvaluation s = evaluateRingCap p read s) ∨
      ((reelMoves s = false ∨ s.frameMemory.plan = none ∨ s.pace.due.ringCap = none) ∧ takeRingCapEvaluation s = s) := by
  unfold takeRingCapEvaluation
  cases h1 : reelMoves s <;> cases h2 : s.frameMemory.plan <;> cases h3 : s.pace.due.ringCap <;> simp

/-- With nothing due, the next tick takes nothing before it counts. -/
theorem takeDue_none {s : State}
    (h : s.pace.due.spinUp = false ∧ s.pace.due.ringCap = none ∧ s.pace.due.silence = false ∧ s.pace.due.stall = false) :
    takeDue s = settleStall s := by
  obtain ⟨h1, h2, h3, h4⟩ := h
  have e : takeRingCapEvaluation (settleStall s) = settleStall s := by
    rcases takeRingCapEvaluation_cases (settleStall s) with ⟨_, _, -, -, c, -⟩ | ⟨-, c⟩
    · simp [h2] at c
    · exact c
  simp [takeDue, takeSpinUpExpiry, takeSilenceExpiry, takeStallExpiry, spinUpDue, silenceDue, stallDue, h1, h3, h4, e]

/-- A 1 ms tick that is no 10 ms tick counts for the spin-up timer only. -/
theorem countTick_one {s : State} (h : (s.pace.tenth + 1) % 10 ≠ 0) :
    countTick s = setPace { s.pace with tenth := (s.pace.tenth + 1) % 10, spinUp := tickTimer s.pace.spinUp } s := if_neg h

/-- A 10 ms tick counts for the silence timer and the stall timer too. -/
theorem countTick_ten {s : State} (h : (s.pace.tenth + 1) % 10 = 0) :
    countTick s = setDelivery { s.delivery with stall := tickTimer s.delivery.stall }
      (setIntake { s.intake with silence := tickTimer s.intake.silence }
        (setPace { s.pace with tenth := 0, spinUp := tickTimer s.pace.spinUp } s)) := by
  unfold countTick
  simp only [setPace_pace, h, if_true]
  rfl

/-- The Pace Generator after the counting. -/
@[simp] theorem countTick_pace (s : State) :
    (countTick s).pace = { s.pace with tenth := (s.pace.tenth + 1) % 10, spinUp := tickTimer s.pace.spinUp } := by
  unfold countTick
  dsimp only
  split <;> rfl

@[simp] theorem markDue_pace (s : State) : (markDue s).pace = { s.pace with due := dueNow s } := rfl

/-- What a tick that counts without a 10 ms tick gives its users. -/
theorem dueNow_one {s : State} (h : s.pace.tenth ≠ 0) :
    dueNow s = ⟨true, atTimeout s.pace.spinUp (spinUpTicks s.pace), none, false, false⟩ := by simp [dueNow, h]

/-- What a 10 ms tick gives its users. -/
theorem dueNow_ten {s : State} (h : s.pace.tenth = 0) :
    dueNow s = ⟨true, atTimeout s.pace.spinUp (spinUpTicks s.pace), ringReading s, atTimeout s.intake.silence (silenceTicks s.pace),
      atTimeout s.delivery.stall (stallTicks s.pace)⟩ := by simp [dueNow, h]

/-- R50: a reading is made while the reel is OPEN or CLOSING. -/
theorem ringReading_eq (s : State) :
    ringReading s = if s.reel.state = .opened ∨ s.reel.state = .closing then some (occupancy s) else none := by
  unfold ringReading reelMoves
  cases s.reel.state <;> rfl

/-- The step of TIME_BASE_TICK. -/
theorem exec_timeBaseTick (s : State) : exec .timeBaseTick s = .next (settleStall (markDue (countTick (takeDue s)))) := rfl

@[simp] theorem settleStall_takeDue (s : State) : settleStall (takeDue s) = takeDue s := settleStall_settleStall _

end Sys2Proof.Machine
end

