-- ==== Sys2Proof/Laws/Tracking.lean ====
section
/-! SUPPORT. The Frame Tracker's steps keep frame numbers in strictly ascending order (R39, R42, R30): one lemma for each operation. -/

namespace Sys2Proof.Machine

/-- `framesInv` on the frame numbers of the queue and the Tracker. -/
def numbersInv (ns : List Nat) (t : Tracker) : Prop :=
  ns.Pairwise (· < ·) ∧ (∀ n ∈ ns, n < t.frameCounter) ∧
    (t.mode ≠ .idle →
      (t.pendingTop = none → ∀ q ∈ t.lastCut, t.frameCounter ≤ q.frame + 1) ∧
      (t.rephasing = true → t.qTop ≠ none) ∧
      (t.rephasing = true ∨ t.mode = .search → t.pendingTop = none ∧ ∀ q ∈ t.qTop, t.frameCounter ≤ q.frame + 1))

theorem framesInv_iff (s : State) : framesInv s ↔ numbersInv (frameNumbers s) s.tracker := by
  simp [framesInv, framesAscend, framesConsumed, numbersInv, frameNumbers, List.pairwise_map]

/-- The Tracker's items that `framesInv` speaks of. -/
def trackerKey (t : Tracker) := (t.mode, t.pendingTop.isNone, t.lastCut, t.rephasing, t.qTop, t.frameCounter)

theorem numbersInv_congr {a b : List Nat} {t u : Tracker} (h : a = b) (k : trackerKey t = trackerKey u) (o : numbersInv b u) : numbersInv a t := by
  simp only [trackerKey, Prod.mk.injEq] at k
  obtain ⟨h1,h2,h3,h4,h5,h6⟩ := k
  subst h
  have hp : t.pendingTop = none ↔ u.pendingTop = none := by
    rw [← Option.isNone_iff_eq_none, ← Option.isNone_iff_eq_none, h2]
  simpa [numbersInv, h1, hp, h3, h4, h5, h6] using o

/-- The invariant while the Tracker is not IDLE. -/
def numbersGo (s : State) : Prop := numbersInv (frameNumbers s) s.tracker ∧ s.tracker.mode ≠ .idle

theorem numbersGo_congr {s t : State} (h : frameNumbers s = frameNumbers t) (k : trackerKey s.tracker = trackerKey t.tracker) (o : numbersGo t) : numbersGo s := by
  refine ⟨numbersInv_congr h k o.1, ?_⟩
  simp only [trackerKey, Prod.mk.injEq] at k
  rw [k.1]; exact o.2

theorem frameNumbers_of_conformance {s t : State} (h : outsideConformance s = outsideConformance t) : frameNumbers s = frameNumbers t ∧ s.tracker = t.tracker := by
  simp only [outsideConformance, Prod.mk.injEq] at h
  exact ⟨h.2.2.2.2.2.2.2.2.2.2.2.2, h.2.2.2.1⟩

theorem loseFrames_key (n s) : frameNumbers (loseFrames n s) = frameNumbers s ∧ trackerKey (loseFrames n s).tracker = trackerKey s.tracker := by
  unfold loseFrames; split <;> exact ⟨rfl, rfl⟩

theorem raiseIf_key (b c s) : frameNumbers (raiseIf b c s) = frameNumbers s ∧ (raiseIf b c s).tracker = s.tracker := by
  unfold raiseIf; split <;> exact ⟨rfl, rfl⟩

/-- After a cut no top is pending and the state is the same (R39). -/
theorem cutFrame_numbers (m n s) (h : numbersGo s) : numbersGo (cutFrame m n s) ∧ (cutFrame m n s).tracker.pendingTop = none ∧ (cutFrame m n s).tracker.mode = s.tracker.mode := by
  unfold cutFrame
  split
  · rename_i hp; exact ⟨h, hp, rfl⟩
  · rename_i top hp
    obtain ⟨⟨h1, h2, h3⟩, h4⟩ := h
    obtain ⟨c1, cq, c2⟩ := h3 h4
    have nr : ¬ (s.tracker.rephasing = true ∨ s.tracker.mode = .search) := by
      intro e; have := (c2 e).1; rw [hp] at this; cases this
    have key : ∀ ns, ns.Pairwise (· < ·) → (∀ n ∈ ns, n < s.tracker.frameCounter + 1) → numbersInv ns (afterCut s.tracker top) := by
      intro ns a b
      refine ⟨a, b, fun _ => ⟨?_, ?_, ?_⟩⟩
      · intro _ q hq; simp [afterCut] at hq; subst hq; simp [afterCut]
      · exact cq
      · intro e; exact absurd e nr
    dsimp only
    split
    · have k := frameNumbers_of_conformance (takeIfIdle_outside (raiseIf (newContext s top m (synthCount top.status + n)).weaveClamp .clamp (raiseIf (newContext s top m (synthCount top.status + n)).shrinkClamp .clamp { setTracker (afterCut s.tracker top) s with contexts := (setTracker (afterCut s.tracker top) s).contexts ++ [newContext s top m (synthCount top.status + n)] })))
      rw [(raiseIf_key _ _ _).1, (raiseIf_key _ _ _).1, (raiseIf_key _ _ _).2, (raiseIf_key _ _ _).2] at k
      refine ⟨⟨?_, ?_⟩, ?_, ?_⟩
      · rw [k.1, k.2]
        refine key _ ?_ ?_
        · simp only [frameNumbers, List.map_append, setTracker]
          rw [List.pairwise_append]
          refine ⟨h1, by simp, ?_⟩
          intro a ha b hb
          simp [newContext] at hb; subst hb
          exact h2 a ha
        · intro x hx
          simp only [frameNumbers, List.map_append, setTracker, List.mem_append] at hx
          rcases hx with hx | hx
          · have := h2 x hx; omega
          · simp [newContext] at hx; omega
      · rw [k.2]; exact h4
      · rw [k.2]; rfl
      · rw [k.2]; rfl
    · have k := loseFrames_key 1 (setTracker (afterCut s.tracker top) s)
      refine ⟨⟨numbersInv_congr k.1 k.2 (key _ h1 (fun n hn => by have := h2 n hn; omega)), ?_⟩, ?_, ?_⟩
      · have := congrArg (·.1) k.2; simp only [trackerKey] at this; rw [this]; exact h4
      · have := congrArg (·.2.1) k.2; simp only [trackerKey] at this; rw [← Option.isNone_iff_eq_none, this]; rfl
      · have := congrArg (·.1) k.2; simp only [trackerKey] at this; rw [this]; rfl

theorem moveCountdown_numbers (f p st t s) (h : numbersGo s) (hm : s.tracker.mode ≠ .search) : numbersGo (moveCountdown f p st t s) ∧ (moveCountdown f p st t s).tracker.mode = s.tracker.mode := by
  unfold moveCountdown
  dsimp only
  split
  · exact ⟨h, rfl⟩
  · split
    · obtain ⟨⟨h1, h2, h3⟩, h4⟩ := h
      obtain ⟨c1, cq, c2⟩ := h3 h4
      unfold rephase
      split
      · rename_i q hr hq
        simp only [setTracker_tracker] at hr hq
        have b := (c2 (.inl hr)).2 q (by simp [hq])
        dsimp only
        have k := loseFrames_key (max 1 (elapsedCount q.position p (predictedPitch f s.tracker.shrink) / f.k) - 1)
          (setTracker { s.tracker with countdown := some f.k, pendingTop := some ⟨p, st, t⟩, nudge := none, spanIndex := some 0, rephasing := false, frameCounter := q.frame + max 1 (elapsedCount q.position p (predictedPitch f s.tracker.shrink) / f.k) } s)
        have km := congrArg (·.1) k.2; simp only [trackerKey] at km
        have km' := km.trans (show _ = s.tracker.mode from rfl)
        refine ⟨⟨numbersInv_congr k.1 k.2 ?_, fun e => h4 (km'.symm.trans e)⟩, km'⟩
        refine ⟨h1, fun n hn => ?_, fun _ => ⟨by simp, by simp, ?_⟩⟩
        · have := h2 n hn; simp only [setTracker]; omega
        · intro e; simp [setTracker, hm] at e
      · rename_i hx
        refine ⟨⟨⟨h1, h2, fun _ => ⟨by simp, cq, ?_⟩⟩, h4⟩, rfl⟩
        intro e
        rcases e with e | e
        · cases hq : s.tracker.qTop with
          | none => exact absurd hq (cq e)
          | some q => exact absurd (hx q e hq) id
        · exact absurd e hm
    · exact ⟨numbersGo_congr rfl rfl h, rfl⟩

theorem updateSpan_key (f st s) : frameNumbers (updateSpan f st s) = frameNumbers s ∧ (updateSpan f st s).tracker = s.tracker := by
  unfold updateSpan
  split
  · split
    · exact ⟨writeContext_frameNumbers _ _ (fun c => by split <;> rfl) _, rfl⟩
    · exact ⟨rfl, rfl⟩
  · exact ⟨rfl, rfl⟩

theorem finishResolution_numbers (f p st t s) (h : numbersGo s) (hm : s.tracker.mode ≠ .search) : numbersGo (finishResolution f p st t s) ∧ (finishResolution f p st t s).tracker.mode ≠ .search := by
  unfold finishResolution setWindow
  obtain ⟨a, b, c⟩ := cutFrame_numbers (cutStateOf s.tracker.mode) (cutterCount f.k st) s h
  obtain ⟨d, e⟩ := moveCountdown_numbers f p st t _ a (by rw [c]; exact hm)
  obtain ⟨k1, k2⟩ := updateSpan_key f st (moveCountdown f p st t (cutFrame (cutStateOf s.tracker.mode) (cutterCount f.k st) s))
  refine ⟨numbersGo_congr (t := moveCountdown f p st t (cutFrame (cutStateOf s.tracker.mode) (cutterCount f.k st) s)) ?_ ?_ d, ?_⟩
  · exact k1
  · simp only [trackerKey, setTracker_tracker]; rw [k2]
  · simp only [setTracker_tracker]; rw [k2, e, c]; exact hm

theorem setMode_numbers (m) (s : State) (h : numbersGo s) (hm : m ≠ .idle) (hs : m ≠ .search) : numbersGo (setMode m s) := by
  obtain ⟨⟨h1, h2, h3⟩, h4⟩ := h
  obtain ⟨c1, cq, c2⟩ := h3 h4
  refine ⟨⟨h1, h2, fun _ => ⟨c1, cq, ?_⟩⟩, hm⟩
  intro e
  rcases e with e | e
  · exact c2 (.inl e)
  · exact absurd e hs

theorem judgeAndMeasure_key (f p r t) : trackerKey (judgeAndMeasure f p r t) = trackerKey t := by
  have a : ∀ (v : SuspectVerdict) s t, trackerKey (applyVerdict v s t) = trackerKey t := by
    intro v s t; cases v <;> rfl
  have b : ∀ n p q b v r t, trackerKey (updateShrink n p q b v r t) = trackerKey t := by
    intro n p q b v r t
    unfold updateShrink
    split
    · split
      · split <;> rfl
      · split <;> rfl
    · rfl
  have c : ∀ th p r t, trackerKey (judgeSuspect th p r t).1 = trackerKey t := by
    intro th p r t
    unfold judgeSuspect
    split
    · exact a _ _ _
    · split
      · split <;> rfl
      · rfl
  unfold judgeAndMeasure
  dsimp only
  rw [b, c]

theorem resolve_numbers (f p r s) (h : numbersGo s) (hr : r = .synthesized ∨ s.tracker.mode ≠ .search) : numbersGo (resolve f p r s) := by
  have h0 : numbersGo (countResolution r s) := numbersGo_congr rfl rfl h
  have h1 : numbersGo (moveState r (countResolution r s)) ∧ (moveState r (countResolution r s)).tracker.mode ≠ .search := by
    unfold moveState
    dsimp only
    split
    · exact ⟨setMode_numbers .coasting (setTracker {(countResolution .synthesized s).tracker with synthRun := (countResolution .synthesized s).tracker.synthRun + 1, acceptRun := 0} (countResolution .synthesized s)) (numbersGo_congr (t := s) rfl rfl h) (by simp) (by simp), by simp [setMode, formEffective]⟩
    · rename_i dv
      split
      · split
        · exact ⟨setMode_numbers .locked (setTracker {(countResolution (.accepted dv) s).tracker with synthRun := 0, acceptRun := 2} (countResolution (.accepted dv) s)) (numbersGo_congr (t := s) rfl rfl h) (by simp) (by simp), by simp [setMode, formEffective]⟩
        · rename_i e _
          exact ⟨numbersGo_congr (t := s) rfl rfl h, by simp [e]⟩
      · rcases hr with hr | hr
        · cases hr
        · exact ⟨numbersGo_congr (t := s) rfl rfl h, hr⟩
  unfold resolve
  dsimp only
  refine (finishResolution_numbers _ _ _ _ _ ?_ ?_).1
  · exact numbersGo_congr (t := moveState r (countResolution r s)) rfl (judgeAndMeasure_key _ _ _ _) h1.1
  · simp only [setTracker_tracker]
    have := congrArg (·.1) (judgeAndMeasure_key f p r (moveState r (countResolution r s)).tracker)
    simp only [trackerKey] at this
    rw [this]; exact h1.2

theorem loseLock_numbers (b s) (h : numbersGo s) : numbersGo (loseLock b s) := by
  have h0 : numbersGo (setTracker (dropSuspect s.tracker) s) := by
    refine numbersGo_congr (t := s) rfl ?_ h
    simp only [setTracker_tracker]; unfold dropSuspect; split <;> rfl
  obtain ⟨a, c, d⟩ := cutFrame_numbers (cutStateOf (setTracker (dropSuspect s.tracker) s).tracker.mode) 0 _ h0
  unfold loseLock
  dsimp only
  obtain ⟨⟨h1, h2, h3⟩, h4⟩ := a
  obtain ⟨c1, cq, c2⟩ := h3 h4
  refine ⟨⟨h1, h2, fun _ => ⟨fun _ => c1 c, ?_, fun _ => ⟨c, c1 c⟩⟩⟩, ?_⟩
  · intro e; exact absurd e (by simp [loosen, countTracker, setMode, formEffective, raise])
  · simp [countTracker, setMode, formEffective, raise]

theorem acquireLock_numbers (f e1 e2 e3 s) (h : numbersGo s) (hs : s.tracker.mode = .search) : numbersGo (acquireLock f e1 e2 e3 s) := by
  unfold acquireLock
  dsimp only
  have rc : ∀ c t, numbersGo t ∧ t.tracker.mode ≠ .search → numbersGo (resolveCandidate f c t) ∧ (resolveCandidate f c t).tracker.mode ≠ .search := by
    intro c t ht
    exact finishResolution_numbers _ _ _ _ _ (numbersGo_congr (t := t) rfl rfl ht.1) ht.2
  refine (rc _ _ (rc _ _ (rc _ _ ⟨?_, ?_⟩))).1
  · obtain ⟨⟨h1, h2, h3⟩, h4⟩ := h
    obtain ⟨c1, cq, c2⟩ := h3 h4
    refine ⟨⟨h1, h2, fun _ => ⟨c1, ?_, fun _ => c2 (.inr hs)⟩⟩, by simp [setMode, formEffective]⟩
    intro e
    simp [setMode, formEffective] at e
    intro e2
    simp [setMode, formEffective] at e2
    rw [e2] at e; cases e
  · simp [setMode, formEffective]

theorem addCandidate_numbers (f p s) (h : numbersGo s) (hs : s.tracker.mode = .search) : numbersGo (addCandidate f p s) := by
  unfold addCandidate
  dsimp only
  split
  · split
    · exact acquireLock_numbers _ _ _ _ _ (numbersGo_congr (t := s) rfl rfl h) hs
    · exact numbersGo_congr rfl rfl h
  · exact numbersGo_congr rfl rfl h

theorem closeWindow_numbers (f p s) (h : numbersGo s) : numbersGo (closeWindow f p s) := by
  unfold closeWindow
  split
  · split
    · split
      · exact resolve_numbers _ _ _ _ h (.inl rfl)
      · exact loseLock_numbers _ _ h
    · exact h
  · exact h

theorem takeEdge_numbers (f e s) (h : numbersGo s) : numbersGo (takeEdge f e s) := by
  unfold takeEdge
  split
  · rename_i hs; exact addCandidate_numbers _ _ _ h hs
  · exact h
  · rename_i h1 _
    split
    · unfold windowEdge
      split
      · exact numbersGo_congr rfl rfl h
      · split
        · exact resolve_numbers _ _ _ _ h (.inr (by intro e; exact h1 e))
        · exact h
    · exact h

theorem examineSample_numbers (f v p s) (h : numbersGo s) : numbersGo (examineSample f v p s) := by
  unfold examineSample
  split
  · exact closeWindow_numbers _ _ _ (numbersGo_congr rfl rfl h)
  · dsimp only
    refine closeWindow_numbers _ _ _ ?_
    split
    · split
      · exact takeEdge_numbers _ _ _ (numbersGo_congr rfl rfl h)
      · exact numbersGo_congr rfl rfl h
    · exact numbersGo_congr rfl rfl h

theorem examineFrom_numbers (f l v p n s) (h : numbersGo s) : numbersGo (examineFrom f l v p n s) := by
  induction n generalizing p s with
  | zero => exact h
  | succ n ih => exact ih _ _ (examineSample_numbers _ _ _ _ h)

theorem trackLine_numbers (r s) (h : numbersInv (frameNumbers s) s.tracker) : numbersInv (frameNumbers (trackLine r s)) (trackLine r s).tracker := by
  unfold trackLine
  split
  · exact h
  · exact h
  · rename_i hi
    have hGo : numbersGo s := ⟨h, fun e => hi e⟩
    dsimp only
    refine (examineFrom_numbers _ _ _ _ _ _ ?_).1
    have h1 : numbersGo (if r.atBreak = true then actOnBreak s else s) := by
      split
      · unfold actOnBreak
        split
        · exact numbersGo_congr rfl rfl hGo
        · exact hGo
        · exact loseLock_numbers _ _ hGo
      · exact hGo
    generalize (if r.atBreak = true then actOnBreak s else s) = u at h1
    have h2 : numbersGo (countUnframed r u) := by
      unfold countUnframed; split
      · exact numbersGo_congr (t := u) rfl rfl h1
      · exact h1
    generalize countUnframed r u = v at h2
    refine numbersGo_congr (t := v) ?_ ?_ h2
    · simp [frameNumbers]
    · simp [trackerKey, takeEntry]

end Sys2Proof.Machine
end

