-- ==== Sys2Proof/Tests/Slice0.lean ====
section
/-! SUPPORT. Tests: the checks of WellFormed refuse an ill-formed term each; packets and commands written out from spec/; the worked
cases of spec/; and, for every statement with hypotheses, states and operands that meet them. -/

namespace Sys2Proof.Tests

open Sys2Proof Sys2Proof.Machine

-- one theorem at a time: the kernel evaluations below are small, but each one in parallel takes a stack of its own
set_option Elab.async false

/-! ## Small states -/

/-- A plan whose lines have two pixels. -/
def small : MemoryPlan := ⟨2, 1024, 268435456, 0, 134217728⟩

/-- A plan that spec/ allows. -/
def lawful : MemoryPlanArgs := ⟨1024#32, 1024#32, 0x10000000#32, 0#32, 0x08000000#32⟩

/-- The state after reset with the memory ready and a plan. -/
def planned : State := { State.reset with frameMemory := { State.reset.frameMemory with ready := true, plan := some small } }

/-- An intake that takes lines. -/
def taking : State := { planned with intake := { planned.intake with mode := .taking } }

/-- An intake that has staged `n` lines. -/
def staged (n : Nat) (s : State) : State :=
  { s with
    intake :=
      { s.intake with
        staging := List.replicate n ⟨0, []⟩, writeLine := n,
        counters := { s.intake.counters with linesTaken := n } } }

/-- A pixel of four equal samples. -/
def grey (v : Half) : Pixel := ⟨v, v, v, v⟩

/-- The tracking fields of a format with four perforations to a frame. -/
def fields4 : TrackingFields := ⟨.rising, 12464, 4, 400, 100, 3, 6400, 2⟩

/-- The arguments of a format that spec/ allows. -/
def formatArgs : FormatSetArgs :=
  ⟨0#32, 0#32, 12464#32, 4#32, 400#32, 100#32, 3#32, 6400#32, 2#32, 0#32, 0#32, 256#32, 256#32, 1#32, 64#32, 1000#32, 500#32,
    16#32, 75#32⟩

/-- The format of these arguments. -/
def format4 : Format := ⟨fields4, ⟨0, 0, 256, 256⟩, ⟨true, 64, 1000, 500, 16, 75⟩⟩

/-- The identity of a reel. -/
def someReel : ReelIdentity := ⟨[0x41#8], 1, 0, 0, none, some 2, none⟩

/-- A context of frame `n`. -/
def context (n : Nat) : FrameContext :=
  { frame := n, reelSequence := 1#16, top := 160, topStatus := .accepted, synthesized := 0, splice := false, appliedS := 65536,
    shrinkClamp := false, appliedH := 0, weaveClamp := false, cutState := .locked, lastNeeded := 20, incomplete := false,
    substituted := 0, temporal := 0, spatial := 0, scratchPixels := 0, unrepaired := 0, referenceUsed := false,
    currentSet := none, targetSet := none, weight := 0, firedCue := none, gradeMiss := false, meanR := 0, meanG := 0, meanB := 0,
    clipped := 0, aborted := false, finished := false, opened := false }

/-- An open reel with one frame cut, one line in the ring, one command's reply waiting, Grade Set 0 current. -/
def running : State :=
  { taking with
    tracker := { Tracker.powerOn with mode := .search, fields := some fields4, frameCounter := 4 }, contexts := [context 3],
    pace :=
      { Pace.powerOn with
        table := #v[some ⟨9, 99⟩, none, none, none, none, none, none], requested := 1, effective := 1,
        counters := some ⟨1, 9, 99⟩ },
    frameMemory := { taking.frameMemory with slots := [(3, 1027)], bytes := [(268435456, 7#8)] },
    grading :=
      { Grading.powerOn with
        sets := Grading.powerOn.sets.set 0 { GradeSet.cleared with state := .inUse }, current := some 0, raster := some (2, 2) },
    reel := { ReelController.powerOn with state := .opened, sequence := 1#16, identity := some someReel },
    interpreter :=
      { Interpreter.powerOn with
        ordinary := Interpreter.powerOn.ordinary.set 0 (.filled ⟨0x23#16, 5#16, .badState, []⟩), fillOrder := [.ordinary 0] },
    delivery := { DeliveryPort.powerOn with stall := some 3 } }

/-- The same reel while it closes, with the close in flight in slot 1. -/
def closing : State :=
  { running with
    intake := { running.intake with mode := .closed }, tracker := running.tracker.idled, contexts := [],
    reel := { running.reel with state := .closing },
    interpreter :=
      { running.interpreter with
        queue := [⟨0x23#16, 6#16, .reelClose⟩], inFlight := some 1, ordinary := running.interpreter.ordinary.set 1 .claimed } }

/-- Four tickets. -/
def fourTickets : List Ticket := List.replicate 4 (abortTicket someReel ReelController.powerOn ReelRecord.zero [])

/-! ## WellFormed refuses -/

theorem test_wf_line_of_control_kind : Instr.wellFormed (.linePacket [2#8, 0#8, 0#8, 0#8, 0#8, 0#8, 0#8, 0#8]) = false := by
  decide

theorem test_wf_line_too_short : Instr.wellFormed (.linePacket [1#8, 0#8, 0#8, 0#8]) = false := by decide

theorem test_wf_control_of_line_kind :
    Instr.wellFormed (.controlPacket [1#8, 0#8, 0#8, 0#8, 0#8, 0#8, 0#8, 0#8]) = false := by decide

theorem test_wf_unknown_of_known_kind :
    Instr.wellFormed (.unknownKindPacket [1#8, 0#8, 0#8, 0#8, 0#8, 0#8, 0#8, 0#8]) = false := by decide

theorem test_wf_lut_load_empty : Instr.wellFormed (.lutLoad 0#16 0#32 0#32 0#32 0#32 []) = false := by decide

theorem test_wf_lut_load_long : Instr.wellFormed (.lutLoad 0#16 0#32 0#32 0#32 0#32 (List.replicate 503 0#16)) = false := by
  rw [Instr.wellFormed, Command.wellFormed, List.length_replicate]
  rfl

theorem test_wf_scratch_load_long : Instr.wellFormed (.scratchLoad 0#16 (List.replicate 255 0#32)) = false := by
  rw [Instr.wellFormed, Command.wellFormed, List.length_replicate]
  rfl

theorem test_wf_accession_short :
    Instr.wellFormed (.reelOpen 0#16 ⟨1#32, [0x41#8], 1#32, 0#32, 0#32, 0#32, 0#32, 0#32, 0#32⟩) = false := by decide

theorem test_wf_bad_command_of_known_code : Instr.wellFormed (.badCommand 0#16 0x30#16) = false := by decide

theorem test_wf_bad_command_of_immediate_code : Instr.wellFormed (.badCommand 0#16 0x24#16) = false := by decide

/-! ## Packets and commands written out from spec/ -/

/-- R1: the check text of the rule. -/
theorem test_crc_check_text :
    crc16 [0x31#8, 0x32#8, 0x33#8, 0x34#8, 0x35#8, 0x36#8, 0x37#8, 0x38#8, 0x39#8] = 0x29B1#16 := by decide +kernel

/-- Table 12-11: the words of the LUT_LOAD packet of section 12.6, without the check word. -/
def lutPacket : List Byte :=
  [0x02#8, 0#8, 0x1A#8, 0#8, 0x10#8, 0#8, 0x23#8, 0x01#8, 2#8, 0#8, 0#8, 0#8, 1#8, 0#8, 0#8, 0#8, 0#8, 4#8, 0#8, 0#8, 3#8, 0#8,
    0#8, 0#8, 0#8, 0x40#8, 0x10#8, 0x40#8, 0x20#8, 0x40#8, 0#8, 0#8]

/-- Section 12.6: the packet is 36 bytes, the words of Table 12-11 and a check word. -/
theorem test_lut_packet_words :
    (controlRun 0x10#16 0x0123#16 (argBytesOf (.lutLoad 2#32 1#32 1024#32 3#32 [16384#16, 16400#16, 16416#16]))).take 32 = lutPacket
      ∧ (controlRun 0x10#16 0x0123#16
          (argBytesOf (.lutLoad 2#32 1#32 1024#32 3#32 [16384#16, 16400#16, 16416#16]))).length = 36 := by decide +kernel

/-- Section 12.6: the reply to that packet is OK with N = 3 and no chunk covered, its word 1 that of the packet. -/
theorem test_lut_packet_reply :
    (match exec (.controlPacket (lutPacket ++ halfBytes (crc16 lutPacket) ++ [0#8, 0#8])) State.reset with
      | .next t => t.interpreter.ordinary[0]
      | _ => .free) = .filled ⟨0x10#16, 0x0123#16, .ok, [3#32, 0#32]⟩ := by decide +kernel

/-- Table 12-7: that reply as the payload of a REPLY packet. -/
theorem test_reply_payload :
    replyPayload ⟨0x10#16, 0x0123#16, .ok, [3#32, 0#32]⟩ =
      [0x10#8, 0#8, 0x23#8, 0x01#8, 0#8, 0#8, 8#8, 0#8, 3#8, 0#8, 0#8, 0#8, 0#8, 0#8, 0#8, 0#8] := by decide

/-- The ticket of the worked close (spec/ 9.9). -/
def workedTicket : Ticket :=
  { reelSequence := 41#16,
    accession := [0x4E#8, 0x56#8, 0x2D#8, 0x31#8, 0x39#8, 0x35#8, 0x32#8, 0x2D#8, 0x30#8, 0x30#8, 0x38#8, 0x37#8], reelNumber := 3,
    format := 2, cls := 3, previousClass := some 2, change := some .worse, zone := 12, interval := 24,
    flags := ⟨true, false, false, false⟩, classUnset := false, matchedRows := [0, 2, 4],
    metrics := [12, 4, 14, 9, 1, 999, 3, 5, 640, 2, 3, 20], framesDelivered := 1000, framesLost := 2, aborted := false }

/-- Words 1 to 4, 18, 22 and 23 of that ticket, written out from Table 12-8. -/
theorem test_ticket_words :
    [0, 1, 2, 3, 17, 21, 22].map (wordAt (ticketPayload workedTicket)) =
      [0x1A030029#32, 0x01180C1A#32, 0x000C0015#32, 0x312D564E#32, 640#32, 1000#32, 2#32] := by decide +kernel

/-- Table 12-9: one command of each family from its bytes. -/
theorem test_commands_read :
    commandOf 0x04#16 [5#8, 0#8, 0#8, 0#8] = .paceRequest 5#32
      ∧ commandOf 0x06#16 [1#8, 0#8, 0#8, 0#8] = .framingNudge 1#32
      ∧ commandOf 0x14#16 [0#8, 0#8, 0#8, 0#8, 2#8, 0#8, 0#8, 0#8, 4#8, 0#8, 0#8, 0#8, 0#8, 1#8, 0#8, 0#8] =
          .cueAdd 0#32 2#32 4#32 256#32
      ∧ commandOf 0x18#16 [1#8, 0#8, 0#8, 0#8, 0x2C#8, 1#8, 4#8, 0#8] = .scratchLoad [0x0004012C#32]
      ∧ commandOf 0x21#16 [5#8, 0#8, 0#8, 0#8, 1#8, 0#8, 0#8, 0#8, 9#8, 0#8, 0#8, 0#8, 12#8, 0#8, 0#8, 0#8, 3#8, 0#8, 0#8, 0#8] =
          .classSet ⟨5#32, 1#32, 9#32, 12#32, 3#32⟩
      ∧ commandOf 0x23#16 [] = .reelClose
      ∧ commandOf 0x29#16 [10#8, 0#8, 0#8, 0#8] = .noticeAck 10#32
      ∧ commandOf 0x30#16 [9#8, 0#8, 0#8, 0#8] = .statusQuery 9#32 := by decide

/-- R156: a wrong length and an unknown code. -/
theorem test_commands_unreadable :
    commandOf 0x04#16 [5#8, 0#8, 0#8] = .wrongLength ∧ commandOf 0x18#16 [2#8, 0#8, 0#8, 0#8, 0#8, 0#8, 0#8, 0#8] = .wrongLength
      ∧ commandOf 0x07#16 [] = .unknown := by decide

/-! ## Worked cases of spec/ -/

/-- R98: A = 10,000 at distance 2, B = 12,000 at distance 3, the value 10,800. -/
theorem test_spatial_blend :
    (repairPixel ⟨true, 0, 0, 0, 16, 75⟩
      ⟨[grey 10000#16, grey 0#16, grey 0#16, grey 0#16, grey 0#16, grey 12000#16], [false, true, true, true, true, false], [], none⟩
      2).1.rgb.r = 10800#16 := by decide +kernel

/-- Section 8.2.1: a matrix value of 21,571 with the offset -200, and one clamped at 65,535 with +50,000. -/
theorem test_matrix_offset :
    matrixRow 4096 0 0 (-200) ⟨21571#16, 0#16, 0#16⟩ = (21371#16, false)
      ∧ matrixRow 4096 0 0 50000 ⟨21571#16, 0#16, 0#16⟩ = (65535#16, true) := by decide +kernel

/-- Section 8.2.1: the blend of 21,371 and 24,000 at weight 102. -/
theorem test_dissolve_blend : mixSamples 256 102 21371#16 24000#16 = 22418#16 := by decide +kernel

/-- R144: an S_mean of 64,747 gives SHRINK_PM 12. -/
theorem test_shrink_metric :
    (metricsOf { ReelRecord.zero with framesDelivered := 1, sumS := 64747 }).head? = some 12 := by decide +kernel

/-- R33, R34: three pitches against a nominal pitch of 12,464 give S = 64,726. -/
theorem test_shrink_factor : shrinkOf 12464 [12300, 12310, 12320] = 64726 := by decide +kernel

/-- R37: sum 89,049 over 14 received lines, reference edge 6400, gives H = -39. -/
theorem test_weave : weaveOf 6400 ⟨10, 16, 14, 89049⟩ = some (-39) := by decide +kernel

/-- R113: LUT_LOAD with first entry 4000, count 200 and 200 data entries is ADJUSTED with N = 96. -/
theorem test_lut_load_adjusted :
    (lutLoadOwner 0 0 4000 200 (List.replicate 200 7#16) State.reset).1 = ⟨.adjusted, [96#32, 0#32]⟩ := by decide +kernel

/-- R113: one entry of 65535 from 3584 with count 0 covers chunk 7. -/
theorem test_lut_load_fills :
    (lutLoadOwner 0 0 3584 0 [65535#16] State.reset).1 = ⟨.ok, [512#32, 128#32]⟩ := by decide +kernel

/-! ## Commands from their packets and events, one step each -/

/-- R150: with the Command Queue empty and a slot free a queued command starts at once; without credits its reply waits. -/
theorem test_reply_waits_for_credit :
    (match exec (.paceRequest 9#16 0#32) State.reset with
      | .next t => t.delivery.stall
      | _ => none) = some 0 := by decide +kernel

/-- R12: 64 credits fill the pool; what goes beyond is excess. -/
theorem test_credit_excess :
    (match exec (.creditGrant (grantRun 64#8)) { State.reset with delivery := { State.reset.delivery with pool := 3 } } with
      | .next t => (t.delivery.pool, t.delivery.excess)
      | _ => (0, 0)) = (64, 3) := by decide +kernel

/-- R59: a plan that spec/ allows is accepted with the four sizes. -/
theorem test_memory_plan :
    (match exec (.memoryPlan 1#16 lawful) planned with
      | .next t => t.interpreter.ordinary[0]
      | _ => .free) = .filled ⟨2#16, 1#16, .ok, [0x20000000#32, 0#32, 0x800000#32, 0x8000000#32]⟩ := by decide +kernel

/-- R19: an edge is recorded at the first of three samples. -/
theorem test_filter_edge :
    filterSample ⟨.low, some ⟨true, 2, 40⟩⟩ true 42 = (⟨.high, none⟩, some ⟨true, 40⟩) := by decide

/-- R15, Table 2-7: the stall timer at 99 of 100 is not due; the next 10 ms tick makes it so, and the expiry restarts it at 0. -/
theorem test_stall_expires_at_timeout :
    (match exec .stallTimerExpiry { running with delivery := { running.delivery with stall := some 99 } } with
      | .next t => t.delivery.stall
      | _ => none) = some 99
      ∧ (match exec .timeBaseTick
            { running with pace := { running.pace with tenth := 9 }, delivery := { running.delivery with stall := some 99 } } with
          | .next t =>
            (match exec .stallTimerExpiry t with
              | .next u => (t.delivery.stall, u.delivery.stall)
              | _ => (none, none))
          | _ => (none, none)) = (some 100, some 0) := by decide +kernel

/-- R53, Table 4-5: the 2,000th tick makes the spin-up timer due; with no expiry row between, the tick after it faults first. -/
theorem test_spin_up_never_passes :
    (match exec .timeBaseTick { running with pace := { running.pace with spinUp := some 1999 } } with
      | .next t =>
        (match exec .timeBaseTick t with
          | .next u => (t.pace.spinUp, t.pace.faultLatch, u.pace.spinUp, u.pace.faultLatch)
          | _ => (none, false, none, false))
      | _ => (none, false, none, false)) = (some 2000, false, none, true) := by decide +kernel

/-- The state after a row that answers a next state. -/
def after (i : Instr) (s : State) : State :=
  match exec i s with
  | .next t => t
  | _ => s

/-- R46: no change before the first tick; one tick's sample is one change at most; the drop at the next tick faults. -/
theorem test_trun_sampled :
    (after .trunAssertion running).pace.trun = false
      ∧ (let up := after .trunAssertion (after .timeBaseTick running)
        (up.pace.trun, (after .trunDrop up).pace.trun, (after .trunDrop (after .timeBaseTick up)).pace.faultLatch))
          = (true, true, true) := by decide +kernel

/-- R50, Table 4-4: at the 10 ms tick 6,580 of 8,192 lines lower the cap by one, and once, whatever the occupancy is when the row comes; an
evaluation that no row has taken is taken by the next tick; a 1 ms tick gives no reading. -/
theorem test_ring_cap_per_tick :
    (let s := { running with
        frameMemory := { running.frameMemory with plan := some { small with r := 8192 }, fillLine := 6580 },
        pace := { running.pace with tenth := 9 } }
      let t := after .timeBaseTick s
      let u := after .ringCapEvaluation { t with frameMemory := { t.frameMemory with fillLine := 20 } }
      (occupancy s, u.pace.ringCap, (after .ringCapEvaluation u).pace.ringCap, (after .timeBaseTick t).pace.ringCap,
        (after .ringCapEvaluation (after .timeBaseTick { s with pace := running.pace })).pace.ringCap)) = (6580, 6, 6, 6, 7) := by
  decide +kernel

/-- A LOCKED Tracker as in the worked sequence of Table 3-4: K = 1, tol 160, threshold 48, the pitch 3010, frame 50 pending. -/
def spliced : State :=
  { running with
    contexts := [],
    tracker :=
      { running.tracker with
        mode := .locked, fields := some ⟨.rising, 3010, 1, 160, 48, 3, 6400, 2⟩, frameCounter := 50, countdown := some 1,
        pendingTop := some ⟨1000000, .accepted, ⟨62500, 0, 0, 0⟩⟩, window := some ⟨1000000, 3010, 160⟩, lastAccepted := true } }

/-- Table 3-4: the edge at 1,003,100 is SUSPECT and cuts frame 50 without SPLICE; the one at 1,006,125 confirms the splice, and frame 51
carries SPLICE and consumes the mark. No pitch enters. -/
theorem test_splice_worked :
    let f : TrackingFields := ⟨.rising, 3010, 1, 160, 48, 3, 6400, 2⟩
    let one := takeEdge f 1003100 spliced
    let two := takeEdge f 1006125 one
    one.tracker.suspect = some ⟨1003100, true⟩ ∧ one.contexts.map (fun c => (c.frame, c.splice)) = [(50, false)]
      ∧ two.contexts.map (fun c => (c.frame, c.splice)) = [(50, false), (51, true)] ∧ two.tracker.spliceMark = none
      ∧ two.tracker.counters.splices = 1 ∧ two.tracker.history = [] ∧ two.tracker.window = some ⟨1006125, 3010, 160⟩ := by
  decide +kernel

/-- R107: a LOADED entry at W_out takes no run that ends at W_out - 1. -/
theorem test_loaded_beyond_raster :
    (scratchFrameEnd 256 5 1 (List.replicate 255 0 ++ [9]) [⟨0, 256, 4, .loaded, 0, 0, 0⟩]).table =
      [⟨1, 255, 1, .learned .candidate 5, 1, 0, 0⟩, ⟨0, 256, 4, .loaded, 0, 0, 0⟩] := by decide +kernel

/-- R49, R167: a pace level of 300 in REEL_OPEN is a level that can belong. -/
theorem test_open_pace_level :
    (reelRequestOf ⟨1#32, 0x41#8 :: List.replicate 23 0#8, 1#32, 0#32, 1#32, 4#32, 0#32, 0#32, 300#32⟩).map (·.paceLevel) =
      some (some 300) := by decide +kernel

/-- R79: the engine waits for PENDING lines only, and the list is absent when there is none. -/
theorem test_awaited_lines :
    awaitedLines (.gathering ⟨3, 160, 65536, 0, [], [⟨8, .available⟩, ⟨9, .pending⟩], none⟩) = [9]
      ∧ optionalList [9] = [1#32, 9#32, 1#32] ∧ optionalList [] = [0#32, 0#32] := by decide

/-! ## States and operands that meet the hypotheses of the statements -/

/-- The two links: a line packet with two pixels and the sequence number `n`. -/
def lineOf (n : Half) : List Byte := lineRun n 0#16 0 [grey 1#16, grey 2#16]

/-- CommandsKeepQueue, StallTimerFollows: a command that answers a next state. -/
theorem witness_next :
    exec .timeBaseTick State.reset =
      .next { State.reset with pace := { State.reset.pace with tenth := 1, due := { State.reset.pace.due with sample := true } } } := rfl

/-- MemoryFormKept, CollectionsStayBounded, FrameNumbersKept, EffectiveLevelFormed, SetsInUseKept, RepliesKept, ClampsKept: the open reel
with a tick waiting meets the invariants. -/
theorem witness_invariants :
    memoryWf running.frameMemory.bytes ∧ keysRise running.frameMemory.slots ∧ (∀ x ∈ running.frameMemory.slots, x.1 = x.2 % 1024)
      ∧ running.frameMemory.channel = none ∧ boundsInv running ∧ framesAscend running
      ∧ (∀ c ∈ running.contexts, c.frame < running.tracker.frameCounter) ∧ running.tracker.qTop = none
      ∧ running.tracker.rephasing = false ∧ running.tracker.lastCut = none ∧ levelInv running
      ∧ running.grading.sets[0].state = .inUse ∧ running.grading.current = some 0 ∧ running.grading.sets[1].state = .empty
      ∧ running.interpreter.fillOrder = [.ordinary 0] ∧ isFilled running.interpreter.ordinary[0] = true
      ∧ stallInv running ∧ running.intake.writeLine ≤ counterMax ∧ stagedInv running ∧ cuesInv running ∧ scratchesInv running
      ∧ stagedInv { running with intake := { running.intake with writeLine := 9, staging := [⟨7, []⟩, ⟨8, []⟩] } }
      ∧ cuesInv { running with grading := { running.grading with cues := [⟨3, 1, 0⟩, ⟨4, 2, 5⟩] } }
      ∧ (∀ c ∈ running.contexts, 62259 ≤ c.appliedS ∧ c.appliedS ≤ 66191) := by
  unfold boundsInv framesAscend levelInv stallInv stagedInv cuesInv scratchesInv
  decide +kernel

/-- EffectiveLevelFormed: in SEARCH with the reel OPEN; in CLOSING; in NO_REEL; below an unset level. -/
theorem witness_levels :
    running.tracker.mode = .search ∧ running.reel.state = .opened ∧ running.tracker.fields = some fields4
      ∧ closing.reel.state = .closing ∧ formedLevel closing = 1 ∧ State.reset.reel.state = .noReel ∧ formedLevel State.reset = 0
      ∧ formedLevel { running with pace := { running.pace with requested := 2 } } = 1
      ∧ isSetLevel running.pace 2 = false := by decide +kernel

/-- CommandsReadBack, ControlPacketRunsItsCommand: the longest lists that a packet carries, and a code the part does not know. -/
theorem witness_commands :
    Command.wellFormed (.lutLoad 0#32 0#32 0#32 0#32 [1#16]) = true
      ∧ Command.wellFormed (.lutLoad 0#32 0#32 0#32 0#32 (List.replicate 502 1#16)) = true
      ∧ Command.wellFormed (.scratchLoad (List.replicate 254 0#32)) = true ∧ Command.wellFormed .reelClose = true
      ∧ commandOf 0x07#16 [] = .unknown ∧ (0x07#16 ≠ 0x24#16 ∧ 0x07#16 ≠ 0x3F#16) := by decide +kernel

/-- PacketsDropped: each of the four arrivals, with control payloads of 3 and of 1025 bytes. -/
theorem witness_dropped_packets :
    arrivalOf [1#8, 0#8, 0#8, 0#8, 0#8, 0#8, 0#8, 0#8] = .line none ∧ State.reset.intake.mode = .closed
      ∧ arrivalOf [] = .unknown ∧ arrivalOf [9#8, 0#8, 0#8, 0#8, 0#8, 0#8, 0#8, 0#8] = .unknown
      ∧ arrivalOf [2#8, 0#8, 0#8, 0#8, 0#8, 0#8, 0#8, 0#8] = .control none
      ∧ arrivalOf (packetRun 2#8 [1#8, 2#8, 3#8]) = .control (some [1#8, 2#8, 3#8])
      ∧ arrivalOf (packetRun 2#8 (List.replicate 1025 0#8)) = .control (some (List.replicate 1025 0#8))
      ∧ 1024 < (List.replicate 1025 (0#8 : Byte)).length :=
  ⟨by decide +kernel, rfl, by decide, by decide, by decide +kernel, by decide +kernel, arrivalOf_control _ (by rw [List.length_replicate]; decide),
    by rw [List.length_replicate]; decide⟩

/-- LineInOrder: unsynchronized and in order, TAKING and DRAINING at the target; one pixel short, full, one beyond the width, and none;
three and four lines staged. -/
theorem witness_line_in_order :
    numbersLeft taking.intake 0 ∧ taking.frameMemory.plan = some small ∧ taking.intake.expected = none
      ∧ numbersLeft { taking.intake with mode := .draining, drainTarget := some 4, writeLine := 4 } 0
      ∧ ¬numbersLeft { taking.intake with mode := .draining, drainTarget := some 3, writeLine := 4 } 0
      ∧ (staged 3 taking).intake.staging.length < 4 ∧ (staged 4 taking).intake.staging.length = 4
      ∧ (staged 4 taking).intake.counters.linesTaken < counterMax
      ∧ [grey 1#16].length < small.wIn ∧ [grey 1#16, grey 2#16].length = small.wIn
      ∧ small.wIn < [grey 1#16, grey 2#16, grey 3#16].length ∧ [grey 1#16].getLast? = some (grey 1#16) := by
  refine ⟨.inl rfl, by decide, by decide, .inr ⟨rfl, fun t h => ?_⟩, ?_, by decide, by decide, by decide +kernel, by decide, by decide,
    by decide, by decide⟩
  · cases h; decide
  · rintro (h | ⟨-, h⟩)
    · cases h
    · exact absurd (h 3 rfl) (by decide)

/-- LineOutOfOrder: the differences 1, 4095, 65535, 4096 and 65534; a plan with room in staging and with four lines staged; a drain with one number left for a gap of two; a failed line and a
payload of 7 bytes. -/
theorem witness_out_of_order :
    (8#16 - 7#16).toNat = 1 ∧ (4102#16 - 7#16).toNat = 4095 ∧ (6#16 - 7#16).toNat = 65535 ∧ (4103#16 - 7#16).toNat = 4096
      ∧ (5#16 - 7#16).toNat = 65534
      ∧ ({ taking with intake := { taking.intake with expected := some 7#16 } } : State).intake.expected = some 7#16
      ∧ taking.frameMemory.plan = some small ∧ (staged 4 taking).intake.staging.length ≤ 4
      ∧ (staged 4 taking).intake.counters.linesTaken < counterMax ∧ numbersLeft taking.intake 4095 ∧ (4 ≤ 4 ∧ 4 < 4 + (9#16 - 7#16).toNat)
      ∧ arrivalOf [1#8, 0#8, 0#8, 0#8, 0#8, 0#8, 0#8, 0#8] = .line none
      ∧ arrivalOf (packetRun 1#8 (List.replicate 7 0#8)) = .line (some (List.replicate 7 0#8)) := by
  refine ⟨by decide, by decide, by decide, by decide, by decide, by decide, by decide, by decide, by decide +kernel, .inl rfl, by decide,
    by decide +kernel, by decide +kernel⟩

/-- A drain whose target the write line has passed. -/
def drained : State :=
  { staged 3 planned with intake := { (staged 3 planned).intake with mode := .draining, drainTarget := some 2 } }

/-- DrainEndsAtTarget: the write line one beyond the target, for a failed line, a line in order and the end of a gap. -/
theorem witness_drain_end :
    drained.intake.mode = .draining ∧ drained.intake.drainTarget = some 2 ∧ 2 < drained.intake.writeLine
      ∧ drained.intake.expected = none ∧ (9#16 - 7#16).toNat ≠ 65535
      ∧ (match arrivalOf (lineOf 5#16) with
          | .line (some p) => (linePayloadOf p).map (·.sequence)
          | _ => none) = some 5#16 := by decide +kernel

/-- CreditsGranted: counts 1 and 64; a short run, a failed check, counts 0 and 65. -/
theorem witness_grants :
    1 ≤ (1#8).toNat ∧ (64#8).toNat ≤ 64 ∧ [1#8].length ≠ 4 ∧ halfAt [1#8, 0#8, 0#8, 0#8] 2 ≠ crc16 [1#8, 0#8]
      ∧ (byteAt (grantRun 0#8) 0).toNat = 0 ∧ 64 < (byteAt (grantRun 65#8) 0).toNat := by decide +kernel

/-- TrunEvents: a sample that waits and none, the held level both ways, the effective level 1 and 0, NO_REEL with the level as R51 forms
it, and a command other than the four that answers a next state. -/
theorem witness_trun :
    (after .timeBaseTick running).pace.due.sample = true ∧ (after .timeBaseTick running).pace.trun = false
      ∧ running.pace.due.sample = false ∧ 1 ≤ (after .timeBaseTick running).pace.effective
      ∧ (after .timeBaseTick { running with pace := { running.pace with trun := true } }).pace.trun = true
      ∧ (after .timeBaseTick { running with pace := { running.pace with trun := true } }).pace.due.sample = true
      ∧ (match exec .ringCapEvaluation running with
        | .next t => t.pace.trun
        | _ => true) = false
      ∧ State.reset.pace.effective = 0 ∧ State.reset.reel.state = .noReel ∧ levelInv State.reset := by
  unfold levelInv
  decide +kernel

/-- TimersAndTicks: the phases 8 and 9 of the 10 ms tick with nothing due, counts at their timeouts and one below, due. -/
theorem witness_timers :
    State.reset.pace.tenth = 0 ∧ State.reset.pace.due = ⟨false, false, none, false, false⟩ ∧ State.reset.pace.spinUpTimeout * 100 ≤ 2000
      ∧ 1999 < State.reset.pace.spinUpTimeout * 100 ∧ State.reset.pace.silenceTimeout * 10 ≤ 50
      ∧ State.reset.pace.stallTimeout ≤ 100 ∧ stallInv running
      ∧ ({ running with pace := { running.pace with spinUp := some 2000, due := ⟨true, true, none, true, true⟩ } } : State).pace.due.spinUp = true :=
  by unfold stallInv; decide +kernel

/-- RingCapAndUnderflow: a reading that waits and none, a reel OPEN with a plan, a reel CLOSING, NO_REEL; counters RUNNING and STOPPED, a command other than the two that
change them; a Tracker LOCKED with a window and
no pending top, with one, in SEARCH with no candidate, and IDLE; an unfinished context, and none; a fill line above the boundary, and at
it. -/
theorem witness_ring_cap :
    spliced.tracker.mode = .locked ∧ spliced.tracker.window = some ⟨1000000, 3010, 160⟩
      ∧ ({ spliced.tracker with pendingTop := none } : Tracker).pendingTop = none
      ∧ spliced.tracker.pendingTop = some ⟨1000000, .accepted, ⟨62500, 0, 0, 0⟩⟩
      ∧ running.tracker.mode = .search ∧ running.tracker.candidates = [] ∧ closing.tracker.mode = .idle
      ∧ running.contexts = [] ++ context 3 :: [] ∧ (context 3).finished = false ∧ (context 3).aborted = false
      ∧ closing.contexts = [] ∧ protectBoundary running ≤ running.frameMemory.fillLine
      ∧ protectBoundary { running with intake := { running.intake with writeLine := 12 }, contexts := [context 3] } = 10
      ∧ running.reel.state = .opened ∧ running.frameMemory.plan = some small ∧ closing.reel.state = .closing
      ∧ State.reset.reel.state = .noReel ∧ running.pace.counters = some ⟨1, 9, 99⟩ ∧ State.reset.pace.counters = none
      ∧ (let t := after .timeBaseTick { running with pace := { running.pace with tenth := 9 } }
        (t.pace.due.ringCap, t.reel.state, t.frameMemory.plan)) = (some 0, .opened, some small)
      ∧ running.pace.due.ringCap = none
      ∧ (match exec .trunAssertion running with
        | .next t => (t.pace.counters, t.pace.due.ringCap)
        | _ => (none, some 0)) = (some ⟨1, 9, 99⟩, none) := by decide +kernel

/-- A staged line numbered `n`, with the write line at 0. -/
def stagedLine (n : Nat) : State := { taking with intake := { taking.intake with staging := [⟨n, [grey 1#16, grey 2#16]⟩] } }

/-- IntakeWriteGranted: line 1023 is written and line 1024 is dropped while P is 0; lines 5 and 1029 share a slot; the three engines'
requests presented. -/
theorem witness_grant :
    (stagedLine 0).frameMemory.channel = none ∧ (stagedLine 0).frameMemory.plan = some small
      ∧ chooseRequester (stagedLine 0) = some .intakeWrite ∧ protectBoundary (stagedLine 0) = 0
      ∧ 1023 < protectBoundary (stagedLine 1023) + small.r ∧ protectBoundary (stagedLine 1024) + small.r ≤ 1024
      ∧ 5 % small.r = 1029 % small.r
      ∧ ({ running with conformance := { running.conformance with readRequest := some 3 } } : State).conformance.readRequest = some 3
      ∧ ({ Repair.powerOn with mode := .fetching ⟨⟨3, 1, []⟩, false⟩, lastWritten := some .a } : Repair).lastWritten = some .a
      ∧ ({ Repair.powerOn with mode := .passing ⟨3, 1, [], false, false, false⟩ } : Repair).mode =
          .passing ⟨3, 1, [], false, false, false⟩ := by decide +kernel

/-- A transfer in flight. -/
def inFlight (x : Transfer) (s : State) : State := { s with frameMemory := { s.frameMemory with channel := some x } }

/-- IntakeWriteCompletes, ReadsPresentedAndCompleted, ReferenceWriteCompletes: transfers that end at the last byte of 512 MiB, and one that
ends a byte beyond it. -/
theorem witness_transfers :
    536870896 + 8 * [grey 1#16, grey 2#16].length ≤ taking.frameMemory.size
      ∧ taking.frameMemory.size < 536870897 + 8 * [grey 1#16, grey 2#16].length
      ∧ (inFlight (.intakeWrite 3 3 536870896 [grey 1#16, grey 2#16] false) taking).frameMemory.channel =
          some (.intakeWrite 3 3 536870896 [grey 1#16, grey 2#16] false)
      ∧ (inFlight (.conformanceRead 3 536870896 2 false) taking).frameMemory.channel =
          some (.conformanceRead 3 536870896 2 false)
      ∧ (inFlight (.referenceRead 0 2 true) taking).frameMemory.channel = some (.referenceRead 0 2 true)
      ∧ (inFlight (.referenceWrite 0 [] true) taking).frameMemory.channel = some (.referenceWrite 0 [] true) := by decide +kernel

/-- FormatSetAnswers: a readable format; numbers 7 and 8; fields inside and outside their ranges; a plan it fits and one it does not. -/
theorem witness_format :
    formatOf formatArgs = some format4 ∧ trackingRanges fields4 ∧ pathRanges format4.conformance format4.repair
      ∧ geometryHolds format4.conformance (planOf lawful) ∧ ¬geometryHolds format4.conformance small
      ∧ ¬trackingRanges { fields4 with coastLimit := 16 } ∧ (7#32 : Word).toNat = 7 ∧ 8 ≤ (8#32 : Word).toNat
      ∧ running.reel.identity.map (·.format) = some 0 ∧ running.reel.state ≠ .noReel := by
  unfold trackingRanges pathRanges geometryHolds
  decide +kernel

/-- MemoryPlanAnswers: not ready, a reel open, a plan out of range, and a plan in range whose windows lie apart. -/
theorem witness_plan :
    State.reset.frameMemory.ready = false ∧ planned.frameMemory.ready = true ∧ running.reel.state ≠ .noReel
      ∧ planned.reel.state = .noReel ∧ planRanges 536870912 (planOf lawful) ∧ ¬planRanges 536870912 small
      ∧ inTwoWindows (planOf { lawful with baseB := 0#32 }) 5 ∧ ∀ b, ¬inTwoWindows (planOf lawful) b := by
  refine ⟨by decide, by decide, by decide, by decide, by unfold planRanges; decide +kernel, by unfold planRanges; decide +kernel,
    by unfold inTwoWindows; decide +kernel, fun b => ?_⟩
  simp only [inTwoWindows, planOf, lawful, BitVec.reduceToNat]
  omega

/-- A table with level 1 set alone, then levels 1 and 2 with the same step period. -/
def table1 : PaceTableArgs := ⟨0x80006309#32, 0#32, 0#32, 0#32, 0#32, 0#32, 0#32, 80#32, 50#32⟩

/-- PaceCommandsAnswer: a readable table, watermarks at the ends of their ranges, levels 0, 1, 2, 7, 8, 255 and 256. -/
theorem witness_pace :
    paceLevelsOf table1 = some #v[some ⟨9, 99⟩, none, none, none, none, none, none] ∧ State.reset.reel.state = .noReel
      ∧ running.reel.state ≠ .noReel ∧ (50 ≤ 95 ∧ 10 + 10 ≤ 50) ∧ (1#32 : Word).toNat = (0 : Fin 7).val + 1
      ∧ running.pace.table[(0 : Fin 7)] = some ⟨9, 99⟩ ∧ running.pace.table[(1 : Fin 7)] = none
      ∧ running.pace.table[(6 : Fin 7)] = none ∧ 7 < (8#32 : Word).toNat ∧ (255#32 : Word).toNat ≤ 255
      ∧ 255 < (256#32 : Word).toNat ∧ 50 < (51#32 : Word).toNat ∧ 255 < (256#32 : Word).toNat := by decide +kernel

/-- FramingNudgeAnswers: a Tracker before any REEL_OPEN; a LOCKED one with K = 4 and no nudge, one in SEARCH, and d at 0, 1, 3 and 4. -/
theorem witness_nudge :
    State.reset.tracker.fields = none ∧ running.tracker.fields = some fields4 ∧ running.tracker.mode = .search ∧ fields4.k ≠ 1 ∧ running.tracker.nudge = none
      ∧ ({ running with tracker := { running.tracker with mode := .locked } } : State).tracker.mode = .locked
      ∧ (1#32 : Word).toNat < fields4.k ∧ (3#32 : Word).toNat < fields4.k ∧ fields4.k ≤ (4#32 : Word).toNat := by decide +kernel

/-- LutLoadAnswers, MatrixAndClearAnswer, SetCommitAnswers: a set that is not IN_USE, one that is, set numbers 3 and 4, a readable matrix
with the extreme values. -/
theorem witness_sets :
    State.reset.grading.sets[(3 : Fin 4)].state = .empty ∧ running.grading.sets[(0 : Fin 4)].state = .inUse
      ∧ (3#32 : Word).toNat = (3 : Fin 4).val ∧ 4 ≤ (4#32 : Word).toNat
      ∧ matrixOf ⟨0#32, 4096#32, 0#32, 0#32, 0#32, 4096#32, 0#32, 0#32, 0#32, 4096#32, 32767#32, 0xFFFF8000#32, 0#32⟩ =
          some ⟨4096, 0, 0, 0, 4096, 0, 0, 0, 4096, 32767, -32768, 0⟩
      ∧ chunkFlags (runAt 0 (List.replicate 512 (0#16 : Half))) = 1 ∧ keysRise [(0, (5#16 : Half)), (4095, 6#16)] := by
  decide +kernel

/-- Four thousand and ninety-six written entries. -/
def fullLut : List (Nat × Half) := runAt 0 (List.replicate 4096 0#16)

/-- SetCommitAnswers: complete and incomplete coverage, and each state of a set. -/
theorem witness_commit :
    chunkFlags fullLut = 255 ∧ chunkFlags [] ≠ 255 ∧ (some zeroMatrix : Option Matrix) ≠ none
      ∧ GradeSet.cleared.state = .empty ∧ ({ GradeSet.cleared with state := .loading } : GradeSet).state = .loading := by
  decide +kernel

/-- CueCommandsAnswer: a reel OPEN, NO_REEL; D at 64 and 65; a list with one cue, and full collections. -/
theorem witness_cues :
    running.reel.state = .opened ∧ State.reset.reel.state = .noReel ∧ (64#32 : Word).toNat ≤ 64 ∧ 64 < (65#32 : Word).toNat
      ∧ (1#32 : Word).toNat < 2 ∧ 2 ≤ (2#32 : Word).toNat ∧ (∃ c ∈ [(⟨9, 0, 0⟩ : FrameCue)], c.trigger = (9#32 : Word).toNat)
      ∧ (∀ c ∈ [(⟨9, 0, 0⟩ : FrameCue)], c.trigger ≠ (8#32 : Word).toNat) ∧ 64 ≤ (List.replicate 64 (⟨9, 0, 0⟩ : FrameCue)).length
      ∧ 16 ≤ (List.replicate 16 (⟨0, 0⟩ : SpliceCue)).length := by decide +kernel

/-- A Scratch Table of two LOADED entries. -/
def scratchTable : List ScratchEntry := [⟨1, 303, 1, .loaded, 0, 0, 0⟩, ⟨0, 304, 1, .loaded, 0, 0, 0⟩]

/-- ScratchCommandsAnswer: a list with a scratch at column 300 and one of width 16 that ends at column 4095; an overlong width; a LOADED
entry that meets the list and one that does not. -/
theorem witness_scratches :
    scratchesInv { State.reset with repair := { State.reset.repair with scratches := scratchTable } }
      ∧ (∀ e ∈ scratchTable, decide (304 ≤ e.left ∨ e.left + e.width ≤ 300) = true ↔
          ∀ x ∈ [(⟨300, 4⟩ : ScratchSpan)], ¬∃ c, x.left ≤ c ∧ c < x.left + x.width ∧ e.left ≤ c ∧ c < e.left + e.width)
      ∧ scratchSpansOf [0x0004012C#32, 0x00100FF0#32] = some [⟨300, 4⟩, ⟨4080, 16⟩]
      ∧ (∀ x ∈ [(⟨300, 4⟩ : ScratchSpan), ⟨4080, 16⟩], ¬(x.width < 1 ∨ 16 < x.width ∨ 4096 < x.left + x.width))
      ∧ 300 + 4 ≤ 4080 ∧ scratchSpansOf [0x0011012C#32] = some [⟨300, 17⟩]
      ∧ meetsList [⟨300, 4⟩] ⟨0, 303, 1, .loaded, 0, 0, 0⟩ = true ∧ meetsList [⟨300, 4⟩] ⟨0, 304, 1, .loaded, 0, 0, 0⟩ = false := by
  refine ⟨by unfold scratchesInv; decide +kernel, ?_, by decide +kernel⟩
  intro e he
  simp only [scratchTable, List.mem_cons, List.not_mem_nil, or_false] at he
  rcases he with rfl | rfl
  · simp only [decide_eq_true_eq, List.mem_singleton, forall_eq]
    exact ⟨fun h => absurd h (by decide), fun h => absurd ⟨303, by decide⟩ h⟩
  · simp only [decide_eq_true_eq, List.mem_singleton, forall_eq]
    exact ⟨fun _ ⟨c, h⟩ => by omega, fun _ => by decide⟩

/-- ShelvingCommandsAnswer: rows 15 and 16, classes 5 and 6, the ends of the ranges of a row and of an entry. -/
theorem witness_shelving :
    (15#32 : Word).toNat = (15 : Fin 16).val ∧ 16 ≤ (16#32 : Word).toNat ∧ (5#32 : Word).toNat = (4 : Fin 5).val + 1
      ∧ 6 ≤ (6#32 : Word).toNat ∧ (1 ≤ (12#32 : Word).toNat ∧ (12#32 : Word).toNat ≤ 12) ∧ ¬(13#32 : Word).toNat ≤ 12
      ∧ (240#32 : Word).toNat ≤ 240 ∧ ¬(241#32 : Word).toNat ≤ 240 ∧ (15#32 : Word).toNat < 16 ∧ ¬(16#32 : Word).toNat < 16 := by
  decide

/-- An accession of 24 bytes whose first is the letter A. -/
def openArgs : ReelOpenArgs := ⟨1#32, 0x41#8 :: List.replicate 23 0#8, 1#32, 0#32, 1#32, 4#32, 0#32, 0#32, 9#32⟩

/-- A part that is ready for a reel: a plan, a format, Grade Set 1 READY. -/
def configured : State :=
  { planned with
    formats := planned.formats.set 0 (some format4),
    grading :=
      { planned.grading with sets := planned.grading.sets.set 1 { GradeSet.cleared with state := .ready } } }

/-- The same part with a Pace Table and a requested level. -/
def paced : State :=
  { configured with
    pace := { Pace.powerOn with table := #v[some ⟨9, 99⟩, none, none, none, none, none, none], requested := 1 } }

/-- R52: counters that still run after an abort keep the P and Q they hold when PACE_TABLE_SET replaces the table; an underflow with the
effective level at 0 stops them, and one with level 1 standing loads that level's P and Q. -/
theorem test_counters_hold :
    let held : State := { paced with pace := { paced.pace with counters := some ⟨2, 4, 49⟩ } }
    let t := (paceTableOwner (Vector.replicate 7 none) 80 50 held).2
    t.pace.table[(0 : Fin 7)] = none ∧ t.pace.counters = some ⟨2, 4, 49⟩ ∧ (underflow t.pace).counters = none
      ∧ (underflow { held.pace with effective := 1 }).counters = some ⟨1, 9, 99⟩ := by decide +kernel

/-- ReelOpenAnswers: a readable request that fits, with a configured part, an unconfigured one and an open reel; an effective level that
stays 0, and one that rises from 0 with the counters STOPPED and RUNNING. -/
theorem witness_open :
    (openReel someReel format4 small configured).pace.effective = 0 ∧ (openReel someReel format4 small paced).pace.effective = 1
      ∧ paced.pace.effective = 0 ∧ paced.pace.counters = none
      ∧ (openReel someReel format4 small { paced with pace := { paced.pace with counters := some ⟨2, 4, 49⟩ } }).pace.counters = some ⟨2, 4, 49⟩ ∧
    reelRequestOf openArgs = some ⟨1, [0x41#8], 1, 0, 1, none, none, some 9⟩
      ∧ (∀ b ∈ [(0x41#8 : Byte)], 0x20 ≤ b.toNat ∧ b.toNat ≤ 0x7E) ∧ configured.reel.state = .noReel ∧ configured.contexts = []
      ∧ configured.frameMemory.plan = some small ∧ configured.formats[(0 : Fin 8)] = some format4
      ∧ configured.grading.sets[(1 : Fin 4)].state = .ready ∧ State.reset.frameMemory.plan = none
      ∧ running.reel.state ≠ .noReel ∧ readyForCommand configured 0 := by
  unfold readyForCommand
  decide +kernel

/-- ReelCloseStarts, answersWith, refusedWith: an interpreter ready for a command while slot 0 is FILLED, a reel OPEN with a context and
one without. -/
theorem witness_close :
    readyForCommand running 1 ∧ running.reel.state = .opened ∧ running.contexts.getLast? = some (context 3)
      ∧ ({ running with contexts := [] } : State).contexts = [] ∧ State.reset.reel.state ≠ .opened
      ∧ readyForCommand State.reset 0 := by
  unfold readyForCommand
  decide +kernel

/-- ReelAbortCarriedOut: no close in flight and one in flight, with no command behind it, with one, and with every slot filled; no
context, a head whose FRAME_TAIL is in transmission, an opened head; a full Ticket Queue. -/
theorem witness_abort :
    running.reel.state ≠ .noReel ∧ running.reel.identity = some someReel ∧ running.interpreter.queue = []
      ∧ running.interpreter.inFlight = none ∧ closing.interpreter.queue = ⟨0x23#16, 6#16, .reelClose⟩ :: []
      ∧ closing.interpreter.inFlight = some 1 ∧ closing.contexts = [] ∧ running.contexts = context 3 :: []
      ∧ freeSlot (replyImmediate ⟨0x24#16, 0#16, .ok, []⟩
          { Interpreter.powerOn with ordinary := Vector.replicate 8 (.filled ⟨4#16, 0#16, .ok, []⟩) }) = none
      ∧ ([⟨0x23#16, 6#16, .reelClose⟩, ⟨codeOf (.paceRequest 0#32), 7#16, .paceRequest 0#32⟩] : List QueuedCommand) =
          [⟨0x23#16, 6#16, .reelClose⟩, ⟨4#16, 7#16, .paceRequest 0#32⟩]
      ∧ tailInTransmission { running.delivery with queue := [.tail (context 3)], transmission := some ⟨.framePacket, [], false⟩ } =
          some 3
      ∧ tailInTransmission running.delivery ≠ some 3 ∧ 4 ≤ fourTickets.length := by decide +kernel

/-- SoftResetCarriedOut: NO_REEL; a reel open with no command in flight, and one that closes with the close in flight. -/
theorem witness_soft_reset :
    State.reset.reel.state = .noReel ∧ running.reel.state ≠ .noReel ∧ running.interpreter.inFlight = none
      ∧ closing.reel.state ≠ .noReel ∧ closing.reel.identity = some someReel
      ∧ closing.interpreter.queue = ⟨0x23#16, 6#16, .reelClose⟩ :: [] ∧ closing.interpreter.inFlight = some 1 := by decide +kernel

/-- CommandArrivals: a ready interpreter; a queue of 7 and one of 8 commands, a FREE slot and none, argument words that cannot belong, argument bytes of a
wrong length. -/
theorem witness_arrivals :
    (List.replicate 7 (⟨4#16, 0#16, .paceRequest 0#32⟩ : QueuedCommand)).length < 8
      ∧ 8 ≤ (List.replicate 8 (⟨4#16, 0#16, .paceRequest 0#32⟩ : QueuedCommand)).length
      ∧ closing.interpreter.queue ≠ [] ∧ freeSlot State.reset.interpreter = some 0 ∧ State.reset.interpreter.queue = []
      ∧ State.reset.interpreter.inFlight = none ∧ (4#16 : Half) ≠ 0x24#16 ∧ (4#16 : Half) ≠ 0x3F#16
      ∧ freeSlot { State.reset.interpreter with ordinary := Vector.replicate 8 .claimed } = none
      ∧ 2 ≤ (2#32 : Word).toNat ∧ (0xC0000000#32 : Word).getLsbD 31 = true ∧ (0xC0000000#32 : Word).getLsbD 30 = true
      ∧ 32767 < (32768#32 : Word).toInt ∧ 2 ^ 24 ≤ (0x01000000#32 : Word).toNat ∧ 8 ≤ (8#32 : Word).toNat
      ∧ [0x41#8, 0x42#8].getD 1 0#8 ≠ 0#8 ∧ [0#8, 0#8, 0#8].length ≠ 4 ∧ (List.replicate 16 0#8 : List Byte).length ≤ 16
      ∧ ([1#8, 0#8, 0#8, 0#8] : List Byte).length ≠ 4 + 4 * (wordAt [1#8, 0#8, 0#8, 0#8] 0).toNat := by decide +kernel

/-- StatusQueryAnswers, NoticesAnswer: selectors 0, 9 and 10; a RAISED class with occurrences in hand; class numbers 0, 10, 11 and 255. -/
theorem witness_queries :
    10 ≤ (10#32 : Word).toNat ∧ readyForCommand State.reset 0 ∧ 11 ≤ (11#32 : Word).toNat ∧ (255#32 : Word) = 255#32
      ∧ word (classNumber .clamp) = 10#32
      ∧ noticeOf (setNotice State.reset.notices .clamp ⟨true, 2, .raised⟩) .clamp = ⟨true, 2, .raised⟩ := by
  unfold readyForCommand
  decide +kernel

/-- SamplesReachTracker: a level equal to the sample, one that differs, and UNDEFINED; a LOCKED Tracker with a window, an edge at each
end of its intervals, the closing position, the coast limit; a Tracker in SEARCH and one in IDLE. -/
theorem witness_samples :
    Level.high = levelOf true ∧ Level.low ≠ levelOf true ∧ Level.undefined ≠ levelOf false
      ∧ spliced.tracker.window = some ⟨1000000, 3010, 160⟩ ∧ spliced.tracker.mode = .locked
      ∧ 1002849 + 160 < 1000000 + 3010 ∧ 1000000 + 3010 ≤ 1002850 + 160 ∧ 1003170 ≤ 1000000 + 3010 + 160
      ∧ 1000000 + 3010 + 160 + 2 ≤ 1003172 ∧ spliced.tracker.synthRun < 3 ∧ running.tracker.mode = .search
      ∧ running.tracker.fields = some fields4 ∧ State.reset.tracker.mode = .idle := by decide +kernel

/-- PerforationResolves: LOCKED and COASTING with a window and fewer than 17 pitches; a SUSPECT perforation of either sign and none; a
deviation at the threshold and one below it. -/
theorem witness_resolution :
    spliced.tracker.mode = .locked ∧ spliced.tracker.window = some ⟨1000000, 3010, 160⟩ ∧ spliced.tracker.history.length ≤ 16
      ∧ (takeEdge ⟨.rising, 3010, 1, 160, 48, 3, 6400, 2⟩ 1003100 spliced).tracker.suspect = some ⟨1003100, true⟩
      ∧ 48 ≤ (-48 : Int).natAbs ∧ ¬48 ≤ (47 : Int).natAbs ∧ spliced.tracker.suspect = none
      ∧ ({ spliced with tracker := { spliced.tracker with mode := .coasting, acceptRun := 1 } } : State).tracker.mode = .coasting := by
  decide +kernel

/-- LockGainedAndLost: two candidates and a third at the ends of the tolerance; a first lock, and a re-lock whose third candidate is a
top; a pending top and none. -/
theorem witness_lock :
    pitchOf fields4 65536 = 12464 ∧ (12464 + 400 - 0 ≤ 12464 + 400 ∧ 12464 ≤ 12464 + 400 - 0 + 400) ∧ 1 ≤ fields4.k
      ∧ running.tracker.qTop = none ∧ pitchesFrom 12464 ⟨0, 7⟩ (4 * 12464 - 6232) = 4
      ∧ pitchesFrom 12464 ⟨0, 7⟩ (4 * 12464 - 6233) = 3
      ∧ spliced.tracker.pendingTop = some ⟨1000000, .accepted, ⟨62500, 0, 0, 0⟩⟩ ∧ running.tracker.pendingTop = none := by
  decide +kernel

/-- ScratchTableUpdated: runs of 16 and 17 columns at the threshold; an entry two columns beside a run and one three beside; entries at
the ends of their counts; a run that meets no entry, a LOADED one, one LEARNED one and two; a table of 32 entries. -/
theorem witness_scratch_table :
    frameRuns 3 (List.replicate 16 3 ++ [2] ++ List.replicate 17 3) = [⟨0, 16⟩]
      ∧ runMatches 256 ⟨10, 2⟩ ⟨0, 14, 1, .loaded, 0, 0, 0⟩ = true ∧ runMatches 256 ⟨10, 2⟩ ⟨0, 15, 1, .loaded, 0, 0, 0⟩ = false
      ∧ updateEntry ⟨0, 14, 1, .learned .tracked 2, 3, 7, 9⟩ false = none
      ∧ (moveEntry 0 ⟨13, 3⟩ [⟨0, 14, 1, .learned .tracked 2, 3, 0, 9⟩, ⟨1, 15, 2, .learned .candidate 4, 1, 0, 0⟩]) =
          [⟨0, 13, 4, .learned .tracked 2, 3, 0, 9⟩]
      ∧ (moveEntry 0 ⟨13, 3⟩ [⟨0, 14, 1, .learned .tracked 2, 3, 0, 9⟩, ⟨1, 15, 2, .loaded, 0, 0, 0⟩]) = [⟨1, 15, 2, .loaded, 0, 0, 0⟩]
      ∧ 32 ≤ (List.replicate 32 (⟨0, 14, 1, .loaded, 0, 0, 0⟩ : ScratchEntry)).length := by decide +kernel

/-- A frame job at output line `j` that needs the given lines. -/
def job (j : Nat) (needed : List NeededLine) : FrameJob := ⟨3, 160, 65536, j, [(0, 0), (1, 0)], needed, none⟩

/-- An engine that has the given state and two output lines to a frame of two pixels. -/
def conforming (m : ConformanceMode) : State :=
  { running with
    conformance :=
      { mode := m, window := [⟨3, [grey 1#16, grey 2#16]⟩], held := .initial, copy := some ⟨⟨0, 0, 2, 2⟩, 2, 1024⟩,
        readRequest := none },
    repair := { Repair.powerOn with copy := some ⟨⟨false, 0, 0, 0, 16, 75⟩, 2, 2⟩ } }

/-- FrameIsCut: a pending top with a tally of no received line and one of 14; 31 and 32 contexts; a Conformance Engine that is IDLE with a
copy and with none, the oldest unfinished context before the one cut, and an engine at work. -/
theorem witness_cut :
    ({ running.tracker with pendingTop := some ⟨160, .accepted, ⟨10, 0, 0, 0⟩⟩ } : Tracker).pendingTop =
        some ⟨160, .accepted, ⟨10, 0, 0, 0⟩⟩
      ∧ (⟨10, 0, 0, 0⟩ : Tally).received = 0 ∧ (⟨10, 16, 14, 89049⟩ : Tally).received ≠ 0
      ∧ (List.replicate 31 (context 0)).length < 32 ∧ 32 ≤ (List.replicate 32 (context 0)).length
      ∧ (conforming .idle).conformance.mode = .idle
      ∧ (conforming .idle).conformance.copy = some ⟨⟨0, 0, 2, 2⟩, 2, 1024⟩ ∧ running.conformance.mode = .idle
      ∧ running.conformance.copy = none
      ∧ (conforming .idle).contexts ++ [context 4] = [] ++ context 3 :: [context 4] ∧ (context 3).finished = false
      ∧ (context 3).aborted = false ∧ (conforming (.gathering (job 0 []))).conformance.mode ≠ .idle := by decide +kernel

/-- R37: the worked case of section 3.7: n = 14, reference edge 6400, sum 89049 give H = -39; with no received line H is the last one. -/
theorem test_weave_worked_case :
    weaveOf 6400 ⟨10, 16, 14, 89049⟩ = some (-39)
      ∧ pendingWeave { running.tracker with lastH := 5 } ⟨160, .accepted, ⟨10, 16, 0, 0⟩⟩ = 5 := by decide +kernel

/-- OutputPixelMapped, PixelGraded: a line of the width, with and without a second line; a set with a matrix; weight 255. -/
theorem witness_pixels :
    [grey 1#16, grey 2#16].length = small.wIn ∧ (255 : Nat) < 256 ∧ (0 : Nat) < 256
      ∧ ({ GradeSet.cleared with matrix := some zeroMatrix } : GradeSet).matrix = some zeroMatrix := by decide +kernel

/-- A line with a defect at column 1. -/
def dusty : RepairView :=
  ⟨[grey 10#16, grey 0#16, grey 30#16], [false, true, false], [],
    some [⟨⟨10#16, 10#16, 10#16⟩, false⟩, ⟨⟨20#16, 20#16, 20#16⟩, false⟩, ⟨⟨30#16, 30#16, 30#16⟩, false⟩]⟩

/-- PixelRepaired: a sound pixel; a defective one that is copied; without a reference, blended, copied from one side, and left. -/
theorem witness_repair :
    dusty.defective.getD 0 true = false ∧ dusty.defective.getD 1 true = true
      ∧ (repairPixel ⟨true, 0, 0, 0, 16, 75⟩ dusty 1).2 = .temporal
      ∧ (repairPixel ⟨true, 0, 0, 0, 16, 75⟩ { dusty with reference := none } 1) = (⟨⟨20#16, 20#16, 20#16⟩, false⟩, .spatial)
      ∧ (repairPixel ⟨true, 0, 0, 0, 16, 75⟩ { dusty with reference := none, defective := [true, true, false] } 1).1.rgb.r = 30#16
      ∧ (repairPixel ⟨true, 0, 0, 0, 16, 75⟩ { dusty with reference := none, defective := [true, true, true] } 1).2 =
          .unrepaired := by decide +kernel

/-- SettledLineIsBuilt, ReadsPresentedAndCompleted: a settled line with one line read, one with both UNAVAILABLE, and a read awaited. -/
theorem witness_gathering :
    (conforming (.gathering (job 0 [⟨3, .read⟩]))).conformance.mode = .gathering (job 0 [⟨3, .read⟩])
      ∧ (∀ n ∈ (job 0 [⟨3, .unavailable⟩, ⟨4, .unavailable⟩]).needed,
          n.verdict = .read ∨ n.verdict = .kept ∨ n.verdict = .unavailable)
      ∧ (inFlight (.conformanceRead 3 0 2 false) (conforming (.gathering (job 0 [⟨3, .available⟩])))).conformance.mode =
          .gathering (job 0 [⟨3, .available⟩]) := by decide +kernel

/-- RepairTakesLine: the first, a middle and the last line offered to a WAITING engine, its frame's context in the queue. -/
theorem witness_offering :
    (conforming (.offering (job 1 []) ⟨3, 1, [grey 1#16, grey 2#16]⟩)).repair.mode = .waiting
      ∧ (conforming (.offering (job 0 []) ⟨3, 0, []⟩)).conformance.mode = .offering (job 0 []) ⟨3, 0, []⟩
      ∧ contextOf (conforming .idle) 3 = some (context 3) ∧ (job 0 []).j + 1 < 2 ∧ 2 ≤ (job 1 []).j + 1
      ∧ (conforming .idle).repair.copy = some ⟨⟨false, 0, 0, 0, 16, 75⟩, 2, 2⟩ := by decide +kernel

/-- R93: with threshold 128 and clear level 512 an IR sample of 255 is defective and one of 256 is not; a masked column is defective in
either IR mode, and nothing else is in IR mode OFF. -/
theorem test_ir_defect_boundary :
    defects ⟨true, 128, 512, 0, 16, 75⟩ [1] [grey 255#16, grey 256#16, grey 256#16] = [true, true, false]
      ∧ defects ⟨false, 128, 512, 0, 16, 75⟩ [1] [grey 255#16, grey 256#16, grey 256#16] = [false, true, false] := by decide +kernel

/-- A repaired line in hand. -/
def repairedLine (j : Nat) (taken written : Bool) : RepairedHand :=
  ⟨3, j, [⟨⟨1#16, 2#16, 3#16⟩, false⟩, ⟨⟨4#16, 5#16, 6#16⟩, false⟩], false, taken, written⟩

/-- ReadsPresentedAndCompleted, ReferenceWriteCompletes: an engine that fetches, and one that passes a line whose write is in flight. -/
theorem witness_reference :
    ({ conforming .idle with
        repair := { (conforming .idle).repair with mode := .fetching ⟨⟨3, 1, [grey 1#16, grey 2#16]⟩, false⟩ } } : State).repair.copy =
        some ⟨⟨false, 0, 0, 0, 16, 75⟩, 2, 2⟩
      ∧ (repairedLine 1 true false).taken = true ∧ 2 ≤ (repairedLine 1 true false).j + 1 ∧ (repairedLine 0 true false).j + 1 < 2
      ∧ (repairedLine 0 false false).taken = false := by decide +kernel

/-- GradingFrameStarts: no cue; a FRAME cue due at its trigger frame, applied, missed; a SPLICE cue at a splice. -/
theorem witness_cue_candidates :
    ([⟨3, 1, 0⟩, ⟨4, 2, 5⟩] : List FrameCue).filter (fun x => x.trigger ≤ (context 3).frame) = [⟨3, 1, 0⟩]
      ∧ configured.grading.sets[(1 : Fin 4)].state = .ready ∧ configured.grading.sets[(0 : Fin 4)].state = .empty
      ∧ ({ context 3 with splice := true } : FrameContext).splice = true := by decide +kernel

/-- GradingTakesLine: a line at 0 and at the last line, offered to a WAITING engine with a current set. -/
theorem witness_grading :
    running.grading.mode = .waiting ∧ running.grading.raster = some (2, 2) ∧ running.grading.current = some 0
      ∧ (repairedLine 1 false true).taken = false ∧ 0 < (repairedLine 1 false true).j ∧ (repairedLine 0 false true).j = 0
      ∧ (gradingFrameStart (context 3) running).grading.current = some 0 ∧ contextOf running 3 = some (context 3) := by decide +kernel

/-- PacketPlaced: seven and eight packets in the queue, a dissolve one frame before its end and two frames before it. -/
theorem witness_placing :
    (List.replicate 7 (FramePacket.head (context 3))).length < 8 ∧ 8 ≤ (List.replicate 8 (FramePacket.head (context 3))).length
      ∧ (⟨1, 4, 3⟩ : Dissolve).k + 1 = (⟨1, 4, 3⟩ : Dissolve).d ∧ (⟨1, 4, 2⟩ : Dissolve).k + 1 ≠ (⟨1, 4, 2⟩ : Dissolve).d := by
  decide

/-- PacketsCarryTheirCrc: means and an output line at the ends of their ranges, a reply of 16383 data words, a NOTICE of 65535, and the
ticket of spec/ 9.9. -/
theorem witness_payloads :
    (65535 : Nat) < 2 ^ 16 ∧ 4 * (List.replicate 16383 (0#32 : Word)).length < 2 ^ 16 ∧ (workedTicket.reelNumber < 256
      ∧ workedTicket.format < 8 ∧ workedTicket.cls < 8 ∧ workedTicket.previousClass = some 2 ∧ workedTicket.zone < 256
      ∧ workedTicket.interval < 256 ∧ workedTicket.matchedRows.Nodup ∧ (∀ r ∈ workedTicket.matchedRows, r < 16)
      ∧ workedTicket.accession.length ≤ 24 ∧ workedTicket.metrics.length = 12) :=
  ⟨by decide, by rw [List.length_replicate]; decide, by decide⟩

/-- DeliveryChooses: no credit; a reply, a PENDING notice, a ticket and a frame packet waiting. -/
theorem witness_delivery :
    running.delivery.pool = 0 ∧ running.delivery.transmission = none ∧ running.interpreter.fillOrder = .ordinary 0 :: []
      ∧ running.interpreter.ordinary[(0 : Fin 8)] = .filled ⟨0x23#16, 5#16, .badState, []⟩
      ∧ (noticeOf (raise .lockLost State.reset).notices .lockLost).latch = .pending 1
      ∧ State.reset.interpreter.fillOrder = [] ∧ (noticeOf State.reset.notices .clamp).latch = .armed := by decide +kernel

/-- Two commands that wait behind the close: PACE_REQUEST and STATUS_QUERY with COUNTERS. -/
def behindClose : List QueuedCommand := [⟨4#16, 7#16, .paceRequest 0#32⟩, ⟨0x30#16, 8#16, .statusQuery 9#32⟩]

/-- R152, R153: at the completion of a close the two commands behind it start in their order, the second with an empty queue behind it. -/
theorem test_close_starts_queue :
    let s : State :=
      { closing with interpreter := { closing.interpreter with queue := closing.interpreter.queue ++ behindClose } }
    (match exec .classification s with
      | .next t => (t.interpreter.queue.length, t.interpreter.inFlight, t.interpreter.fillOrder.drop closing.interpreter.fillOrder.length)
      | _ => (9, none, [])) = (0, none, [.ordinary 1, .ordinary 2, .ordinary 3]) := by decide +kernel

/-- R159: a COUNTERS query counts itself and the two commands behind it, and the mark of a command in flight is 1. -/
theorem test_counters_queue :
    (match (headStarted 0 ⟨0x30#16, 8#16, .statusQuery 9#32⟩ behindClose State.reset).interpreter.ordinary[(0 : Fin 8)] with
      | .filled r => (r.data.drop 20).take 2
      | _ => []) = [3#32, 1#32] := by decide +kernel

/-- TransmissionCompletes: a packet in transmission of each source, one command and two waiting behind a freed slot, a close in TICKET_WAIT
with commands behind it. -/
theorem witness_transmission :
    (⟨.reply, [], false⟩ : Transmission).detached = false ∧ (⟨.framePacket, [], true⟩ : Transmission).detached = true
      ∧ ({ closing with reel := { closing.reel with state := .ticketWait } } : State).reel.state = .ticketWait
      ∧ closing.interpreter.queue = [⟨0x23#16, 6#16, .reelClose⟩] ∧ closing.interpreter.inFlight = some 1
      ∧ codeOf (.paceRequest 0#32) = 4#16 ∧ running.contexts = context 3 :: [] ∧ (context 3).aborted = false
      ∧ closing.interpreter.queue ++ behindClose = ⟨0x23#16, 6#16, .reelClose⟩ :: behindClose ∧ behindClose ≠ []
      ∧ running.grading.raster = some (2, 2) := by decide +kernel

/-- ReelClassified: a close that is ready, one that is not, no matched row and one, a full Ticket Queue. -/
theorem witness_classification :
    closing.reel.state = .closing ∧ closing.intake.mode = .closed ∧ closing.contexts = [] ∧ closing.repair.mode = .waiting
      ∧ running.reel.state ≠ .closing ∧ closing.reel.identity = some someReel ∧ closing.reel.tickets.length < 4
      ∧ 4 ≤ fourTickets.length ∧ matchedRows (metricsOf ReelRecord.zero) closing.reel.shelving = []
      ∧ rowHolds (metricsOf ReelRecord.zero) ⟨10, .atMost, 0, 5⟩ = true := by decide +kernel

end Sys2Proof.Tests
end

section
/-! SUPPORT. The effective level (R51): what it is formed from, which operations leave that alone, and that every step forms it anew
where its inputs change. -/

namespace Sys2Proof.Machine

/-! ## The level that R51 forms -/

theorem highestSet_le (p : Pace) (n : Nat) : highestSet p n ≤ n := by
  induction n with
  | zero => exact Nat.le_refl 0
  | succ n ih =>
    unfold highestSet
    split
    · exact Nat.le_refl _
    · omega

theorem highestSet_zero_or_set (p : Pace) (n : Nat) : highestSet p n = 0 ∨ isSetLevel p (highestSet p n) = true := by
  induction n with
  | zero => exact .inl rfl
  | succ n ih =>
    unfold highestSet
    split
    · exact .inr ‹_›
    · exact ih

/-- No set level lies above the highest set one. -/
theorem isSetLevel_above_highestSet (p : Pace) {n l : Nat} (above : highestSet p n < l) (le : l ≤ n) :
    isSetLevel p l = false := by
  induction n with
  | zero => omega
  | succ n ih =>
    unfold highestSet at above
    split at above
    · omega
    · rename_i unset
      rcases Nat.lt_or_eq_of_le le with lt | rfl
      · exact ih above (by omega)
      · simpa using unset

theorem highestSet_congr {p q : Pace} (table : p.table = q.table) (n : Nat) : highestSet p n = highestSet q n := by
  induction n with
  | zero => rfl
  | succ n ih => simp [highestSet, isSetLevel, paceEntry, table, ih]

/-- The damage cap is in use exactly while a reel is OPEN and the Tracker COASTING or SEARCH. -/
theorem damageCapInUse_eq_some_iff (s : State) (c : Nat) :
    damageCapInUse s = some c ↔ ∃ f, s.reel.state = .opened ∧ (s.tracker.mode = .coasting ∨ s.tracker.mode = .search) ∧
      s.tracker.fields = some f ∧ f.damageCap = c := by
  unfold damageCapInUse
  cases s.reel.state <;> cases s.tracker.mode <;> cases s.tracker.fields <;> simp

/-- A level is at or below the least level exactly when it is within every cap of R51. -/
theorem le_leastLevel_iff (s : State) (l : Nat) :
    l ≤ leastLevel s ↔ l ≤ s.pace.requested ∧ l ≤ s.pace.ringCap ∧
      ∀ f, s.reel.state = .opened → s.tracker.mode = .coasting ∨ s.tracker.mode = .search → s.tracker.fields = some f →
        l ≤ f.damageCap := by
  have capped : (∀ f, s.reel.state = .opened → s.tracker.mode = .coasting ∨ s.tracker.mode = .search →
      s.tracker.fields = some f → l ≤ f.damageCap) ↔ ∀ c, damageCapInUse s = some c → l ≤ c := by
    simp only [damageCapInUse_eq_some_iff]
    grind
  rw [capped]
  unfold leastLevel
  cases damageCapInUse s <;> simp

theorem reelMoves_iff (s : State) : reelMoves s = true ↔ s.reel.state = .opened ∨ s.reel.state = .closing := by
  simp [reelMoves]

theorem formedLevel_of_stopped (s : State)
    (h : s.pace.faultLatch = true ∨ s.reel.state = .noReel ∨ s.reel.state = .ticketWait) : formedLevel s = 0 := by
  unfold formedLevel reelMoves
  rcases h with h | h | h <;> simp [h]

theorem formedLevel_of_moving {s : State} (latch : s.pace.faultLatch = false)
    (moves : s.reel.state = .opened ∨ s.reel.state = .closing) :
    formedLevel s = highestSet s.pace (min (leastLevel s) 7) := by
  simp [formedLevel, latch, (reelMoves_iff s).mpr moves]

theorem formedLevel_le_leastLevel (s : State) : formedLevel s ≤ leastLevel s := by
  unfold formedLevel
  split
  · exact Nat.zero_le _
  · exact (highestSet_le _ _).trans (Nat.min_le_left _ _)

theorem formedLevel_zero_or_set (s : State) : formedLevel s = 0 ∨ isSetLevel s.pace (formedLevel s) = true := by
  unfold formedLevel
  split
  · exact .inl rfl
  · exact highestSet_zero_or_set _ _

/-- A set level has an entry in the Pace Table, and loading the counters with it gives the P and Q of that entry (R47, R52). -/
theorem exists_entry_of_isSetLevel {p : Pace} {l : Nat} (set : isSetLevel p l = true) :
    ∃ x : PaceLevel, p.table[l - 1]? = some (some x) ∧ loadedWith p l = some ⟨l, x.p, x.q⟩ := by
  unfold isSetLevel paceEntry at set
  split at set
  · rename_i pos
    obtain ⟨x, hx⟩ := Option.isSome_iff_exists.mp set
    have entry : p.table[l - 1]? = some (some x) := Option.join_eq_some_iff.mp hx
    exact ⟨x, entry, by simp [loadedWith, entry, Nat.ne_of_gt pos]⟩
  · cases set

/-- What forming the effective level anew leaves (R51 to R53). -/
theorem formEffective_changes (s : State) :
    formEffective s =
      { s with
        pace :=
          if formedLevel s = 0 then { s.pace with effective := 0, spinUp := none }
          else if s.pace.effective = 0 ∧ s.pace.counters = none then
            { s.pace with
              effective := formedLevel s, counters := loadedWith s.pace (formedLevel s),
              spinUp := if s.pace.trun = true then none else some 0 }
          else { s.pace with effective := formedLevel s } } := by
  simp only [formEffective, withLevel, loadCounters_eq]

/-! ## The inputs of the level -/

/-- What R51 forms the effective level from. -/
def levelInputs (s : State) :=
  (s.pace.table, s.pace.requested, s.pace.ringCap, s.pace.faultLatch, s.reel.state, s.tracker.mode, s.tracker.fields)

/-- The effective level and what R51 forms it from. -/
def levelView (s : State) := (s.pace.effective, levelInputs s)

theorem formedLevel_congr {s t : State} (inputs : levelInputs s = levelInputs t) : formedLevel s = formedLevel t := by
  simp only [levelInputs, Prod.mk.injEq] at inputs
  obtain ⟨table, requested, ringCap, latch, reel, mode, fields⟩ := inputs
  have least : leastLevel s = leastLevel t := by simp only [leastLevel, damageCapInUse, requested, ringCap, reel, mode, fields]
  have moves : reelMoves s = reelMoves t := by unfold reelMoves; rw [reel]
  unfold formedLevel
  rw [latch, moves, least, highestSet_congr table]

/-- What leaves the effective level and its inputs alone keeps the level formed. -/
theorem levelInv_congr {s t : State} (h : levelInv t) (view : levelView s = levelView t) : levelInv s := by
  obtain ⟨effective, inputs⟩ := Prod.mk.inj view
  exact effective.trans (h.trans (formedLevel_congr inputs).symm)

theorem formEffective_levelInputs (s : State) : levelInputs (formEffective s) = levelInputs s := by
  rw [formEffective_changes]
  unfold levelInputs
  dsimp only
  split
  · rfl
  · split <;> rfl

/-- Forming the level leaves its inputs, so it would be formed again with the same outcome. -/
theorem levelInv_formEffective (s : State) : levelInv (formEffective s) :=
  (withLevel_effective _ _).trans (formedLevel_congr (formEffective_levelInputs s)).symm

theorem levelView_of_outsideRepair {s t : State} (h : outsideRepair s = outsideRepair t) : levelView s = levelView t := by
  simp only [outsideRepair, Prod.mk.injEq] at h
  obtain ⟨-, -, -, tracker, pace, -, -, reel, -⟩ := h
  simp only [levelView, levelInputs, tracker, pace, reel]

theorem levelView_of_outsideConformance {s t : State} (h : outsideConformance s = outsideConformance t) :
    levelView s = levelView t := levelView_of_outsideRepair (outsideRepair_of_conformance h)

/-! ## Tracking a line -/

theorem raiseIf_levelView (b : Bool) (c : NoticeClass) (s : State) : levelView (raiseIf b c s) = levelView s := by
  unfold raiseIf
  split <;> rfl

theorem loseFrames_levelView (n : Nat) (s : State) : levelView (loseFrames n s) = levelView s := by
  unfold loseFrames
  split <;> rfl

theorem cutFrame_levelView (m : CutState) (n : Nat) (s : State) : levelView (cutFrame m n s) = levelView s := by
  unfold cutFrame
  split
  · rfl
  · dsimp only
    split
    · rw [levelView_of_outsideConformance (takeIfIdle_outside _), raiseIf_levelView, raiseIf_levelView]
      rfl
    · rw [loseFrames_levelView]
      rfl

theorem rephase_levelView (f : TrackingFields) (p : Nat) (s : State) : levelView (rephase f p s) = levelView s := by
  unfold rephase
  split
  · dsimp only
    rw [loseFrames_levelView]
    rfl
  · rfl

theorem moveCountdown_levelView (f : TrackingFields) (p : Nat) (st : PerfStatus) (t : Tally) (s : State) :
    levelView (moveCountdown f p st t s) = levelView s := by
  unfold moveCountdown
  dsimp only
  split
  · rfl
  · split
    · rw [rephase_levelView]
      rfl
    · rfl

theorem updateSpan_levelView (f : TrackingFields) (st : PerfStatus) (s : State) :
    levelView (updateSpan f st s) = levelView s := by
  unfold updateSpan
  split
  · split <;> rfl
  · rfl

/-- Steps 5 to 8 of R24 move neither the Tracker's state nor a cap. -/
theorem finishResolution_levelView (f : TrackingFields) (p : Nat) (st : PerfStatus) (t : Tally) (s : State) :
    levelView (finishResolution f p st t s) = levelView s := by
  calc levelView (finishResolution f p st t s)
      = levelView (updateSpan f st (moveCountdown f p st t (cutFrame (cutStateOf s.tracker.mode) (cutterCount f.k st) s))) := rfl
    _ = levelView s := by rw [updateSpan_levelView, moveCountdown_levelView, cutFrame_levelView]

theorem levelInv_resolveCandidate (f : TrackingFields) (c : Candidate) (s : State) (h : levelInv s) :
    levelInv (resolveCandidate f c s) :=
  levelInv_congr h (finishResolution_levelView f c.position .accepted c.tally (countResolution (.accepted 0) s))

theorem applyVerdict_fields (v : SuspectVerdict) (x : Suspect) (t : Tracker) : (applyVerdict v x t).fields = t.fields := by
  cases v <;> rfl

theorem judgeSuspect_fields (n p : Nat) (r : Resolution) (t : Tracker) : (judgeSuspect n p r t).1.fields = t.fields := by
  unfold judgeSuspect
  split
  · exact applyVerdict_fields _ _ _
  · split
    · split <;> rfl
    · rfl

theorem updateShrink_fields (n p : Nat) (q : Option Nat) (b : Bool) (v : Option SuspectVerdict) (r : Resolution) (t : Tracker) :
    (updateShrink n p q b v r t).fields = t.fields := by
  unfold updateShrink
  split
  · split
    · split <;> rfl
    · split <;> rfl
  · rfl

theorem judgeAndMeasure_fields (f : TrackingFields) (p : Nat) (r : Resolution) (t : Tracker) :
    (judgeAndMeasure f p r t).fields = t.fields := by
  unfold judgeAndMeasure
  rw [updateShrink_fields, judgeSuspect_fields]

theorem judgeAndMeasure_levelView (f : TrackingFields) (p : Nat) (r : Resolution) (s : State) :
    levelView (setTracker (judgeAndMeasure f p r s.tracker) s) = levelView s := by
  have mode : (judgeAndMeasure f p r s.tracker).mode = s.tracker.mode := congrArg (·.1) (judgeAndMeasure_key f p r s.tracker)
  simp [levelView, levelInputs, mode, judgeAndMeasure_fields]

theorem levelInv_countTracker (g : TrackerCounters → TrackerCounters) (s : State) (h : levelInv s) :
    levelInv (countTracker g s) := levelInv_congr h rfl

theorem levelInv_raise (c : NoticeClass) (s : State) (h : levelInv s) : levelInv (raise c s) := levelInv_congr h rfl

/-- A change of the Tracker's state is reported to the Pace Generator at once (Table 3-2). -/
theorem levelInv_setMode (m : TrackerMode) (s : State) : levelInv (setMode m s) := levelInv_formEffective _

theorem levelInv_moveState (r : Resolution) (s : State) (h : levelInv s) : levelInv (moveState r s) := by
  unfold moveState
  dsimp only
  split
  · exact levelInv_setMode _ _
  · split
    · split
      · exact levelInv_setMode _ _
      · exact levelInv_congr h rfl
    · exact levelInv_congr h rfl

theorem levelInv_resolve (f : TrackingFields) (p : Nat) (r : Resolution) (s : State) (h : levelInv s) :
    levelInv (resolve f p r s) := by
  have moved : levelInv (moveState r (countResolution r s)) := levelInv_moveState r _ (levelInv_countTracker _ s h)
  exact levelInv_congr (levelInv_congr moved (judgeAndMeasure_levelView f p r _)) (finishResolution_levelView _ _ _ _ _)

theorem levelInv_acquireLock (f : TrackingFields) (a b c : Candidate) (s : State) : levelInv (acquireLock f a b c s) := by
  unfold acquireLock
  dsimp only
  exact levelInv_resolveCandidate _ _ _ (levelInv_resolveCandidate _ _ _ (levelInv_resolveCandidate _ _ _
    (levelInv_setMode .locked _)))

theorem levelInv_loseLock (b : Bool) (s : State) : levelInv (loseLock b s) :=
  levelInv_raise _ _ (levelInv_countTracker _ _ (levelInv_setMode .search _))

theorem levelInv_addCandidate (f : TrackingFields) (p : Nat) (s : State) (h : levelInv s) : levelInv (addCandidate f p s) := by
  unfold addCandidate
  dsimp only
  split
  · split
    · exact levelInv_acquireLock _ _ _ _ _
    · exact levelInv_congr h rfl
  · exact levelInv_congr h rfl

theorem levelInv_windowEdge (f : TrackingFields) (w : PerfWindow) (e : Nat) (s : State) (h : levelInv s) :
    levelInv (windowEdge f w e s) := by
  unfold windowEdge
  split
  · exact levelInv_congr h rfl
  · split
    · exact levelInv_resolve _ _ _ _ h
    · exact h

theorem levelInv_takeEdge (f : TrackingFields) (e : Nat) (s : State) (h : levelInv s) : levelInv (takeEdge f e s) := by
  unfold takeEdge
  split
  · exact levelInv_addCandidate _ _ _ h
  · exact h
  · split
    · exact levelInv_windowEdge _ _ _ _ h
    · exact h

theorem levelInv_closeWindow (f : TrackingFields) (p : Nat) (s : State) (h : levelInv s) : levelInv (closeWindow f p s) := by
  unfold closeWindow
  split
  · split
    · split
      · exact levelInv_resolve _ _ _ _ h
      · exact levelInv_loseLock _ _
    · exact h
  · exact h

theorem levelInv_examineSample (f : TrackingFields) (v : Option Bool) (p : Nat) (s : State) (h : levelInv s) :
    levelInv (examineSample f v p s) := by
  unfold examineSample
  split
  · exact levelInv_closeWindow _ _ _ (levelInv_congr h rfl)
  · dsimp only
    refine levelInv_closeWindow _ _ _ ?_
    split
    · split
      · exact levelInv_takeEdge _ _ _ (levelInv_congr h rfl)
      · exact levelInv_congr h rfl
    · exact levelInv_congr h rfl

theorem levelInv_examineFrom (f : TrackingFields) (l : Nat) (v : Option Half) (p n : Nat) (s : State) (h : levelInv s) :
    levelInv (examineFrom f l v p n s) := by
  induction n generalizing p s with
  | zero => exact h
  | succ n ih => exact ih _ _ (levelInv_examineSample _ _ _ _ h)

theorem levelInv_actOnBreak (s : State) (h : levelInv s) : levelInv (actOnBreak s) := by
  unfold actOnBreak
  split
  · exact levelInv_congr h rfl
  · exact h
  · exact levelInv_loseLock _ _

theorem countUnframed_levelView (r : LineRecord) (s : State) : levelView (countUnframed r s) = levelView s := by
  unfold countUnframed
  split <;> rfl

theorem takeEntry_levelView (e : EdgeEntry) (s : State) :
    levelView (setTracker (takeEntry e s.tracker) s) = levelView s := by
  simp [levelView, levelInputs, takeEntry]

theorem levelInv_trackLine (r : LineRecord) (s : State) (h : levelInv s) : levelInv (trackLine r s) := by
  unfold trackLine
  split
  · exact h
  · exact h
  · dsimp only
    have broken : levelInv (if r.atBreak = true then actOnBreak s else s) := by
      split
      · exact levelInv_actOnBreak s h
      · exact h
    have counted := levelInv_congr broken (countUnframed_levelView r _)
    exact levelInv_examineFrom _ _ _ _ _ _ (levelInv_congr counted (takeEntry_levelView _ _))

theorem stageLine_levelView (l : SourceLine) (s : State) : levelView (stageLine l s) = levelView s := by
  unfold stageLine
  split <;> rfl

theorem levelInv_forceStop (s : State) : levelInv (forceStop s) := levelInv_formEffective _

/-- The parts of a line packet's handling keep the level formed. -/
theorem levelInv_lineKeeps : LineKeeps levelInv where
  intake _ _ h := levelInv_congr h rfl
  stage l s h := levelInv_congr h (stageLine_levelView l s)
  track := levelInv_trackLine
  report s h := levelInv_congr h (levelView_of_outsideConformance (reportChange_outside s))
  error := levelInv_raise _
  stop s _ := levelInv_forceStop s

/-! ## Commands and reels -/

theorem levelInv_ownerEffect {s t : State} (h : levelInv s) (e : OwnerEffect s t) : levelInv t := by
  cases e with
  | pace => exact levelInv_formEffective _
  | opened => exact levelInv_formEffective _
  | same => exact h
  | formats => exact levelInv_congr h rfl
  | plan => exact levelInv_congr h rfl
  | timing => exact levelInv_congr h rfl
  | nudge => exact levelInv_congr h rfl
  | gradeSet => exact levelInv_congr h rfl
  | frameCue => exact levelInv_congr h rfl
  | spliceCue => exact levelInv_congr h rfl
  | clearCues => exact levelInv_congr h rfl
  | loadScratches => exact levelInv_congr h rfl
  | clearScratches => exact levelInv_congr h rfl
  | shelving => exact levelInv_congr h rfl
  | classes => exact levelInv_congr h rfl
  | notices => exact levelInv_congr h rfl

theorem levelInv_carryOut (c : Command) (s : State) (h : levelInv s) : levelInv (carryOut c s).2 :=
  carryOut_keeps (fun _ _ => levelInv_ownerEffect) (fun _ _ _ => levelInv_formEffective _) c s h

theorem levelInv_runQueue (s : State) (h : levelInv s) : levelInv (runQueue s) :=
  runQueue_keeps (fun _ _ h => levelInv_congr h rfl) levelInv_carryOut s h

theorem abortRecord_levelView (s : State) : levelView (abortRecord s).1 = levelView s := by
  unfold abortRecord
  dsimp only
  split
  · rfl
  · split <;> rfl

theorem levelInv_abortRecord_abortBlocks (s : State) : levelInv (abortRecord (abortBlocks s)).1 :=
  levelInv_congr (levelInv_forceStop _) (abortRecord_levelView _)

theorem levelInv_completeClose (t : Ticket) (s : State) : levelInv (completeClose t s) := levelInv_formEffective _

theorem levelInv_classify (x : ReelIdentity) (s : State) : levelInv (classify x s) := by
  unfold classify
  dsimp only
  split
  · exact levelInv_completeClose _ _
  · exact levelInv_formEffective _

theorem levelInv_departTicket (s : State) (h : levelInv s) : levelInv (departTicket s) := by
  unfold departTicket
  dsimp only
  split
  · exact levelInv_completeClose _ _
  · exact levelInv_congr h rfl

/-! ## The two links and the image path -/

theorem retireContext_levelView (s : State) : levelView (retireContext s) = levelView s := by
  unfold retireContext
  split
  · rfl
  · split <;> rfl

theorem completeFramePacket_levelView (s : State) : levelView (completeFramePacket s) = levelView s := by
  unfold completeFramePacket
  split
  · rfl
  · dsimp only
    split
    · exact retireContext_levelView _
    · rfl

theorem completeDetached_levelView (x : Source) (s : State) : levelView (completeDetached x s) = levelView s := by
  unfold completeDetached
  split <;> rfl

theorem levelInv_completeSource (x : Source) (s : State) (h : levelInv s) : levelInv (completeSource x s) := by
  cases x with
  | reply => exact levelInv_runQueue _ (levelInv_congr h rfl)
  | notice c => exact levelInv_congr h rfl
  | ticket => exact levelInv_runQueue _ (levelInv_departTicket s h)
  | framePacket => exact levelInv_congr h (completeFramePacket_levelView s)

theorem levelInv_completeTransmission (t : Transmission) (s : State) (h : levelInv s) : levelInv (completeTransmission t s) := by
  unfold completeTransmission
  dsimp only
  split
  · exact levelInv_congr (levelInv_congr h rfl) (completeDetached_levelView _ _)
  · exact levelInv_completeSource _ _ (levelInv_congr h rfl)

theorem markOpened_levelView (s : State) : levelView (markOpened s) = levelView s := by
  unfold markOpened
  split <;> rfl

theorem beginTransmission_levelView (x : Source) (run : List Byte) (s : State) :
    levelView (beginTransmission x run s) = levelView s := by
  have view : levelView (if x = .framePacket then markOpened s else s) = levelView s := by
    split
    · exact markOpened_levelView s
    · rfl
  exact view

theorem grantIntakeWrite_levelView (p : MemoryPlan) (s : State) : levelView (grantIntakeWrite p s) = levelView s := by
  unfold grantIntakeWrite
  split
  · rfl
  · split
    · rfl
    · unfold dropLine
      rw [levelView_of_outsideConformance (reportChange_outside _)]
      rfl

theorem grantConformanceRead_levelView (p : MemoryPlan) (s : State) :
    levelView (grantConformanceRead p s) = levelView s := by
  unfold grantConformanceRead
  split <;> rfl

theorem grantReferenceRead_levelView (p : MemoryPlan) (s : State) : levelView (grantReferenceRead p s) = levelView s := by
  unfold grantReferenceRead
  split <;> rfl

theorem grantReferenceWrite_levelView (p : MemoryPlan) (s : State) : levelView (grantReferenceWrite p s) = levelView s := by
  unfold grantReferenceWrite
  split <;> rfl

theorem grant_levelView (p : MemoryPlan) (g : Requester) (s : State) : levelView (grant p g s) = levelView s := by
  cases g with
  | intakeWrite => exact grantIntakeWrite_levelView p s
  | conformanceRead => exact grantConformanceRead_levelView p s
  | referenceRead => exact grantReferenceRead_levelView p s
  | referenceWrite => exact grantReferenceWrite_levelView p s

theorem completeIntakeWrite_levelView (line slot : Nat) (s : State) :
    levelView (completeIntakeWrite line slot s) = levelView s := by
  unfold completeIntakeWrite
  rw [levelView_of_outsideConformance (reportChange_outside _)]
  rfl

theorem lineRead_levelView (l : Nat) (px : List Pixel) (s : State) : levelView (lineRead l px s) = levelView s :=
  levelView_of_outsideConformance (lineRead_outside l px s)

theorem repairFetched_levelView (ref : List RefRecord) (s : State) : levelView (repairFetched ref s) = levelView s := by
  unfold repairFetched
  split
  · exact levelView_of_outsideRepair (repairLine_outside _ _ _ _)
  · rfl

theorem lineStored_levelView (s : State) : levelView (lineStored s) = levelView s := by
  unfold lineStored
  split
  · rw [levelView_of_outsideRepair (settleObligations_outside _)]
    rfl
  · rfl

theorem gradeInHand_levelView (raster : Nat × Nat) (current : Fin 4) (hand : RepairedHand) (s : State) :
    levelView (gradeInHand raster current hand s) = levelView s := by
  unfold gradeInHand
  dsimp only
  split <;> rfl

theorem startGradingAt_levelView (hand : RepairedHand) (s : State) : levelView (startGradingAt hand s) = levelView s := by
  unfold startGradingAt
  split
  · split
    · exact raiseIf_levelView _ _ _
    · rfl
  · rfl

theorem takeRepaired_levelView (raster : Nat × Nat) (hand : RepairedHand) (s : State) :
    levelView (takeRepaired raster hand s) = levelView s := by
  unfold takeRepaired
  dsimp only
  split
  · rw [levelView_of_outsideRepair (settleObligations_outside _), gradeInHand_levelView]
    exact startGradingAt_levelView hand s
  · exact startGradingAt_levelView hand s

theorem underflow_levelView (s : State) : levelView (setPace (underflow s.pace) s) = levelView s := by
  cases counters : s.pace.counters with
  | none =>
    rw [underflow_stopped _ counters]
    rfl
  | some l =>
    rw [underflow_running _ l counters]
    rfl

/-! ## Every step -/

/-- R51: each case of a step forms the effective level anew, or leaves it with all its inputs. -/
theorem levelInv_stepKeeps : StepKeeps levelInv where
  interpreter _ _ h := levelInv_congr h rfl
  stall _ _ h := levelInv_congr h rfl
  carried := levelInv_carryOut
  abort _ _ := levelInv_abortRecord_abortBlocks _
  abortSoft _ _ := levelInv_abortRecord_abortBlocks _
  soft _ _ := levelInv_formEffective _
  memoryReady _ h := levelInv_congr h rfl
  line := levelInv_lineKeeps.receiveLine
  malformed := levelInv_lineKeeps.malformed
  controlCrc := levelInv_lineKeeps.controlCrcFailure
  credit _ _ h := levelInv_congr h rfl
  choice x run s h _ := levelInv_congr h (beginTransmission_levelView x run s)
  transmitted t s h _ := levelInv_completeTransmission t s h
  classified x s _ _ _ := levelInv_runQueue _ (levelInv_classify x s)
  fault _ _ := levelInv_raise _ _ (levelInv_formEffective _)
  silence := levelInv_lineKeeps.silenceExpires
  noticeStall := levelInv_raise _
  ringCap _ _ _ _ := levelInv_formEffective _
  grant p g _ h _ _ _ := levelInv_congr (levelInv_congr h rfl) (grant_levelView p g _)
  intakeWritten line slot _ _ _ _ h _ :=
    ⟨levelInv_congr h rfl, fun _ => levelInv_congr (levelInv_congr h rfl) (completeIntakeWrite_levelView line slot _)⟩
  lineRead line _ _ _ _ h _ :=
    ⟨levelInv_congr h rfl, fun _ =>
      levelInv_congr (levelInv_congr h rfl) (lineRead_levelView line _ _)⟩
  referenceRead _ _ _ _ h _ :=
    ⟨levelInv_congr h rfl, fun _ => levelInv_congr (levelInv_congr h rfl) (repairFetched_levelView _ _)⟩
  referenceWritten _ _ _ _ h _ :=
    ⟨levelInv_congr h rfl, fun _ => levelInv_congr (levelInv_congr h rfl) (lineStored_levelView _)⟩
  repairTakes copy _ line s h _ _ := levelInv_congr h (levelView_of_outsideRepair (takeOffered_outside copy line s))
  gradingTakes raster hand s h _ _ := levelInv_congr h (takeRepaired_levelView raster hand s)
  placed _ _ _ _ _ h _ _ _ _ := levelInv_congr h rfl
  trunUp _ h := levelInv_congr h rfl
  trunDown _ h := levelInv_congr h rfl
  tick _ h := levelInv_congr h rfl
  markDue _ _ h := levelInv_congr h rfl
  tickSilence _ h := levelInv_congr h rfl
  powerOn _ _ _ _ := (formedLevel_of_stopped _ (.inr (.inl rfl))).symm
  underflow s h := levelInv_congr h (underflow_levelView s)

theorem levelInv_step {s t : State} (h : levelInv s) (e : step s = .next t) : levelInv t := by
  unfold step at e
  split at e
  · injection e with e
    exact e ▸ h
  · rename_i i rest _
    have front : levelInv { s with pending := rest } := levelInv_congr h rfl
    exact levelInv_stepKeeps.exec i _ t front e

/-- Settles O7: every step keeps the level formed (`levelInv_stepKeeps`), and the rest is what R51 forms (`le_leastLevel_iff`,
`highestSet`) and what forming it writes (`formEffective_changes`). -/
theorem effectiveLevelFormed : Obligations.EffectiveLevelFormed := by
  refine ⟨fun s t h e => levelInv_step h e, fun s h => ?_, fun s => ?_⟩
  · have formed : s.pace.effective = formedLevel s := h
    obtain ⟨requested, ringCap, damageCap⟩ := (le_leastLevel_iff s _).mp (formedLevel_le_leastLevel s)
    rw [formed]
    refine ⟨requested, ringCap, damageCap, formedLevel_of_stopped s, formedLevel_zero_or_set s, ?_⟩
    intro l latch moves above hRequested hRingCap hDamageCap le
    rw [formedLevel_of_moving latch moves] at above
    have least : l ≤ leastLevel s := (le_leastLevel_iff s l).mpr ⟨hRequested, hRingCap, hDamageCap⟩
    exact isSetLevel_above_highestSet s.pace above (Nat.le_min.mpr ⟨least, le⟩)
  · have level : (formEffective s).pace.effective = formedLevel s := by simp
    rw [level]
    refine ⟨levelInv_formEffective s, fun moving => ?_, formEffective_changes s⟩
    exact exists_entry_of_isSetLevel ((formedLevel_zero_or_set s).resolve_left moving)

end Sys2Proof.Machine
end

section
/-! O47: an output pixel is the blend of the blends of its four source samples. Blending keeps the sample range, so no
sample wraps around. -/

namespace Sys2Proof.Machine

/-! ## Blending -/

/-- R75, R76: a rounded blend of two samples lies in the sample range, since both weights together are the whole. -/
theorem blend_lt {total w : Nat} (pos : 0 < total) (le : w ≤ total) (a b : Half) :
    ((total - w) * a.toNat + w * b.toNat + total / 2) / total < 2 ^ 16 := by
  rw [Nat.div_lt_iff_lt_mul pos]
  have left : (total - w) * a.toNat ≤ (total - w) * 65535 := Nat.mul_le_mul_left _ (Nat.le_of_lt_succ a.isLt)
  have right : w * b.toNat ≤ w * 65535 := Nat.mul_le_mul_left _ (Nat.le_of_lt_succ b.isLt)
  omega

theorem mixSamples_toNat {total w : Nat} (pos : 0 < total) (le : w ≤ total) (a b : Half) :
    (mixSamples total w a b).toNat = ((total - w) * a.toNat + w * b.toNat + total / 2) / total := by
  rw [mixSamples, BitVec.toNat_ofNat, Nat.mod_eq_of_lt (blend_lt pos le a b)]

/-- R75: at weight 0 the first sample is left exactly as it is, whatever the second. -/
@[simp] theorem mixSamples_weight_zero (a b : Half) : mixSamples 256 0 a b = a := by
  apply BitVec.eq_of_toNat_eq
  rw [mixSamples_toNat (by decide) (by decide)]
  omega

/-- Pixels are blended in each channel separately. -/
theorem channel_mixPixels {ch : Pixel → Half} (mem : ch ∈ [Pixel.r, Pixel.g, Pixel.b, Pixel.ir]) (total w : Nat) (x y : Pixel) :
    ch (mixPixels total w x y) = mixSamples total w (ch x) (ch y) := by
  simp only [List.mem_cons, List.not_mem_nil, or_false] at mem
  obtain rfl | rfl | rfl | rfl := mem <;> rfl

/-! ## The two steps -/

theorem clampColumn_lt {wIn : Nat} (pos : 0 < wIn) (c : Int) : clampColumn wIn c < wIn := by
  unfold clampColumn
  omega

/-- R77: below 0 the first column, above `W_in - 1` the last one, else the column itself. -/
theorem clampColumn_eq {wIn : Nat} (pos : 0 < wIn) (c : Int) :
    clampColumn wIn c = if c < 0 then 0 else if (wIn : Int) - 1 < c then wIn - 1 else c.toNat := by
  unfold clampColumn
  split_ifs <;> omega

/-- R75: a column of the vertical intermediate, for fraction 0 too, where the second line is not looked at. -/
theorem channel_verticalIntermediate {ch : Pixel → Half} (mem : ch ∈ [Pixel.r, Pixel.g, Pixel.b, Pixel.ir])
    {wIn f c : Nat} {a b : List Pixel} (ha : a.length = wIn) (hb : f = 0 ∨ b.length = wIn) (hc : c < wIn) :
    ch ((verticalIntermediate f a b).getD c zeroPixel) =
      mixSamples 256 f (ch (a.getD c zeroPixel)) (ch (b.getD c zeroPixel)) := by
  by_cases fraction : f = 0
  · simp [verticalIntermediate, fraction]
  · have inA : c < a.length := ha ▸ hc
    have inB : c < b.length := hb.resolve_left fraction ▸ hc
    simp [verticalIntermediate, fraction, ← channel_mixPixels mem, inA, inB]

theorem horizontalLine_columnMap_length (wIn : Nat) (fields : ConformanceFields) (h : Int) (inter : List Pixel) :
    (horizontalLine wIn (columnMap fields h) inter).length = fields.wOut := by
  simp [horizontalLine, columnMap]

/-- R76: output pixel `i` is the blend of the intermediate's pixels at the clamped columns `X` and `X + 1`. -/
theorem horizontalLine_columnMap_getD (wIn : Nat) {fields : ConformanceFields} (h : Int) (inter : List Pixel) {i : Nat}
    (hi : i < fields.wOut) :
    (horizontalLine wIn (columnMap fields h) inter).getD i zeroPixel =
      mixPixels 16 (columnOf fields.u0 h i).2 (inter.getD (clampColumn wIn (columnOf fields.u0 h i).1) zeroPixel)
        (inter.getD (clampColumn wIn ((columnOf fields.u0 h i).1 + 1)) zeroPixel) := by
  simp [horizontalLine, columnMap, hi]

theorem columnOf_fraction_lt (u0 : Nat) (h : Int) (i : Nat) : (columnOf u0 h i).2 < 16 := by
  unfold columnOf
  dsimp only
  omega

/-- Settles O47: the horizontal step (`horizontalLine_columnMap_getD`) over the vertical one (`channel_verticalIntermediate`)
at the clamped columns (`clampColumn_eq`), neither blend leaving the sample range (`mixSamples_toNat`). -/
theorem outputPixelMapped : Obligations.OutputPixelMapped := by
  intro wIn f a b fields h i ch pos ha hf hb hi mem
  dsimp only
  refine ⟨horizontalLine_columnMap_length wIn fields h _, ?_⟩
  have column (c : Int) :
      (ch ((verticalIntermediate f a b).getD (clampColumn wIn c) zeroPixel)).toNat =
        ((256 - f) * (ch (a.getD (clampColumn wIn c) zeroPixel)).toNat
          + f * (ch (b.getD (clampColumn wIn c) zeroPixel)).toNat + 128) / 256 := by
    rw [channel_verticalIntermediate mem ha hb (clampColumn_lt pos c), mixSamples_toNat (by decide) hf.le]
  rw [horizontalLine_columnMap_getD wIn h _ hi, channel_mixPixels mem,
    mixSamples_toNat (by decide) (columnOf_fraction_lt fields.u0 h i).le, column, column]
  simp only [clampColumn_eq pos, columnOf]

end Sys2Proof.Machine
end

section
/-! O36: SCRATCH_LOAD checks its list against itself, the table and the room, in that order, and gives each scratch of an accepted
list the lowest slot free at its turn; SCRATCH_CLEAR removes the entries that its selector names. -/

namespace Sys2Proof.Machine

/-! ## Shared columns and the checks of a list -/

/-- R100: the comparison of the ends finds a shared column when neither range is empty. -/
theorem shareColumn_iff {l₁ w₁ l₂ w₂ : Nat} (pos₁ : 1 ≤ w₁) (pos₂ : 1 ≤ w₂) :
    shareColumn l₁ w₁ l₂ w₂ = true ↔ spansMeet l₁ w₁ l₂ w₂ := by
  simp only [shareColumn, Bool.and_eq_true, decide_eq_true_eq]
  constructor
  · rintro ⟨below, above⟩
    exact ⟨max l₁ l₂, by omega⟩
  · rintro ⟨c, shared⟩
    omega

/-- R107: two scratches of a list are compared by their ends, which is sharing a column once no width is 0. -/
theorem scratchListBad_iff (xs : List ScratchSpan) :
    scratchListBad xs = true ↔
      xs = [] ∨ 32 < xs.length ∨ (∃ x ∈ xs, x.width < 1 ∨ 16 < x.width ∨ 4096 < x.left + x.width)
        ∨ ¬xs.Pairwise (fun a b => ¬spansMeet a.left a.width b.left b.width) := by
  by_cases outside : ∃ x ∈ xs, x.width < 1 ∨ 16 < x.width ∨ 4096 < x.left + x.width
  · simp only [Nat.lt_one_iff] at outside
    simp [scratchListBad, outside, or_assoc]
  · have width : ∀ x ∈ xs, 1 ≤ x.width := fun x hx => by
      by_contra narrow
      exact outside ⟨x, hx, .inl (by omega)⟩
    have apart : xs.Pairwise (fun a b => shareColumn a.left a.width b.left b.width = false) ↔
        xs.Pairwise (fun a b => ¬spansMeet a.left a.width b.left b.width) :=
      List.Pairwise.iff_of_mem fun {a b} ha hb => by
        rw [← shareColumn_iff (width a ha) (width b hb), Bool.not_eq_true]
    simp [scratchListBad, apart, or_assoc]

theorem one_le_width_of_scratchListBad_false {xs : List ScratchSpan} (good : scratchListBad xs = false) :
    ∀ x ∈ xs, 1 ≤ x.width := by
  intro x hx
  by_contra narrow
  rw [(scratchListBad_iff xs).mpr (.inr (.inr (.inl ⟨x, hx, .inl (by omega)⟩)))] at good
  contradiction

/-- R107: a predicate that holds of the entries no scratch of the list meets keeps what SCRATCH_LOAD keeps. -/
theorem filter_eq_filter_not_meetsList {xs : List ScratchSpan} {table : List ScratchEntry} {stays : ScratchEntry → Bool}
    (listWidth : ∀ x ∈ xs, 1 ≤ x.width) (entryWidth : ∀ e ∈ table, 1 ≤ e.width)
    (apart : ∀ e ∈ table, stays e = true ↔ ∀ x ∈ xs, ¬spansMeet x.left x.width e.left e.width) :
    table.filter stays = table.filter (fun e => !meetsList xs e) := by
  refine List.filter_congr fun e he => ?_
  rw [Bool.eq_iff_iff, apart e he, Bool.not_eq_true', ← Bool.not_eq_true, meetsList_iff xs e listWidth (entryWidth e he)]
  simp only [not_exists, not_and]

/-! ## The slots given -/

/-- R100: `slot` is the lowest number that is not among those in use. -/
def isLowestFree (used : List Nat) (slot : Nat) : Prop := slot ∉ used ∧ ∀ m < slot, m ∈ used

theorem isLowestFree_congr {used used' : List Nat} (same : ∀ m, m ∈ used ↔ m ∈ used') (slot : Nat) :
    isLowestFree used slot ↔ isLowestFree used' slot := by
  simp [isLowestFree, same]

theorem freeScratchSlot_isLowestFree {t : List ScratchEntry} (room : t.length < 32) :
    isLowestFree (t.map (·.slot)) (freeScratchSlot t) := by
  obtain ⟨bound, free⟩ := freeScratchSlot_free t room
  refine ⟨fun used => ?_, fun m below => ?_⟩
  · obtain ⟨e, he, slot⟩ := List.mem_map.mp used
    exact free e he slot
  · unfold freeScratchSlot at bound below
    cases found : (List.range 32).find? (fun i => t.all (fun e => e.slot != i)) with
    | none => simp [found] at bound
    | some i =>
      rw [found, Option.getD_some] at below
      obtain ⟨-, -, first⟩ := List.find?_range_eq_some.mp found
      simpa using first m below

/-- R107: the LOADED entry that stands for a scratch of the list. -/
def loadedEntry (slot : Nat) (x : ScratchSpan) : ScratchEntry := ⟨slot, x.left, x.width, .loaded, 0, 0, 0⟩

@[simp] theorem loadedEntry_slot (slot : Nat) (x : ScratchSpan) : (loadedEntry slot x).slot = slot := rfl

theorem loadScratches_cons (x : ScratchSpan) (xs : List ScratchSpan) (t : List ScratchEntry) :
    loadScratches (x :: xs) t =
      ((loadScratches xs (sortEntries (loadedEntry (freeScratchSlot t) x :: t))).1,
        freeScratchSlot t :: (loadScratches xs (sortEntries (loadedEntry (freeScratchSlot t) x :: t))).2) := rfl

theorem loadScratches_slots_length (xs : List ScratchSpan) (t : List ScratchEntry) :
    (loadScratches xs t).2.length = xs.length := by
  induction xs generalizing t with
  | nil => rfl
  | cons x xs ih => rw [loadScratches_cons, List.length_cons, ih, List.length_cons]

/-- R107: the table grows by one LOADED entry for each scratch, in the slot given to it. -/
theorem loadScratches_perm (xs : List ScratchSpan) (t : List ScratchEntry) :
    (loadScratches xs t).1.Perm (t ++ List.zipWith loadedEntry (loadScratches xs t).2 xs) := by
  induction xs generalizing t with
  | nil => simp [loadScratches]
  | cons x xs ih =>
    rw [loadScratches_cons, List.zipWith_cons_cons]
    exact (ih _).trans (((sortEntries_perm _).append_right _).trans List.perm_middle.symm)

/-- R107: each scratch gets the lowest slot that neither the table nor a scratch before it has. -/
theorem loadScratches_isLowestFree (xs : List ScratchSpan) (t : List ScratchEntry) (room : t.length + xs.length ≤ 32) (k : Nat)
    (h : k < (loadScratches xs t).2.length) :
    isLowestFree (t.map (·.slot) ++ (loadScratches xs t).2.take k) (loadScratches xs t).2[k] := by
  induction xs generalizing t k with
  | nil => simp [loadScratches] at h
  | cons x xs ih =>
    rw [List.length_cons] at room
    simp only [loadScratches_cons] at h ⊢
    cases k with
    | zero => simpa using freeScratchSlot_isLowestFree (t := t) (by omega)
    | succ k =>
      have grown := sortEntries_perm (loadedEntry (freeScratchSlot t) x :: t)
      have length := grown.length_eq
      rw [List.length_cons] at length
      refine (isLowestFree_congr (fun m => ?_) _).mp (ih _ (by omega) k (Nat.lt_of_succ_lt_succ h))
      rw [List.mem_append, (grown.map (·.slot)).mem_iff]
      simp [or_assoc, or_left_comm]

/-! ## SCRATCH_LOAD -/

/-- R107: the table of an accepted list, and the slots given to its scratches. -/
def scratchesLoaded (xs : List ScratchSpan) (s : State) : List ScratchEntry × List Nat :=
  loadScratches xs (s.repair.scratches.filter (fun e => !meetsList xs e))

section
variable {xs : List ScratchSpan} {s : State}

theorem scratchLoadOwner_of_bad (bad : scratchListBad xs = true) : scratchLoadOwner xs s = refuse .badArg s := by
  simp [scratchLoadOwner, bad]

theorem scratchLoadOwner_of_overlap (good : scratchListBad xs = false)
    (clash : ∃ e ∈ s.repair.scratches, isLearned e = false ∧ meetsList xs e = true) :
    scratchLoadOwner xs s = refuse .overlap s := by
  simp [scratchLoadOwner, good, clash]

theorem scratchLoadOwner_of_full (good : scratchListBad xs = false)
    (clear : ¬∃ e ∈ s.repair.scratches, isLearned e = false ∧ meetsList xs e = true)
    (full : 32 < (s.repair.scratches.filter (fun e => !meetsList xs e)).length + xs.length) :
    scratchLoadOwner xs s = refuse .tableFull s := by
  simp [scratchLoadOwner, good, clear, full]

theorem scratchLoadOwner_of_room (good : scratchListBad xs = false)
    (clear : ¬∃ e ∈ s.repair.scratches, isLearned e = false ∧ meetsList xs e = true)
    (room : (s.repair.scratches.filter (fun e => !meetsList xs e)).length + xs.length ≤ 32) :
    scratchLoadOwner xs s =
      (⟨.ok, word (scratchesLoaded xs s).2.length :: (scratchesLoaded xs s).2.map word⟩,
        setRepair { s.repair with scratches := (scratchesLoaded xs s).1 } s) := by
  simp [scratchLoadOwner, scratchesLoaded, good, clear, room]

end

theorem carryOut_scratchLoad {items : List Word} {xs : List ScratchSpan} (read : scratchSpansOf items = some xs) (s : State) :
    carryOut (.scratchLoad items) s = answered (scratchLoadOwner xs s) := by
  simp [carryOut, withOperand, read]

/-- R156: what the Repair Engine refuses, the row refuses. -/
theorem scratchLoad_refusedWith {items : List Word} {xs : List ScratchSpan} {s : State} {status : ReplyStatus}
    (read : scratchSpansOf items = some xs)
    (owner : ∀ x, scratchLoadOwner xs (setInterpreter x s) = refuse status (setInterpreter x s)) :
    refusedWith (.scratchLoad items) s status :=
  refusedWith_of nofun fun x => by rw [carryOut_scratchLoad read, owner]; rfl

/-- R156: what the Repair Engine accepts, the row answers OK. -/
theorem scratchLoad_answersWith {items : List Word} {xs : List ScratchSpan} {s : State}
    (read : scratchSpansOf items = some xs) (good : scratchListBad xs = false)
    (clear : ¬∃ e ∈ s.repair.scratches, isLearned e = false ∧ meetsList xs e = true)
    (room : (s.repair.scratches.filter (fun e => !meetsList xs e)).length + xs.length ≤ 32) :
    answersWith (.scratchLoad items) s .ok (word (scratchesLoaded xs s).2.length :: (scratchesLoaded xs s).2.map word)
      { s with repair := { s.repair with scratches := (scratchesLoaded xs s).1 } } :=
  answersWith_of nofun rfl fun x => by
    rw [carryOut_scratchLoad read, scratchLoadOwner_of_room (s := setInterpreter x s) good clear room]
    rfl

/-- R107: an entry that is not LEARNED is LOADED. -/
theorem isLearned_eq_false_iff (e : ScratchEntry) : isLearned e = false ↔ e.origin = .loaded := by
  unfold isLearned
  split <;> simp [*]

/-- R107: the check of the table finds a LOADED entry that shares a column with a scratch of the list. -/
theorem exists_loaded_meetsList_iff {xs : List ScratchSpan} {table : List ScratchEntry} (listWidth : ∀ x ∈ xs, 1 ≤ x.width)
    (entryWidth : ∀ e ∈ table, 1 ≤ e.width) :
    (∃ e ∈ table, isLearned e = false ∧ meetsList xs e = true) ↔
      ∃ e ∈ table, e.origin = .loaded ∧ ∃ x ∈ xs, spansMeet x.left x.width e.left e.width :=
  exists_congr fun e => and_congr_right fun he => by
    rw [isLearned_eq_false_iff, meetsList_iff xs e listWidth (entryWidth e he)]

/-! ## SCRATCH_CLEAR -/

@[simp] theorem selectedEntry_second : selectedEntry .second = fun e => !isLearned e := rfl

@[simp] theorem selectedEntry_all : selectedEntry .all = fun _ => true := rfl

theorem scratchClear_answersWith {w : Word} {which : Selection} (read : selectionOf w = some which) (s : State) :
    answersWith (.scratchClear w) s .ok [word (s.repair.scratches.filter (selectedEntry which)).length]
      { s with repair :=
          { s.repair with scratches := s.repair.scratches.filter (fun e => !selectedEntry which e) } } :=
  answersWith_of nofun rfl fun x => by simp only [carryOut, withOperand, read]; rfl

theorem scratchClear_refusedWith {w : Word} (unread : selectionOf w = none) (s : State) :
    refusedWith (.scratchClear w) s .badArg :=
  refusedWith_of nofun fun x => by simp only [carryOut, withOperand, unread]; rfl

theorem selectionOf_eq_none {w : Word} (above : 3 ≤ w.toNat) : selectionOf w = none := by
  have other : ∀ v : Word, v.toNat < 3 → w ≠ v := fun v below same => by
    subst same
    omega
  simp [selectionOf, other 0#32 (by decide), other 1#32 (by decide), other 2#32 (by decide)]

/-- Settles O36: the owner's four cases (`scratchLoadOwner_of_bad` to `scratchLoadOwner_of_room`) with its checks read as shared
columns, the slots of `loadScratches_isLowestFree`, and the selectors of SCRATCH_CLEAR. -/
theorem scratchCommandsAnswer : Obligations.ScratchCommandsAnswer := by
  refine ⟨fun s items xs stays read => ⟨fun bad => ?_, fun notBad ordered apart => ?_⟩, fun s => ⟨?_, ?_, ?_, ?_⟩⟩
  · exact scratchLoad_refusedWith read fun x => scratchLoadOwner_of_bad ((scratchListBad_iff xs).mpr bad)
  · have good : scratchListBad xs = false := Bool.eq_false_iff.mpr (mt (scratchListBad_iff xs).mp notBad)
    have listWidth := one_le_width_of_scratchListBad_false good
    have entryWidth : ∀ e ∈ s.repair.scratches, 1 ≤ e.width := fun e he => (ordered.2 e he).1
    have clash := exists_loaded_meetsList_iff listWidth entryWidth
    refine ⟨fun meets => scratchLoad_refusedWith read fun x => scratchLoadOwner_of_overlap good (clash.mpr meets),
      fun free => ?_⟩
    have clear := mt clash.mp fun ⟨e, he, loaded, x, hx, meets⟩ => free e he loaded x hx meets
    rw [filter_eq_filter_not_meetsList listWidth entryWidth apart]
    refine ⟨fun full => scratchLoad_refusedWith read fun x => scratchLoadOwner_of_full good clear full, fun room => ?_⟩
    exact ⟨_, _, scratchLoad_answersWith read good clear room, loadScratches_slots_length xs _, loadScratches_perm xs _,
      loadScratches_isLowestFree xs _ room⟩
  · exact scratchClear_answersWith (which := .first) rfl s
  · simpa using scratchClear_answersWith (w := 1#32) (which := .second) rfl s
  · simpa using scratchClear_answersWith (w := 2#32) (which := .all) rfl s
  · exact fun w above => scratchClear_refusedWith (selectionOf_eq_none above) s

end Sys2Proof.Machine
end

section
/-! O49: the marks of a line say which pixels are defective, and a defective pixel is copied from the reference, repaired from the
nearest sound pixel on each side, or left. -/

namespace Sys2Proof.Machine

/-! ## The marks of a line -/

theorem irDefective_iff (f : RepairFields) (p : Pixel) :
    irDefective f p = true ↔ f.irOn = true ∧ p.ir.toNat * 256 < f.irThreshold * f.clearLevel := by
  simp [irDefective]

theorem defects_length (f : RepairFields) (mask : List Nat) (px : List Pixel) : (defects f mask px).length = px.length := by
  simp [defects]

/-- R93: a pixel is defective when its IR sample or the scratch mask says so. -/
theorem defects_getD_iff (f : RepairFields) (mask : List Nat) (px : List Pixel) {i : Nat} (h : i < px.length) :
    (defects f mask px).getD i false = true ↔
      i ∈ mask ∨ f.irOn = true ∧ px[i].ir.toNat * 256 < f.irThreshold * f.clearLevel := by
  rw [← irDefective_iff, Or.comm]
  simp [defects, h]

theorem isSound_iff (v : RepairView) (c : Nat) :
    isSound v c = true ↔ c < v.pixels.length ∧ v.defective.getD c true = false := by
  simp [isSound]

/-! ## The motion check -/

/-- R97: the columns of the motion check, with soundness as a proposition. -/
theorem motionColumns_eq (v : RepairView) (i : Nat) :
    motionColumns v i =
      ((nearColumns i).filter (fun c => decide (c < v.pixels.length ∧ v.defective.getD c true = false))).take 4 := by
  unfold motionColumns
  congr 2
  funext c
  rw [Bool.eq_iff_iff, isSound_iff, decide_eq_true_eq]

theorem sampleDistance_eq_natAbs (a b : Half) : sampleDistance a b = ((a.toNat : Int) - b.toNat).natAbs := by
  unfold sampleDistance
  omega

theorem motionPasses_iff (threshold : Nat) (v : RepairView) (ref : List RefRecord) (i : Nat) :
    motionPasses threshold v ref i = true ↔
      motionColumns v i ≠ []
        ∧ ((motionColumns v i).map
              (fun c => (((viewPixel v c).g.toNat : Int) - (ref.getD c zeroRecord).rgb.g.toNat).natAbs)).sum
            / (motionColumns v i).length ≤ threshold
        ∧ (ref.getD i zeroRecord).unrepaired = false := by
  simp [motionPasses, sampleDistance_eq_natAbs, and_assoc]

/-- R97: the pixel may be copied from the reference line `ref`. -/
def copiesFrom (f : RepairFields) (v : RepairView) (i : Nat) (ref : List RefRecord) : Prop :=
  i ∉ v.mask ∧ v.reference = some ref ∧ motionPasses f.motionThreshold v ref i = true

/-! ## The nearest sound pixels -/

/-- The first of the distances 1 to `span` that has a property. -/
theorem find?_distances_eq_some_iff {p : Nat → Bool} {span d : Nat} :
    ((List.range span).map (· + 1)).find? p = some d ↔
      1 ≤ d ∧ d ≤ span ∧ p d = true ∧ ∀ e, 1 ≤ e → e < d → p e = false := by
  rw [List.find?_map, Option.map_eq_some_iff]
  constructor
  · rintro ⟨n, found, rfl⟩
    obtain ⟨holds, bound, first⟩ := List.find?_range_eq_some.mp found
    refine ⟨Nat.le_add_left 1 n, List.mem_range.mp bound, holds, fun e pos below => ?_⟩
    have before := first (e - 1) (by omega)
    rwa [Function.comp_apply, Nat.sub_add_cancel pos, Bool.not_eq_true'] at before
  · rintro ⟨pos, bound, holds, first⟩
    refine ⟨d - 1, List.find?_range_eq_some.mpr ⟨?_, List.mem_range.mpr (by omega), fun e below => ?_⟩,
      Nat.sub_add_cancel pos⟩
    · rwa [Function.comp_apply, Nat.sub_add_cancel pos]
    · rw [Function.comp_apply, Bool.not_eq_true']
      exact first (e + 1) (by omega) (by omega)

/-- R98: `d` is the distance to the nearest sound pixel to the left of column `i`, and lies within the span. -/
def nearestLeft (v : RepairView) (span i d : Nat) : Prop :=
  1 ≤ d ∧ d ≤ i ∧ (i - d < v.pixels.length ∧ v.defective.getD (i - d) true = false)
    ∧ (∀ e, 1 ≤ e → e < d → ¬(i - e < v.pixels.length ∧ v.defective.getD (i - e) true = false)) ∧ d ≤ span

/-- R98: the same to the right. -/
def nearestRight (v : RepairView) (span i d : Nat) : Prop :=
  1 ≤ d ∧ (i + d < v.pixels.length ∧ v.defective.getD (i + d) true = false)
    ∧ (∀ e, 1 ≤ e → e < d → ¬(i + e < v.pixels.length ∧ v.defective.getD (i + e) true = false)) ∧ d ≤ span

theorem leftDistance_eq_some_iff {v : RepairView} {span i d : Nat} :
    leftDistance v span i = some d ↔ nearestLeft v span i d := by
  unfold leftDistance nearestLeft
  simp only [find?_distances_eq_some_iff, ← isSound_iff, Bool.and_eq_true, Bool.and_eq_false_imp, decide_eq_true_eq,
    Bool.not_eq_true]
  constructor
  · rintro ⟨pos, bound, ⟨left, holds⟩, first⟩
    exact ⟨pos, left, holds, fun e one below => first e one below (by omega), bound⟩
  · rintro ⟨pos, left, holds, first, bound⟩
    exact ⟨pos, bound, ⟨left, holds⟩, fun e one below _ => first e one below⟩

theorem rightDistance_eq_some_iff {v : RepairView} {span i d : Nat} :
    rightDistance v span i = some d ↔ nearestRight v span i d := by
  unfold rightDistance nearestRight
  simp only [find?_distances_eq_some_iff, ← isSound_iff, Bool.not_eq_true]
  tauto

theorem leftDistance_eq_none_iff {v : RepairView} {span i : Nat} :
    leftDistance v span i = none ↔ ∀ d, ¬nearestLeft v span i d := by
  simp only [Option.eq_none_iff_forall_ne_some, ne_eq, leftDistance_eq_some_iff]

theorem rightDistance_eq_none_iff {v : RepairView} {span i : Nat} :
    rightDistance v span i = none ↔ ∀ d, ¬nearestRight v span i d := by
  simp only [Option.eq_none_iff_forall_ne_some, ne_eq, rightDistance_eq_some_iff]

/-! ## The value of a spatial repair, by the sides found -/

section
variable {v : RepairView} {span i dl dr : Nat}

theorem spatialValue_of_both (left : leftDistance v span i = some dl) (right : rightDistance v span i = some dr) :
    spatialValue v span i =
      some (
        let a := rgbOf (viewPixel v (i - dl))
        let b := rgbOf (viewPixel v (i + dr))
        if dl + dr ≤ span then ⟨blendSides dl dr a.r b.r, blendSides dl dr a.g b.g, blendSides dl dr a.b b.b⟩
        else if dl ≤ dr then a else b) := by
  simp only [spatialValue, left, right]
  split_ifs <;> rfl

theorem spatialValue_of_left (left : leftDistance v span i = some dl) (right : rightDistance v span i = none) :
    spatialValue v span i = some (rgbOf (viewPixel v (i - dl))) := by
  simp only [spatialValue, left, right]

theorem spatialValue_of_right (left : leftDistance v span i = none) (right : rightDistance v span i = some dr) :
    spatialValue v span i = some (rgbOf (viewPixel v (i + dr))) := by
  simp only [spatialValue, left, right]

theorem spatialValue_of_neither (left : leftDistance v span i = none) (right : rightDistance v span i = none) :
    spatialValue v span i = none := by
  simp only [spatialValue, left, right]

end

/-! ## The repair of a pixel, by what may be done -/

section
variable {f : RepairFields} {v : RepairView} {i : Nat}

theorem repairPixel_of_sound (sound : v.defective.getD i true = false) :
    repairPixel f v i = (⟨rgbOf (viewPixel v i), false⟩, .sound) := by
  simp only [repairPixel, sound, Bool.not_false, if_true]

theorem repairPixel_of_copiesFrom {ref : List RefRecord} (defective : v.defective.getD i true = true)
    (copies : copiesFrom f v i ref) : repairPixel f v i = (⟨(ref.getD i zeroRecord).rgb, false⟩, .temporal) := by
  obtain ⟨unmasked, reference, motion⟩ := copies
  simp [repairPixel, -List.getD_eq_getElem?_getD, defective, unmasked, reference, motion]

/-- R97: a defective pixel that may not be copied is repaired spatially: masked, without a reference, or past the motion check. -/
theorem repairPixel_of_not_copiesFrom (defective : v.defective.getD i true = true) (copies : ∀ ref, ¬copiesFrom f v i ref) :
    repairPixel f v i =
      (spatialValue v f.spanLimit i).elim (⟨rgbOf (viewPixel v i), true⟩, .unrepaired)
        (fun x => (⟨x, false⟩, if i ∈ v.mask then .scratch else .spatial)) := by
  by_cases masked : i ∈ v.mask
  · cases value : spatialValue v f.spanLimit i <;>
      simp [repairPixel, -List.getD_eq_getElem?_getD, defective, masked, value]
  · cases reference : v.reference with
    | none =>
      cases value : spatialValue v f.spanLimit i <;>
        simp [repairPixel, -List.getD_eq_getElem?_getD, defective, masked, reference, value]
    | some ref =>
      have motion : ¬motionPasses f.motionThreshold v ref i = true := fun passes => copies ref ⟨masked, reference, passes⟩
      cases value : spatialValue v f.spanLimit i <;>
        simp [repairPixel, -List.getD_eq_getElem?_getD, defective, masked, reference, motion, value]

end

/-- Settles O49: the marks of `defects_getD_iff`; then by R97 the copy (`motionPasses_iff`), or the spatial repair by the sides that
have a sound pixel within the span (`leftDistance_eq_some_iff`, `rightDistance_eq_some_iff`). -/
theorem pixelRepaired : Obligations.PixelRepaired := by
  refine ⟨irDefective_iff, fun f mask px ref => ?_, fun f v i _ => ?_⟩
  · exact ⟨defects f mask px, defects_length f mask px, fun i h => defects_getD_iff f mask px h, rfl⟩
  · intro sound left right copied kind
    have copied_iff : ∀ ref, copied ref ↔ copiesFrom f v i ref := fun ref => by
      rw [copiesFrom, motionPasses_iff, motionColumns_eq]
      rfl
    simp only [copied_iff]
    refine ⟨repairPixel_of_sound, fun defective => ⟨fun ref => repairPixel_of_copiesFrom defective, fun copies => ?_⟩⟩
    rw [repairPixel_of_not_copiesFrom defective copies]
    refine ⟨fun dl dr hl hr => ?_, fun dl hl noR => ?_, fun dr hr noL => ?_, fun noL noR => ?_⟩
    · rw [spatialValue_of_both (leftDistance_eq_some_iff.mpr hl) (rightDistance_eq_some_iff.mpr hr)]
      rfl
    · rw [spatialValue_of_left (leftDistance_eq_some_iff.mpr hl) (rightDistance_eq_none_iff.mpr noR)]
      rfl
    · rw [spatialValue_of_right (leftDistance_eq_none_iff.mpr noL) (rightDistance_eq_some_iff.mpr hr)]
      rfl
    · rw [spatialValue_of_neither (leftDistance_eq_none_iff.mpr noL) (rightDistance_eq_none_iff.mpr noR)]
      rfl

end Sys2Proof.Machine
end

section
/-! O33, O35: each grading command is its owner's refusals in order, then one change of the grading block. -/

namespace Sys2Proof.Machine

/-! ## From an owner to its row -/

theorem indexOf_of_eq {n x : Nat} {i : Fin n} (same : x = i.val) : indexOf n x = some i := by
  simp [indexOf, same]

theorem indexOf_of_le {n x : Nat} (le : n ≤ x) : indexOf n x = none := by
  simp [indexOf, le]

section
variable {c : Command} {owner : State → Carried} {s t : State} {status : ReplyStatus} {data : List Word}

/-- R156: what the owner refuses, the row refuses. -/
theorem refusedWith_of_owner (readable : c ≠ .wrongLength) (carries : ∀ u, carryOut c u = answered (owner u))
    (refuses : ∀ x, owner (setInterpreter x s) = refuse status (setInterpreter x s)) : refusedWith c s status :=
  refusedWith_of readable fun x => by rw [carries, refuses]; rfl

/-- R156: what the owner answers, the row answers. -/
theorem answersWith_of_owner (readable : c ≠ .wrongLength) (same : t.interpreter = s.interpreter)
    (carries : ∀ u, carryOut c u = answered (owner u))
    (answers : ∀ x, owner (setInterpreter x s) = (⟨status, data⟩, setInterpreter x t)) : answersWith c s status data t :=
  answersWith_of readable same fun x => by rw [carries, answers]; rfl

end

/-! ## MATRIX_LOAD (R114) and SET_CLEAR (R115) -/

/-- R114, R115: a set named by its number is rewritten unless it is IN_USE. MATRIX_LOAD and SET_CLEAR differ in `rewritten` only. -/
def rewriteSetOwner (rewritten : GradeSet → GradeSet) (set : Nat) (s : State) : Carried :=
  match indexOf 4 set with
  | none => refuse .badArg s
  | some i =>
    if s.grading.sets[i].state = .inUse then refuse .setBusy s
    else (⟨.ok, []⟩, setGradeSet i (rewritten s.grading.sets[i]) s)

theorem matrixLoadOwner_eq (set : Nat) (m : Matrix) (s : State) :
    matrixLoadOwner set m s = rewriteSetOwner (fun x => { x with matrix := some m, state := .loading }) set s := rfl

theorem setClearOwner_eq (set : Nat) (s : State) :
    setClearOwner set s = rewriteSetOwner (fun _ => GradeSet.cleared) set s := rfl

section
variable {c : Command} {rewritten : GradeSet → GradeSet} {set : Nat} {s : State}

theorem rewriteSetOwner_of_le (outside : 4 ≤ set) : rewriteSetOwner rewritten set s = refuse .badArg s := by
  rw [rewriteSetOwner, indexOf_of_le outside]

theorem rewriteSetOwner_of_eq {i : Fin 4} (named : set = i.val) :
    rewriteSetOwner rewritten set s =
      if s.grading.sets[i].state = .inUse then refuse .setBusy s
      else (⟨.ok, []⟩, setGradeSet i (rewritten s.grading.sets[i]) s) := by
  rw [rewriteSetOwner, indexOf_of_eq named]

/-- R114, R115: what a row answers whose owner rewrites one set. -/
theorem rewriteSet_answers (readable : c ≠ .wrongLength)
    (carries : ∀ u, carryOut c u = answered (rewriteSetOwner rewritten set u)) :
    (4 ≤ set → refusedWith c s .badArg)
    ∧ ∀ i : Fin 4, set = i.val →
        (s.grading.sets[i].state = .inUse → refusedWith c s .setBusy)
        ∧ (s.grading.sets[i].state ≠ .inUse →
            answersWith c s .ok [] (setGradeSet i (rewritten s.grading.sets[i]) s)) := by
  refine ⟨fun outside => ?_, fun i named => ⟨fun used => ?_, fun unused => ?_⟩⟩
  · exact refusedWith_of_owner readable carries fun x => rewriteSetOwner_of_le outside
  · exact refusedWith_of_owner readable carries fun x => (rewriteSetOwner_of_eq named).trans (if_pos used)
  · exact answersWith_of_owner readable rfl carries fun x => (rewriteSetOwner_of_eq named).trans (if_neg unused)

end

theorem carryOut_matrixLoad {a : MatrixLoadArgs} {m : Matrix} (read : matrixOf a = some m) (s : State) :
    carryOut (.matrixLoad a) s =
      answered (rewriteSetOwner (fun x => { x with matrix := some m, state := .loading }) a.set.toNat s) := by
  simp only [carryOut, withOperand, read, matrixLoadOwner_eq]

theorem carryOut_setClear (set : Word) (s : State) :
    carryOut (.setClear set) s = answered (rewriteSetOwner (fun _ => GradeSet.cleared) set.toNat s) := by
  rw [carryOut, setClearOwner_eq]

/-- Settles O33: both commands rewrite one set (`carryOut_matrixLoad`, `carryOut_setClear`), and `rewriteSet_answers` says what a row
answers that does. -/
theorem matrixAndClearAnswer : Obligations.MatrixAndClearAnswer := by
  refine ⟨fun s a m read => ?_, fun s set => ?_⟩
  · exact rewriteSet_answers (c := .matrixLoad a) nofun (carryOut_matrixLoad read)
  · exact rewriteSet_answers (c := .setClear set) nofun (carryOut_setClear set)

/-! ## CUE_ADD (R122) -/

section
variable {k : CueKind} {set d trigger : Nat} {i : Fin 4} {s : State}

theorem cueAddOwner_of_outside (outside : 4 ≤ set ∨ 64 < d) : cueAddOwner k set d trigger s = refuse .badArg s := by
  by_cases inside : set < 4
  · have long : 64 < d := outside.resolve_left (by omega)
    simp only [cueAddOwner, indexOf_of_eq (i := ⟨set, inside⟩) rfl, long, if_true]
  · rw [cueAddOwner, indexOf_of_le (by omega)]

theorem cueAddOwner_of_noReel (named : set = i.val) (short : d ≤ 64)
    (closed : s.reel.state = .noReel ∨ s.reel.state = .ticketWait) :
    cueAddOwner k set d trigger s = refuse .badState s := by
  simp only [cueAddOwner, indexOf_of_eq named, Nat.not_lt.mpr short, closed, if_true, if_false]

theorem not_closed_of_moves (moves : s.reel.state = .opened ∨ s.reel.state = .closing) :
    ¬(s.reel.state = .noReel ∨ s.reel.state = .ticketWait) := by
  obtain opened | closing := moves <;> simp [*]

/-- R122: with a reel open, a FRAME cue whose trigger is taken is refused first, then one that finds the list full. -/
theorem cueAddOwner_frame (named : set = i.val) (short : d ≤ 64)
    (moves : s.reel.state = .opened ∨ s.reel.state = .closing) :
    cueAddOwner .frame set d trigger s =
      if ∃ c ∈ s.grading.cues, c.trigger = trigger then refuse .duplicate s
      else if 64 ≤ s.grading.cues.length then refuse .tableFull s
      else (⟨.ok, []⟩, setGrading { s.grading with cues := insertCue ⟨trigger, i, d⟩ s.grading.cues } s) := by
  simp only [cueAddOwner, indexOf_of_eq named, Nat.not_lt.mpr short, not_closed_of_moves moves, if_false,
    List.any_eq_true, beq_iff_eq]

/-- R122: with a reel open, a SPLICE cue is refused only when its queue is full. -/
theorem cueAddOwner_splice (named : set = i.val) (short : d ≤ 64)
    (moves : s.reel.state = .opened ∨ s.reel.state = .closing) :
    cueAddOwner .splice set d trigger s =
      if 16 ≤ s.grading.spliceCues.length then refuse .tableFull s
      else (⟨.ok, []⟩, setGrading { s.grading with spliceCues := s.grading.spliceCues ++ [⟨i, d⟩] } s) := by
  simp only [cueAddOwner, indexOf_of_eq named, Nat.not_lt.mpr short, not_closed_of_moves moves, if_false]

end

/-- R122: the words 0 and 1 name a kind of cue, and no other word does. -/
theorem cueKindOf_eq_none_iff (w : Word) : cueKindOf w = none ↔ 2 ≤ w.toNat := by
  by_cases frame : w = 0#32
  · simp [cueKindOf, frame]
  · by_cases splice : w = 1#32
    · simp [cueKindOf, splice]
    · simp only [cueKindOf, frame, splice, if_false, true_iff]
      bv_omega

section
variable {kind set d trigger : Word} {k : CueKind} {s : State}

theorem carryOut_cueAdd (read : cueKindOf kind = some k) (s : State) :
    carryOut (.cueAdd kind set d trigger) s = answered (cueAddOwner k set.toNat d.toNat trigger.toNat s) := by
  simp only [carryOut, withOperand, read]

/-- R122, R167: an argument out of range is refused before the reel is looked at, whichever argument it is. -/
theorem cueAdd_refusedWith_badArg (outside : 2 ≤ kind.toNat ∨ 4 ≤ set.toNat ∨ 64 < d.toNat) :
    refusedWith (.cueAdd kind set d trigger) s .badArg := by
  cases read : cueKindOf kind with
  | none => exact refusedWith_of nofun fun x => by simp only [carryOut, withOperand, read]; rfl
  | some k =>
    have known : ¬2 ≤ kind.toNat := mt (cueKindOf_eq_none_iff kind).mpr (by simp [read])
    exact refusedWith_of_owner nofun (carryOut_cueAdd read) fun x => cueAddOwner_of_outside (outside.resolve_left known)

end

/-! ## CUE_CLEAR (R123) -/

theorem carryOut_cueClear {w : Word} {which : Selection} (read : selectionOf w = some which) (s : State) :
    carryOut (.cueClear w) s = answered (cueClearOwner which s) := by
  simp only [carryOut, withOperand, read]

theorem cueClear_refusedWith {w : Word} (unread : selectionOf w = none) (s : State) :
    refusedWith (.cueClear w) s .badArg :=
  refusedWith_of nofun fun x => by simp only [carryOut, withOperand, unread]; rfl

/-- Settles O35: the refusals of CUE_ADD before the reel's state counts (`cueAdd_refusedWith_badArg`, `cueAddOwner_of_noReel`) and
with a reel open (`cueAddOwner_frame`, `cueAddOwner_splice`), and the selectors of CUE_CLEAR. -/
theorem cueCommandsAnswer : Obligations.CueCommandsAnswer := by
  refine ⟨fun s kind set d trigger =>
      ⟨cueAdd_refusedWith_badArg, fun i known named short => ⟨fun closed => ?_, fun moves => ?_⟩⟩,
    fun s => ⟨?_, ?_, ?_, fun w above => cueClear_refusedWith (selectionOf_eq_none above) s⟩⟩
  · obtain ⟨k, read⟩ := Option.ne_none_iff_exists'.mp (mt (cueKindOf_eq_none_iff kind).mp (Nat.not_le.mpr known))
    exact refusedWith_of_owner nofun (carryOut_cueAdd read) fun x => cueAddOwner_of_noReel named short closed
  · refine ⟨?_, ?_⟩
    · rintro rfl
      have carries := carryOut_cueAdd (kind := 0#32) (set := set) (d := d) (trigger := trigger) (k := .frame) rfl
      have owner x := cueAddOwner_frame (trigger := trigger.toNat) (s := setInterpreter x s) named short moves
      refine ⟨fun taken => refusedWith_of_owner nofun carries fun x => (owner x).trans (if_pos taken), fun free => ?_⟩
      have untaken : ¬∃ c ∈ s.grading.cues, c.trigger = trigger.toNat := fun ⟨c, listed, same⟩ => free c listed same
      refine ⟨fun full => ?_, fun room => ?_⟩
      · exact refusedWith_of_owner nofun carries fun x => (owner x).trans ((if_neg untaken).trans (if_pos full))
      · exact answersWith_of_owner nofun rfl carries fun x =>
          (owner x).trans ((if_neg untaken).trans (if_neg (Nat.not_le.mpr room)))
    · rintro rfl
      have carries := carryOut_cueAdd (kind := 1#32) (set := set) (d := d) (trigger := trigger) (k := .splice) rfl
      have owner x := cueAddOwner_splice (trigger := trigger.toNat) (s := setInterpreter x s) named short moves
      refine ⟨fun full => ?_, fun room => ?_⟩
      · exact refusedWith_of_owner nofun carries fun x => (owner x).trans (if_pos full)
      · exact answersWith_of_owner nofun rfl carries fun x => (owner x).trans (if_neg (Nat.not_le.mpr room))
  · exact answersWith_of_owner nofun rfl (carryOut_cueClear (which := .first) rfl) fun x => rfl
  · exact answersWith_of_owner nofun rfl (carryOut_cueClear (which := .second) rfl) fun x => rfl
  · exact answersWith_of_owner nofun rfl (carryOut_cueClear (which := .all) rfl) fun x => rfl

end Sys2Proof.Machine
end

section
/-! O48: each step of grading keeps the sample range, by a blend whose weights are a whole (R117, R120) or by clamping (R118), so no
sample wraps around. -/

namespace Sys2Proof.Machine

/-- R117: entry 4096 of a LUT is taken to be entry 4095, and no other number that a lookup names is changed. -/
theorem lutEntry_of_le {lut : List (Nat × Half)} {k : Nat} (le : k ≤ 4096) :
    lutEntry lut k = (tableGet lut (if k = 4096 then 4095 else k)).getD 0#16 := by
  have entry : min k 4095 = if k = 4096 then 4095 else k := by split_ifs <;> omega
  rw [lutEntry, entry]

theorem clampInt_fst {lo hi : Int} (le : lo ≤ hi) (x : Int) : (clampInt lo hi x).1 = max lo (min x hi) := by
  unfold clampInt
  split_ifs <;> dsimp only <;> omega

theorem clampInt_snd (lo hi x : Int) : (clampInt lo hi x).2 = true ↔ x < lo ∨ hi < x := by
  unfold clampInt
  split_ifs <;> simp [*]

/-- R118: the clamped value is a sample, so its 16 bits hold it. -/
theorem clampSample_fst_toNat (x : Int) : ((clampSample x).1.toNat : Int) = max 0 (min x 65535) := by
  rw [clampSample, clampInt_fst (by decide), BitVec.toNat_ofInt]
  omega

/-- R120: the results of both sets are blended in each channel separately. -/
theorem channel_blendGraded {ch : Rgb → Half} (mem : ch ∈ [Rgb.r, Rgb.g, Rgb.b]) (w : Nat) (a b : GradedPixel) :
    ch (blendGraded w a b).px = mixSamples 256 w (ch a.px) (ch b.px) := by
  simp only [List.mem_cons, List.not_mem_nil, or_false] at mem
  obtain rfl | rfl | rfl := mem <;> rfl

/-- R119: without a dissolve a pixel goes through the current set alone. -/
theorem gradePixel_none (g : GradeSet) (w : Nat) (p : Rgb) : gradePixel g none w p = gradeInSet g p := rfl

/-- R120: while a dissolve runs both sets' results are blended. -/
theorem gradePixel_some (g k : GradeSet) (w : Nat) (p : Rgb) :
    gradePixel g (some k) w p = blendGraded w (gradePixel g none 0 p) (gradePixel k none 0 p) := rfl

/-- Settles O48: a lookup blends two neighbouring entries (`lutEntry_of_le`, `mixSamples_toNat`), a row of the matrix is clamped
(`clampSample_fst_toNat`, `clampInt_snd`), and a dissolve blends both results (`gradePixel_some`). -/
theorem pixelGraded : Obligations.PixelGraded := by
  refine ⟨fun lut v => ?_, fun mR mG mB off p => ⟨clampSample_fst_toNat _, clampInt_snd _ _ _⟩, fun g m p present => ?_,
    fun g k w p ch weight mem => ⟨?_, rfl⟩⟩
  · have sample : v.toNat < 2 ^ 16 := v.isLt
    rw [lutLookup, mixSamples_toNat (by decide) (by omega), lutEntry_of_le (by omega), lutEntry_of_le (by omega)]
    simp only [Nat.mul_comm]
  · simp only [gradePixel_none, gradeInSet, present, Option.getD_some]
  · rw [gradePixel_some, channel_blendGraded mem, mixSamples_toNat (by decide) weight.le]

end Sys2Proof.Machine
end

section
/-! SUPPORT. What the image path, the aborts, the close and the Delivery Port leave alone: one lemma an operation, over the blocks that the
invariants of every step speak of. -/

namespace Sys2Proof.Machine

/-! ## The image path -/

/-- A write into a context keeps what its frame is known by: its number and its applied S and H. -/
def KeepsIdentity (g : FrameContext → FrameContext) : Prop :=
  ∀ c, (g c).frame = c.frame ∧ (g c).appliedS = c.appliedS ∧ (g c).appliedH = c.appliedH

/-- Number and applied S and H of each context. -/
def contextKeys (s : State) : List (Nat × Nat × Int) := s.contexts.map (fun c => (c.frame, c.appliedS, c.appliedH))

/-- Everything but the three engines, the notices and what the engines write into contexts. -/
def outsideEngines (s : State) :=
  (s.pending, s.formats, s.intake, s.tracker, s.pace, s.frameMemory, s.reel, s.interpreter, s.delivery, contextKeys s)

theorem writeContext_keys (n : Nat) {g : FrameContext → FrameContext} (h : KeepsIdentity g) (s : State) :
    contextKeys (writeContext n g s) = contextKeys s := by
  simp only [contextKeys, writeContext_contexts, changeContext, List.map_map]
  refine List.map_congr_left fun c _ => ?_
  obtain ⟨frame, appliedS, appliedH⟩ := h c
  simp only [Function.comp]
  split
  · rw [frame, appliedS, appliedH]
  · rfl

/-- What the parts of the image path keep, for a property that does not speak of the three engines. -/
structure PathKeeps (P : State → Prop) : Prop where
  conformance : ∀ x s, P s → P { s with conformance := x }
  repair : ∀ x s, P s → P (setRepair x s)
  grading : ∀ x s, P s → P (setGrading x s)
  context : ∀ n g s, KeepsIdentity g → P s → P (writeContext n g s)
  notice : ∀ c s, P s → P (raise c s)

namespace PathKeeps

variable {P : State → Prop} (k : PathKeeps P)
include k

theorem presentRead (job : FrameJob) (s : State) (h : P s) : P (presentRead job s) := by
  unfold Machine.presentRead
  split
  · exact h
  · split
    · exact k.conformance _ _ h
    · exact h

theorem buildLine (copy : ConformanceCopy) (job : FrameJob) (s : State) (h : P s) : P (buildLine copy job s) := by
  unfold Machine.buildLine
  dsimp only
  refine k.conformance _ _ ?_
  split
  · exact k.context _ _ _ (fun _ => ⟨rfl, rfl, rfl⟩) h
  · exact h

theorem advanceLine (s : State) (h : P s) : P (advanceLine s) := by
  unfold Machine.advanceLine
  split
  · split
    · exact k.buildLine _ _ _ h
    · exact k.presentRead _ _ h
  · exact h

theorem enterGathering (copy : ConformanceCopy) (job : FrameJob) (j : Nat) (s : State) (h : P s) :
    P (enterGathering copy job j s) := k.advanceLine _ (k.conformance _ _ h)

theorem reportChange (s : State) (h : P s) : P (reportChange s) := by
  unfold Machine.reportChange
  split
  · exact k.advanceLine _ (k.conformance _ _ h)
  · exact h

theorem takeFrame (s : State) (h : P s) : P (takeFrame s) := by
  unfold Machine.takeFrame
  dsimp only
  split
  · exact k.enterGathering _ _ _ _ (k.conformance _ _ h)
  · exact k.conformance _ _ h

theorem takeIfIdle (s : State) (h : P s) : P (takeIfIdle s) := by
  unfold Machine.takeIfIdle
  split
  · exact k.takeFrame s h
  · exact h

theorem lineTaken (s : State) (h : P s) : P (lineTaken s) := by
  unfold Machine.lineTaken
  split
  · split
    · exact k.enterGathering _ _ _ _ h
    · exact k.takeFrame _ (k.context _ _ _ (fun _ => ⟨rfl, rfl, rfl⟩) h)
  · exact h

theorem lineRead (l : Nat) (px : List Pixel) (s : State) (h : P s) : P (lineRead l px s) := by
  unfold Machine.lineRead
  split
  · exact k.advanceLine _ (k.conformance _ _ h)
  · exact h

theorem repairLine (copy : RepairCopy) (hand : RepairHand) (ref : Option (List RefRecord)) (s : State) (h : P s) :
    P (repairLine copy hand ref s) := k.repair _ _ (k.context _ _ _ (fun _ => ⟨rfl, rfl, rfl⟩) h)

theorem repairFetched (ref : List RefRecord) (s : State) (h : P s) : P (repairFetched ref s) := by
  unfold Machine.repairFetched
  split
  · exact k.repairLine _ _ _ s h
  · exact h

theorem startFrameAt (copy : RepairCopy) (line : OutputLine) (s : State) (h : P s) : P (startFrameAt copy line s) := by
  unfold Machine.startFrameAt
  split
  · split
    · exact k.repair _ _ (k.context _ _ _ (fun _ => ⟨rfl, rfl, rfl⟩) h)
    · exact h
  · exact h

theorem takeOffered (copy : RepairCopy) (line : OutputLine) (s : State) (h : P s) : P (takeOffered copy line s) := by
  unfold Machine.takeOffered fetchOrRepair
  have taken := k.lineTaken _ (k.startFrameAt copy line s h)
  split
  · exact k.repair _ _ taken
  · exact k.repairLine _ _ _ _ taken

theorem raiseTimes (c : NoticeClass) (n : Nat) (s : State) (h : P s) : P (raiseTimes c n s) := by
  induction n generalizing s with
  | zero => exact h
  | succ n ih => exact ih _ (k.notice c s h)

theorem repairFrameEnd (copy : RepairCopy) (n : Nat) (b : Bool) (s : State) (h : P s) : P (repairFrameEnd copy n b s) := by
  unfold Machine.repairFrameEnd
  dsimp only
  split
  · exact k.raiseTimes _ _ _ (k.repair _ _ h)
  · exact k.repair _ _ h

theorem settleObligations (s : State) (h : P s) : P (settleObligations s) := by
  unfold Machine.settleObligations
  split
  · split
    · refine k.repair _ _ ?_
      split
      · exact h
      · exact k.repairFrameEnd _ _ _ _ h
    · exact h
  · exact h

theorem lineStored (s : State) (h : P s) : P (lineStored s) := by
  unfold Machine.lineStored
  split
  · exact k.settleObligations _ (k.repair _ _ h)
  · exact h

theorem noticeIf (b : Bool) (c : NoticeClass) (s : State) (h : P s) : P (raiseIf b c s) := by
  unfold raiseIf
  split
  · exact k.notice c s h
  · exact h

theorem startGradingAt (hand : RepairedHand) (s : State) (h : P s) : P (startGradingAt hand s) := by
  unfold Machine.startGradingAt
  split
  · split
    · exact k.noticeIf _ _ _ (k.context _ _ _ (fun _ => ⟨rfl, rfl, rfl⟩) (k.grading _ _ h))
    · exact h
  · exact h

theorem gradeInHand (raster : Nat × Nat) (current : Fin 4) (hand : RepairedHand) (s : State) (h : P s) :
    P (gradeInHand raster current hand s) := by
  unfold Machine.gradeInHand
  dsimp only
  refine k.grading _ _ ?_
  split
  · exact k.context _ _ _ (fun _ => ⟨rfl, rfl, rfl⟩) (k.context _ _ _ (fun _ => ⟨rfl, rfl, rfl⟩) h)
  · exact k.context _ _ _ (fun _ => ⟨rfl, rfl, rfl⟩) h

theorem takeRepaired (raster : Nat × Nat) (hand : RepairedHand) (s : State) (h : P s) : P (takeRepaired raster hand s) := by
  unfold Machine.takeRepaired
  have started := k.startGradingAt hand s h
  dsimp only
  split
  · exact k.settleObligations _ (k.gradeInHand _ _ _ _ (k.repair _ _ started))
  · exact started

end PathKeeps

/-- The engines leave everything outside them. -/
theorem outsideEngines_pathKeeps (s : State) : PathKeeps (fun t => outsideEngines t = outsideEngines s) where
  conformance _ _ h := h
  repair _ _ h := h
  grading _ _ h := h
  context n g t identity h := by
    refine Eq.trans ?_ h
    simp [outsideEngines, writeContext_keys n identity]
  notice _ _ h := h

theorem reportChange_engines (s : State) : outsideEngines (reportChange s) = outsideEngines s :=
  (outsideEngines_pathKeeps s).reportChange s rfl

theorem lineRead_engines (l : Nat) (px : List Pixel) (s : State) : outsideEngines (lineRead l px s) = outsideEngines s :=
  (outsideEngines_pathKeeps s).lineRead l px s rfl

theorem repairFetched_engines (ref : List RefRecord) (s : State) : outsideEngines (repairFetched ref s) = outsideEngines s :=
  (outsideEngines_pathKeeps s).repairFetched ref s rfl

theorem lineStored_engines (s : State) : outsideEngines (lineStored s) = outsideEngines s :=
  (outsideEngines_pathKeeps s).lineStored s rfl

theorem takeOffered_engines (copy : RepairCopy) (line : OutputLine) (s : State) :
    outsideEngines (takeOffered copy line s) = outsideEngines s :=
  (outsideEngines_pathKeeps s).takeOffered copy line s rfl

theorem takeRepaired_engines (raster : Nat × Nat) (hand : RepairedHand) (s : State) :
    outsideEngines (takeRepaired raster hand s) = outsideEngines s :=
  (outsideEngines_pathKeeps s).takeRepaired raster hand s rfl

end Sys2Proof.Machine
end

section
/-! SUPPORT. What closing, aborting and delivering change, block by block. -/

namespace Sys2Proof.Machine

/-! ## Closing and aborting -/

/-- R136: the start of a close changes the intake's mode, target and silence timer, the Tracker, the reel state and the pace. -/
theorem startClose_changes (s : State) :
    ∃ mode target silence pace, startClose s =
      { s with
        intake := { s.intake with mode := mode, drainTarget := target, silence := silence }, tracker := s.tracker.idled,
        reel := { s.reel with state := .closing }, pace := pace } := by
  unfold startClose startDrain
  dsimp only
  split
  · exact ⟨_, _, _, _, rfl⟩
  · exact ⟨_, _, _, _, rfl⟩

/-- R140: the abort's record and ticket change the reel block and the notices; the reel state stands, and no fifth ticket joins. -/
theorem abortRecord_changes (s : State) :
    ∃ reel notices, (abortRecord s).1 = { s with reel := reel, notices := notices } ∧ reel.state = s.reel.state ∧
      (s.reel.tickets.length ≤ 4 → reel.tickets.length ≤ 4) := by
  unfold abortRecord
  dsimp only
  split
  · exact ⟨_, s.notices, rfl, rfl, id⟩
  · split
    · rename_i room
      exact ⟨_, _, rfl, rfl, fun _ => by simpa using room⟩
    · exact ⟨_, s.notices, rfl, rfl, id⟩

/-- R138: the completion of a close changes the reel block, the notices, the pace and the interpreter, whose head command is answered. -/
theorem completeClose_changes (t : Ticket) (s : State) :
    ∃ reel notices pace, completeClose t s =
        { s with
          reel := reel, notices := notices, pace := pace, interpreter := answerHead (closeAnswer t) s.interpreter } ∧
      reel.state = .noReel ∧ reel.tickets = s.reel.tickets ++ [t] := ⟨_, _, _, rfl, rfl, rfl⟩

/-- R147, R138: a classified close either completes or waits for room with its command in flight. -/
theorem classify_changes (x : ReelIdentity) (s : State) :
    ∃ reel notices pace interpreter, classify x s =
        { s with
          reel := reel, notices := notices, pace := pace, interpreter := interpreter, grading := s.grading.endOfClose } ∧
      (s.reel.tickets.length ≤ 4 → reel.tickets.length ≤ 4) ∧
      (reel.state = .noReel ∧ (∃ a, interpreter = answerHead a s.interpreter) ∨
        reel.state = .ticketWait ∧ interpreter = s.interpreter) := by
  unfold classify
  dsimp only
  split
  · rename_i room
    exact ⟨_, _, _, _, rfl, fun _ => by simpa [joinTicket] using room, .inl ⟨rfl, _, rfl⟩⟩
  · exact ⟨_, s.notices, _, s.interpreter, rfl, id, .inr ⟨rfl, rfl⟩⟩

/-- R138, R149: a ticket departs; a held one takes its place and completes its close. -/
theorem departTicket_changes (s : State) :
    ∃ reel notices pace interpreter, departTicket s =
        { s with reel := reel, notices := notices, pace := pace, interpreter := interpreter } ∧
      (s.reel.tickets.length ≤ 4 → reel.tickets.length ≤ 4) ∧
      (reel.state = s.reel.state ∧ interpreter = s.interpreter ∨
        s.reel.state = .ticketWait ∧ reel.state = .noReel ∧ ∃ a, interpreter = answerHead a s.interpreter) := by
  unfold departTicket
  dsimp only
  split
  · rename_i wait _
    refine ⟨_, _, _, _, rfl, fun bound => ?_, .inr ⟨wait, rfl, _, rfl⟩⟩
    simp only [joinTicket, raise_reel, List.length_append, List.length_tail, List.length_singleton]
    omega
  · refine ⟨_, s.notices, s.pace, s.interpreter, rfl, fun bound => ?_, .inl ⟨rfl, rfl⟩⟩
    simp only [List.length_tail]
    omega

/-! ## Delivering -/

theorem retireContext_changes (s : State) :
    ∃ contexts record, retireContext s =
        { s with contexts := contexts, reel := { s.reel with record := record } } ∧ contexts <:+ s.contexts := by
  unfold retireContext
  split
  · exact ⟨s.contexts, s.reel.record, rfl, List.suffix_rfl⟩
  · rename_i c rest e
    have suffix : rest <:+ s.contexts := e ▸ List.suffix_cons c rest
    split
    · exact ⟨rest, s.reel.record, rfl, suffix⟩
    · exact ⟨rest, _, rfl, suffix⟩

/-- R13, R142: a frame packet leaves the output line queue; at most the head context retires. -/
theorem completeFramePacket_changes (s : State) :
    ∃ contexts record, completeFramePacket s =
        { s with
          contexts := contexts, reel := { s.reel with record := record },
          delivery := { s.delivery with queue := s.delivery.queue.tail } } ∧ contexts <:+ s.contexts := by
  unfold completeFramePacket
  split
  · rename_i e
    refine ⟨s.contexts, s.reel.record, ?_, List.suffix_rfl⟩
    rw [e, List.tail_nil, ← e]
  · rename_i p rest e
    rw [e, List.tail_cons]
    dsimp only
    split
    · obtain ⟨contexts, record, changed, suffix⟩ := retireContext_changes (setDelivery { s.delivery with queue := rest } s)
      exact ⟨contexts, record, changed, suffix⟩
    · exact ⟨s.contexts, s.reel.record, rfl, List.suffix_rfl⟩

/-- R13, R139: a chosen packet takes a credit; a FRAME_HEAD opens its frame. -/
theorem beginTransmission_changes (x : Source) (run : List Byte) (s : State) :
    ∃ contexts, beginTransmission x run s =
        { s with
          contexts := contexts,
          delivery := { s.delivery with pool := s.delivery.pool - 1, transmission := some ⟨x, run, false⟩ } } ∧
      contextKeys { s with contexts := contexts } = contextKeys s := by
  unfold beginTransmission markOpened
  dsimp only
  split
  · split
    · exact ⟨_, rfl, writeContext_keys _ (g := fun c => { c with opened := true }) (fun _ => ⟨rfl, rfl, rfl⟩) s⟩
    · exact ⟨_, rfl, rfl⟩
  · exact ⟨_, rfl, rfl⟩

/-! ## Granting -/

/-- R64, R67: beside the engines, a grant changes the Frame Memory Controller, and where a line is dropped the staging buffer. -/
theorem grant_outside (p : MemoryPlan) (g : Requester) (s : State) :
    outsideEngines (grant p g s) = outsideEngines { s with frameMemory := (grant p g s).frameMemory } ∨
      ∃ e rest, s.intake.staging = e :: rest ∧ grant p g s = dropLine rest s := by
  cases g with
  | intakeWrite =>
    simp only [grant, grantIntakeWrite]
    split
    · exact .inl rfl
    · rename_i e rest staged
      split
      · exact .inl rfl
      · exact .inr ⟨e, rest, staged, rfl⟩
  | conformanceRead =>
    left
    simp only [grant, grantConformanceRead]
    split <;> rfl
  | referenceRead =>
    left
    simp only [grant, grantReferenceRead]
    split <;> rfl
  | referenceWrite =>
    left
    simp only [grant, grantReferenceWrite]
    split <;> rfl

/-- R64: what dropping the head line leaves. -/
theorem dropLine_outside (rest : List SourceLine) (s : State) :
    outsideEngines (dropLine rest s) =
      outsideEngines
        { s with
          intake := { s.intake with staging := rest },
          frameMemory := { s.frameMemory with dropped := satAdd s.frameMemory.dropped 1 } } :=
  reportChange_engines _

end Sys2Proof.Machine
end

section
/-! O2, O4: no step touches the queue of waiting steps, and the bytes, the slots and the intake write in flight keep their form. -/

namespace Sys2Proof.Machine

/-- An invariant that does not speak of the waiting steps is kept by a step as soon as every command keeps it. -/
theorem step_keeps {P : State → Prop} (k : StepKeeps P) (front : ∀ rest s, P s → P { s with pending := rest }) {s t : State}
    (h : P s) (e : step s = .next t) : P t := by
  unfold step at e
  split at e
  · injection e with e
    exact e ▸ h
  · exact k.exec _ _ t (front _ s h) e

/-! ## The queue of waiting steps (O2) -/

section
variable {l : List Instr}

theorem pending_of_engines {s t : State} (h : outsideEngines s = outsideEngines t) : s.pending = t.pending :=
  congrArg (·.1) h

theorem pending_ownerEffect {s t : State} (h : s.pending = l) (e : OwnerEffect s t) : t.pending = l := by
  cases e <;> exact h

theorem pending_startClose (s : State) (h : s.pending = l) : (startClose s).pending = l := by
  obtain ⟨_, _, _, _, e⟩ := startClose_changes s
  rw [e]
  exact h

theorem pending_carryOut (c : Command) (s : State) (h : s.pending = l) : (carryOut c s).2.pending = l :=
  carryOut_keeps (fun _ _ => pending_ownerEffect) (fun s h _ => pending_startClose s h) c s h

theorem pending_runQueue (s : State) (h : s.pending = l) : (runQueue s).pending = l :=
  runQueue_keeps (P := fun s => s.pending = l) (fun _ _ h => h) pending_carryOut s h

theorem pending_abortRecord (s : State) (h : s.pending = l) : (abortRecord s).1.pending = l := by
  obtain ⟨_, _, e, _⟩ := abortRecord_changes s
  rw [e]
  exact h

theorem pending_lineKeeps : LineKeeps (fun s => s.pending = l) where
  intake _ _ h := h
  stage _ s h := by
    unfold stageLine
    split <;> exact h
  track r s h := (congrArg (·.1) (trackLine_outside r s)).trans h
  report s h := (pending_of_engines (reportChange_engines s)).trans h
  error _ h := h
  stop _ h := h

theorem pending_completeTransmission (t : Transmission) (s : State) (h : s.pending = l) :
    (completeTransmission t s).pending = l := by
  unfold completeTransmission completeDetached completeSource
  dsimp only
  split
  · split <;> exact h
  · split
    · exact pending_runQueue _ h
    · exact h
    · obtain ⟨_, _, _, _, e, _⟩ := departTicket_changes (setDelivery { s.delivery with transmission := none } s)
      refine pending_runQueue _ ?_
      rw [e]
      exact h
    · obtain ⟨_, _, e, _⟩ := completeFramePacket_changes (setDelivery { s.delivery with transmission := none } s)
      rw [e]
      exact h

theorem pending_classified (x : ReelIdentity) (s : State) (h : s.pending = l) : (runQueue (classify x s)).pending = l := by
  obtain ⟨_, _, _, _, e, _⟩ := classify_changes x s
  refine pending_runQueue _ ?_
  rw [e]
  exact h

theorem pending_grant (p : MemoryPlan) (g : Requester) (s : State) (h : s.pending = l) : (grant p g s).pending = l := by
  obtain kept | ⟨_, rest, _, dropped⟩ := grant_outside p g s
  · exact (pending_of_engines kept).trans h
  · rw [dropped]
    exact (pending_of_engines (dropLine_outside rest s)).trans h

theorem pending_stepKeeps : StepKeeps (fun s => s.pending = l) where
  interpreter _ _ h := h
  stall _ _ h := h
  carried := pending_carryOut
  abort _ h := pending_abortRecord _ h
  abortSoft _ h := pending_abortRecord _ h
  soft _ h := h
  memoryReady _ h := h
  line := pending_lineKeeps.receiveLine
  malformed _ h := h
  controlCrc _ h := h
  credit _ _ h := h
  choice x run s h _ := by
    obtain ⟨_, e, _⟩ := beginTransmission_changes x run s
    rw [e]
    exact h
  transmitted t s h _ := pending_completeTransmission t s h
  classified x s h _ _ := pending_classified x s h
  fault _ h := h
  silence := pending_lineKeeps.silenceExpires
  noticeStall _ h := h
  ringCap _ _ _ h := h
  grant p g _ h _ _ _ := pending_grant p g _ h
  intakeWritten _ _ _ _ _ _ h _ := ⟨h, fun _ => (pending_of_engines (reportChange_engines _)).trans h⟩
  lineRead line _ _ _ _ h _ :=
    ⟨h, fun _ => (pending_of_engines (lineRead_engines line _ _)).trans h⟩
  referenceRead _ _ _ _ h _ :=
    ⟨h, fun _ => (pending_of_engines (repairFetched_engines _ _)).trans h⟩
  referenceWritten _ _ _ _ h _ :=
    ⟨h, fun _ => (pending_of_engines (lineStored_engines _)).trans h⟩
  repairTakes copy _ line s h _ _ := (pending_of_engines (takeOffered_engines copy line s)).trans h
  gradingTakes raster hand s h _ _ :=
    (pending_of_engines (takeRepaired_engines raster hand s)).trans h
  placed _ _ _ _ _ h _ _ _ _ := h
  trunUp _ h := h
  trunDown _ h := h
  tick _ h := h
  markDue _ _ h := h
  tickSilence _ h := h
  powerOn _ _ _ h := h
  underflow _ h := h

end

/-- Settles O2: each case of a command leaves the waiting steps (`pending_stepKeeps`). -/
theorem commandsKeepQueue : Obligations.CommandsKeepQueue := fun i s t e => pending_stepKeeps.exec i s t rfl e

/-! ## The form of the memory (O4) -/

/-- What O4 speaks of. -/
def memoryView (s : State) :=
  (s.frameMemory.bytes, s.frameMemory.slots, s.frameMemory.plan, s.frameMemory.channel)

/-- R60, R61: both invariants of the Frame Memory Controller. -/
def memoryForm (s : State) : Prop := memoryInv s ∧ ringInv s

theorem memoryForm_congr {s t : State} (h : memoryForm t) (view : memoryView s = memoryView t) : memoryForm s := by
  simp only [memoryView, Prod.mk.injEq] at view
  obtain ⟨bytes, slots, plan, channel⟩ := view
  simpa only [memoryForm, memoryInv, ringInv, bytes, slots, plan, channel] using h

theorem memoryView_of_engines {s t : State} (kept : outsideEngines s = outsideEngines t) : memoryView s = memoryView t :=
  congrArg (fun x => let f := x.2.2.2.2.2.1; (f.bytes, f.slots, f.plan, f.channel)) kept

theorem memoryForm_of_engines {s t : State} (kept : outsideEngines s = outsideEngines t) (h : memoryForm t) : memoryForm s :=
  memoryForm_congr h (memoryView_of_engines kept)

/-- R61: the channel without a fresh intake write asks nothing of its slot. -/
theorem memoryForm_channel {s t : State} (h : memoryForm s) (bytes : t.frameMemory.bytes = s.frameMemory.bytes)
    (slots : t.frameMemory.slots = s.frameMemory.slots) (plan : t.frameMemory.plan = s.frameMemory.plan)
    (fresh : ∀ n slot a px, t.frameMemory.channel = some (.intakeWrite n slot a px false) →
      s.frameMemory.channel = some (.intakeWrite n slot a px false)) : memoryForm t := by
  obtain ⟨⟨wf, rise⟩, ring⟩ := h
  refine ⟨⟨?_, ?_⟩, fun p planned => ?_⟩
  · rw [bytes]
    exact wf
  · rw [slots]
    exact rise
  · rw [plan] at planned
    obtain ⟨tags, writing⟩ := ring p planned
    refine ⟨?_, fun n slot a px e => writing n slot a px (fresh n slot a px e)⟩
    rw [slots]
    exact tags

theorem discardTransfer_fresh (t : Option Transfer) (n slot a : Nat) (px : List Pixel)
    (h : discardTransfer t = some (.intakeWrite n slot a px false)) : t = some (.intakeWrite n slot a px false) := by
  cases t with
  | none => cases h
  | some x => cases x <;> simp_all [discardTransfer]

theorem staleTransfer_not_fresh (t : Option Transfer) (n slot a : Nat) (px : List Pixel) :
    staleTransfer t ≠ some (.intakeWrite n slot a px false) := by
  cases t with
  | none => nofun
  | some x => cases x <;> simp [staleTransfer]

/-- R61: with every slot EMPTY and no fresh intake write, line N stands nowhere. -/
theorem memoryForm_emptied {s : State} (wf : memoryWf s.frameMemory.bytes) (slots : s.frameMemory.slots = [])
    (stale : ∀ n slot a px, s.frameMemory.channel ≠ some (.intakeWrite n slot a px false)) : memoryForm s := by
  refine ⟨⟨wf, slots ▸ keysRise_nil⟩, fun p _ => ⟨?_, fun n slot a px e => absurd e (stale n slot a px)⟩⟩
  rw [slots]
  nofun

theorem memoryForm_ownerEffect {s t : State} (h : memoryForm s) (e : OwnerEffect s t) : memoryForm t := by
  cases e with
  | plan p => exact memoryForm_emptied keysRise_nil rfl fun n slot a px => staleTransfer_not_fresh _ n slot a px
  | opened x f p => exact memoryForm_emptied h.1.1 rfl fun n slot a px => staleTransfer_not_fresh _ n slot a px
  | _ => exact memoryForm_congr h rfl

theorem memoryForm_carryOut (c : Command) (s : State) (h : memoryForm s) : memoryForm (carryOut c s).2 := by
  refine carryOut_keeps (fun _ _ => memoryForm_ownerEffect) (fun s h _ => ?_) c s h
  obtain ⟨_, _, _, _, e⟩ := startClose_changes s
  rw [e]
  exact memoryForm_congr h rfl

theorem memoryForm_runQueue (s : State) (h : memoryForm s) : memoryForm (runQueue s) :=
  runQueue_keeps (fun _ _ h => memoryForm_congr h rfl) memoryForm_carryOut s h

/-- R68: an abort discards the transfers of the engines and leaves an intake write in flight. -/
theorem memoryForm_abortRecord (s : State) (h : memoryForm s) : memoryForm (abortRecord (abortBlocks s)).1 := by
  obtain ⟨_, _, e, _⟩ := abortRecord_changes (abortBlocks s)
  rw [e]
  exact memoryForm_channel h rfl rfl rfl fun n slot a px => discardTransfer_fresh _ n slot a px

theorem memoryForm_soft (s : State) (h : memoryForm s) : memoryForm (softResetBlocks s) :=
  memoryForm_emptied h.1.1 rfl fun n slot a px => staleTransfer_not_fresh _ n slot a px

theorem memoryForm_lineKeeps : LineKeeps memoryForm where
  intake _ _ h := memoryForm_congr h rfl
  stage _ s h := by
    unfold stageLine
    split <;> exact memoryForm_congr h rfl
  track r s h := by
    refine memoryForm_congr h ?_
    rw [memoryView, trackLine_frameMemory, memoryView]
  report s h := memoryForm_of_engines (reportChange_engines s) h
  error _ h := memoryForm_congr h rfl
  stop _ h := memoryForm_congr h rfl

theorem memoryForm_completeTransmission (t : Transmission) (s : State) (h : memoryForm s) :
    memoryForm (completeTransmission t s) := by
  unfold completeTransmission completeDetached completeSource
  dsimp only
  split
  · split <;> exact memoryForm_congr h rfl
  · split
    · exact memoryForm_runQueue _ (memoryForm_congr h rfl)
    · exact memoryForm_congr h rfl
    · obtain ⟨_, _, _, _, e, _⟩ := departTicket_changes (setDelivery { s.delivery with transmission := none } s)
      refine memoryForm_runQueue _ ?_
      rw [e]
      exact memoryForm_congr h rfl
    · obtain ⟨_, _, e, _⟩ := completeFramePacket_changes (setDelivery { s.delivery with transmission := none } s)
      rw [e]
      exact memoryForm_congr h rfl

theorem memoryForm_classified (x : ReelIdentity) (s : State) (h : memoryForm s) : memoryForm (runQueue (classify x s)) := by
  obtain ⟨_, _, _, _, e, _⟩ := classify_changes x s
  refine memoryForm_runQueue _ ?_
  rw [e]
  exact memoryForm_congr h rfl

/-- R64: the slot of an intake write that begins is EMPTY until it completes, and it is the slot N mod R of its line. -/
theorem memoryForm_beginIntakeWrite (p : MemoryPlan) (e : SourceLine) (s : State) (h : memoryForm s)
    (planned : s.frameMemory.plan = some p) : memoryForm (beginIntakeWrite p e s) := by
  obtain ⟨⟨wf, rise⟩, ring⟩ := h
  refine ⟨⟨wf, keysRise_erase _ rise⟩, fun q planned' => ?_⟩
  have same : q = p := Option.some.inj (planned'.symm.trans planned)
  subst same
  refine ⟨fun x mem => (ring q planned).1 x (List.mem_filter.mp mem).1, fun n slot a px writes => ?_⟩
  cases writes
  rfl

theorem memoryForm_grant (p : MemoryPlan) (g : Requester) (s : State) (h : memoryForm s)
    (planned : s.frameMemory.plan = some p) : memoryForm (grant p g s) := by
  cases g with
  | intakeWrite =>
    simp only [grant, grantIntakeWrite]
    split
    · exact h
    · split
      · exact memoryForm_beginIntakeWrite p _ s h planned
      · exact memoryForm_congr h ((memoryView_of_engines (dropLine_outside _ s)).trans rfl)
  | conformanceRead =>
    simp only [grant, grantConformanceRead]
    split
    · exact h
    · exact memoryForm_channel h rfl rfl rfl fun _ _ _ _ writes => nomatch writes
  | referenceRead =>
    simp only [grant, grantReferenceRead]
    split
    · exact memoryForm_channel h rfl rfl rfl fun _ _ _ _ writes => nomatch writes
    · exact h
  | referenceWrite =>
    simp only [grant, grantReferenceWrite]
    split
    · exact memoryForm_channel h rfl rfl rfl fun _ _ _ _ writes => nomatch writes
    · exact h

/-- R60: the bytes stored keep the addresses rising, and the channel is free. -/
theorem memoryForm_stored (s : State) (a : Nat) (bs : List Byte) (h : memoryForm s) :
    memoryForm (setMemory (writeBytes { s.frameMemory with channel := none } a bs) s) := by
  obtain ⟨⟨wf, rise⟩, ring⟩ := h
  exact ⟨⟨memoryWf_writeBytes _ a bs wf, rise⟩, fun p planned => ⟨(ring p planned).1, nofun⟩⟩

theorem mem_tableSet {α : Type} {m : List (Nat × α)} {k : Nat} {v : α} {x : Nat × α} (mem : x ∈ tableSet m k v) :
    x ∈ m ∨ x = (k, v) := by
  simp only [tableSet, List.mem_append, List.mem_cons, List.mem_filter] at mem
  tauto

/-- R61: the completed write of line N makes slot N mod R VALID with tag N. -/
theorem memoryForm_intakeWritten (line slot : Nat) (s : State) (h : memoryForm s)
    (place : ∀ p, s.frameMemory.plan = some p → slot = line % p.r) : memoryForm (completeIntakeWrite line slot s) := by
  refine memoryForm_of_engines (reportChange_engines _) ?_
  obtain ⟨⟨wf, rise⟩, ring⟩ := h
  refine ⟨⟨wf, keysRise_set slot line rise⟩, fun p planned => ⟨fun x mem => ?_, (ring p planned).2⟩⟩
  obtain mem | rfl := mem_tableSet mem
  · exact (ring p planned).1 x mem
  · exact place p planned

theorem memoryForm_stepKeeps : StepKeeps memoryForm where
  interpreter _ _ h := memoryForm_congr h rfl
  stall _ _ h := memoryForm_congr h rfl
  carried := memoryForm_carryOut
  abort _ h := memoryForm_abortRecord _ (memoryForm_congr h rfl)
  abortSoft _ h := memoryForm_abortRecord _ (memoryForm_congr h rfl)
  soft := memoryForm_soft
  memoryReady _ h := memoryForm_congr h rfl
  line := memoryForm_lineKeeps.receiveLine
  malformed := memoryForm_lineKeeps.malformed
  controlCrc := memoryForm_lineKeeps.controlCrcFailure
  credit _ _ h := memoryForm_congr h rfl
  choice x run s h _ := by
    obtain ⟨_, e, _⟩ := beginTransmission_changes x run s
    rw [e]
    exact memoryForm_congr h rfl
  transmitted t s h _ := memoryForm_completeTransmission t s h
  classified x s h _ _ := memoryForm_classified x s h
  fault _ h := memoryForm_congr h rfl
  silence := memoryForm_lineKeeps.silenceExpires
  noticeStall _ h := memoryForm_congr h rfl
  ringCap _ _ _ h := memoryForm_congr h rfl
  grant p g _ h _ planned _ := memoryForm_grant p g _ (memoryForm_congr h rfl) planned
  intakeWritten line slot a pixels stale s h writes := by
    have stored := memoryForm_stored s a (pixels.flatMap pixelBytes) h
    refine ⟨stored, fun fresh => memoryForm_intakeWritten line slot _ stored fun p planned => ?_⟩
    subst fresh
    exact (h.2 p planned).2 _ _ _ _ writes
  lineRead line _ _ _ s h _ := by
    have freed : memoryForm (setChannel none s) := memoryForm_channel h rfl rfl rfl fun _ _ _ _ writes => nomatch writes
    exact ⟨freed, fun _ => memoryForm_of_engines (lineRead_engines line _ _) freed⟩
  referenceRead _ _ _ s h _ := by
    have freed : memoryForm (setChannel none s) := memoryForm_channel h rfl rfl rfl fun _ _ _ _ writes => nomatch writes
    exact ⟨freed, fun _ => memoryForm_of_engines (repairFetched_engines _ _) freed⟩
  referenceWritten a records _ s h _ := by
    have stored := memoryForm_stored s a (records.flatMap recordBytes) h
    exact ⟨stored, fun _ => memoryForm_of_engines (lineStored_engines _) stored⟩
  repairTakes copy _ line s h _ _ := memoryForm_of_engines (takeOffered_engines copy line s) h
  gradingTakes raster hand s h _ _ := memoryForm_of_engines (takeRepaired_engines raster hand s) h
  placed _ _ _ _ _ h _ _ _ _ := memoryForm_congr h rfl
  trunUp _ h := memoryForm_congr h rfl
  trunDown _ h := memoryForm_congr h rfl
  tick _ h := memoryForm_congr h rfl
  markDue _ _ h := memoryForm_congr h rfl
  tickSilence _ h := memoryForm_congr h rfl
  powerOn _ _ _ _ := memoryForm_emptied keysRise_nil rfl nofun
  underflow _ h := memoryForm_congr h rfl

/-- Settles O4: each case of a step keeps both invariants of the memory (`memoryForm_stepKeeps`). -/
theorem memoryFormKept : Obligations.MemoryFormKept := fun _ _ h e =>
  step_keeps memoryForm_stepKeeps (fun _ _ h => memoryForm_congr h rfl) h e

end Sys2Proof.Machine
end

section
/-! O6: every step keeps the frame contexts in strictly ascending frame number, with the numbers consumed. -/

namespace Sys2Proof.Machine

/-- R42, R29, R30, R39: the invariant over the numbers in the queue and the Tracker. -/
def framesForm (s : State) : Prop := numbersInv (frameNumbers s) s.tracker

theorem framesForm_congr {s t : State} (h : framesForm t) (frames : frameNumbers s = frameNumbers t)
    (tracker : trackerKey s.tracker = trackerKey t.tracker) : framesForm s := numbersInv_congr frames tracker h

theorem frameNumbers_of_keys {s t : State} (h : contextKeys s = contextKeys t) : frameNumbers s = frameNumbers t := by
  simpa [contextKeys, frameNumbers, Function.comp_def] using congrArg (List.map (·.1)) h

theorem framesForm_of_engines {s t : State} (kept : outsideEngines s = outsideEngines t) (h : framesForm t) : framesForm s :=
  framesForm_congr h (frameNumbers_of_keys (congrArg (fun x => x.2.2.2.2.2.2.2.2.2) kept))
    (congrArg (fun x => trackerKey x.2.2.2.1) kept)

/-- Contexts leave the queue; those that stay are in order. -/
theorem numbersInv_sublist {ns ms : List Nat} {t : Tracker} (sub : ms.Sublist ns) (h : numbersInv ns t) : numbersInv ms t := by
  obtain ⟨ascend, consumed, kept⟩ := h
  exact ⟨ascend.sublist sub, fun n mem => consumed n (sub.subset mem), kept⟩

/-- R25: an IDLE Tracker keeps its frame counter, and promises nothing of its tops. -/
theorem numbersInv_idle {ns : List Nat} {t u : Tracker} (h : numbersInv ns t) (counter : u.frameCounter = t.frameCounter)
    (idle : u.mode = .idle) : numbersInv ns u := by
  obtain ⟨ascend, consumed, -⟩ := h
  exact ⟨ascend, counter ▸ consumed, fun running => absurd idle running⟩

/-- R44: the Tracker that opens a reel has numbered nothing. -/
theorem numbersInv_opening (f : TrackingFields) (hint : Option Nat) : numbersInv [] (Tracker.opening f hint) := by
  refine ⟨List.Pairwise.nil, by simp, fun _ => ⟨fun _ => ?_, ?_, fun _ => ⟨rfl, ?_⟩⟩⟩ <;> simp [Tracker.opening, Tracker.powerOn]

theorem framesForm_ownerEffect {s t : State} (h : framesForm s) (e : OwnerEffect s t) : framesForm t := by
  cases e with
  | opened x f p _ empty =>
    have none : frameNumbers (openReel x f p s) = [] := congrArg (List.map FrameContext.frame) empty
    exact (congrArg (numbersInv · _) none).mpr (numbersInv_opening _ _)
  | _ => exact framesForm_congr h rfl rfl

theorem framesForm_carryOut (c : Command) (s : State) (h : framesForm s) : framesForm (carryOut c s).2 := by
  refine carryOut_keeps (fun _ _ => framesForm_ownerEffect) (fun s h _ => ?_) c s h
  obtain ⟨_, _, _, _, e⟩ := startClose_changes s
  rw [e]
  exact numbersInv_idle h rfl rfl

theorem framesForm_runQueue (s : State) (h : framesForm s) : framesForm (runQueue s) :=
  runQueue_keeps (fun _ _ h => framesForm_congr h rfl rfl) framesForm_carryOut s h

theorem abortContexts_frames (tail : Option Nat) (cs : List FrameContext) :
    ((abortContexts tail cs).map (·.frame)).Sublist (cs.map (·.frame)) := by
  unfold abortContexts
  split
  · exact List.Sublist.refl _
  · split
    · exact List.singleton_sublist.mpr (by simp)
    · split
      · exact List.singleton_sublist.mpr (by simp)
      · exact List.nil_sublist _

/-- R139, R25: an abort leaves some of the contexts and an IDLE Tracker. -/
theorem framesForm_abortRecord (s : State) (h : framesForm s) : framesForm (abortRecord (abortBlocks s)).1 := by
  obtain ⟨_, _, e, _⟩ := abortRecord_changes (abortBlocks s)
  rw [e]
  exact numbersInv_idle h rfl rfl

theorem framesForm_lineKeeps : LineKeeps framesForm where
  intake _ _ h := framesForm_congr h rfl rfl
  stage _ s h := by
    unfold stageLine
    split <;> exact framesForm_congr h rfl rfl
  track r s h := trackLine_numbers r s h
  report s h := framesForm_of_engines (reportChange_engines s) h
  error _ h := framesForm_congr h rfl rfl
  stop _ h := framesForm_congr h rfl rfl

theorem framesForm_completeTransmission (t : Transmission) (s : State) (h : framesForm s) :
    framesForm (completeTransmission t s) := by
  unfold completeTransmission completeDetached completeSource
  dsimp only
  split
  · split <;> exact framesForm_congr h rfl rfl
  · split
    · exact framesForm_runQueue _ (framesForm_congr h rfl rfl)
    · exact framesForm_congr h rfl rfl
    · obtain ⟨_, _, _, _, e, _⟩ := departTicket_changes (setDelivery { s.delivery with transmission := none } s)
      refine framesForm_runQueue _ ?_
      rw [e]
      exact framesForm_congr h rfl rfl
    · obtain ⟨_, _, e, suffix⟩ := completeFramePacket_changes (setDelivery { s.delivery with transmission := none } s)
      rw [e]
      exact numbersInv_sublist (suffix.sublist.map _) h

theorem framesForm_grant (p : MemoryPlan) (g : Requester) (s : State) (h : framesForm s) : framesForm (grant p g s) := by
  obtain kept | ⟨_, rest, _, dropped⟩ := grant_outside p g s
  · exact framesForm_of_engines kept (framesForm_congr h rfl rfl)
  · rw [dropped]
    exact framesForm_of_engines (dropLine_outside rest s) (framesForm_congr h rfl rfl)

theorem framesForm_stepKeeps : StepKeeps framesForm where
  interpreter _ _ h := framesForm_congr h rfl rfl
  stall _ _ h := framesForm_congr h rfl rfl
  carried := framesForm_carryOut
  abort s h := framesForm_abortRecord _ (numbersInv_sublist (abortContexts_frames _ s.contexts) h)
  abortSoft _ h := framesForm_abortRecord _ (numbersInv_sublist (List.nil_sublist _) h)
  soft _ h := numbersInv_idle (numbersInv_sublist (List.nil_sublist _) h) rfl rfl
  memoryReady _ h := framesForm_congr h rfl rfl
  line := framesForm_lineKeeps.receiveLine
  malformed := framesForm_lineKeeps.malformed
  controlCrc := framesForm_lineKeeps.controlCrcFailure
  credit _ _ h := framesForm_congr h rfl rfl
  choice x run s h _ := by
    obtain ⟨_, e, keys⟩ := beginTransmission_changes x run s
    rw [e]
    exact framesForm_congr h (frameNumbers_of_keys keys) rfl
  transmitted t s h _ := framesForm_completeTransmission t s h
  classified x s h _ _ := by
    obtain ⟨_, _, _, _, e, _⟩ := classify_changes x s
    refine framesForm_runQueue _ ?_
    rw [e]
    exact framesForm_congr h rfl rfl
  fault _ h := framesForm_congr h rfl rfl
  silence := framesForm_lineKeeps.silenceExpires
  noticeStall _ h := framesForm_congr h rfl rfl
  ringCap _ _ _ h := framesForm_congr h rfl rfl
  grant p g _ h _ _ _ := framesForm_grant p g _ (framesForm_congr h rfl rfl)
  intakeWritten _ _ _ _ _ _ h _ :=
    ⟨framesForm_congr h rfl rfl, fun _ => framesForm_of_engines (reportChange_engines _) (framesForm_congr h rfl rfl)⟩
  lineRead line _ _ _ _ h _ :=
    ⟨framesForm_congr h rfl rfl, fun _ =>
      framesForm_of_engines (lineRead_engines line _ _) (framesForm_congr h rfl rfl)⟩
  referenceRead _ _ _ _ h _ :=
    ⟨framesForm_congr h rfl rfl, fun _ =>
      framesForm_of_engines (repairFetched_engines _ _) (framesForm_congr h rfl rfl)⟩
  referenceWritten _ _ _ _ h _ :=
    ⟨framesForm_congr h rfl rfl, fun _ =>
      framesForm_of_engines (lineStored_engines _) (framesForm_congr h rfl rfl)⟩
  repairTakes copy _ line s h _ _ := framesForm_of_engines (takeOffered_engines copy line s) h
  gradingTakes raster hand s h _ _ := framesForm_of_engines (takeRepaired_engines raster hand s) h
  placed _ _ _ _ _ h _ _ _ _ := framesForm_congr h rfl rfl
  trunUp _ h := framesForm_congr h rfl rfl
  trunDown _ h := framesForm_congr h rfl rfl
  tick _ h := framesForm_congr h rfl rfl
  markDue _ _ h := framesForm_congr h rfl rfl
  tickSilence _ h := framesForm_congr h rfl rfl
  powerOn _ _ _ _ := ⟨List.Pairwise.nil, by simp [frameNumbers, State.powerOn], fun running => absurd rfl running⟩
  underflow _ h := framesForm_congr h rfl rfl

/-- Settles O6: each case of a step keeps the numbers in order and consumed (`framesForm_stepKeeps`); where the Tracker works on a line it
is `trackLine_numbers`. -/
theorem frameNumbersKept : Obligations.FrameNumbersKept := fun s t h e =>
  (framesInv_iff t).mpr (step_keeps framesForm_stepKeeps (fun _ _ h => framesForm_congr h rfl rfl) ((framesInv_iff s).mp h) e)

end Sys2Proof.Machine
end

section
/-! O11: every step keeps the applied S and H of every context within their clamps and the Tracker within its ranges. -/

namespace Sys2Proof.Machine

/-! ## What the invariant speaks of -/

/-- R35, R37: the applied S and H of a context lie within their clamps. -/
def keyClamped (k : Nat × Nat × Int) : Prop := 62259 ≤ k.2.1 ∧ k.2.1 ≤ 66191 ∧ -1024 ≤ k.2.2 ∧ k.2.2 ≤ 1024

theorem clampsInv_iff (s : State) : clampsInv s ↔ (∀ k ∈ contextKeys s, keyClamped k) ∧ trackerInv s.tracker := by
  simp [clampsInv, contextKeys, keyClamped]

/-- The fields of the Tracker that O11 bounds. -/
def rangedFields (t : Tracker) := (t.shrink, t.history, t.edgeLog, t.candidates.length, t.acceptRun, t.filter)

theorem trackerInv_congr {t u : Tracker} (same : rangedFields t = rangedFields u) (h : trackerInv u) : trackerInv t := by
  simp only [rangedFields, Prod.mk.injEq] at same
  obtain ⟨shrink, history, edgeLog, candidates, acceptRun, filter⟩ := same
  simpa only [trackerInv, shrink, history, edgeLog, candidates, acceptRun, filter] using h

theorem clampsInv_congr {s t : State} (h : clampsInv t) (keys : contextKeys s = contextKeys t)
    (ranged : rangedFields s.tracker = rangedFields t.tracker) : clampsInv s := by
  rw [clampsInv_iff] at h ⊢
  exact ⟨keys ▸ h.1, trackerInv_congr ranged h.2⟩

theorem clampsInv_of_engines {s t : State} (kept : outsideEngines s = outsideEngines t) (h : clampsInv t) : clampsInv s :=
  clampsInv_congr h (congrArg (fun x => x.2.2.2.2.2.2.2.2.2) kept) (congrArg (fun x => rangedFields x.2.2.2.1) kept)

theorem clampsInv_pathKeeps : PathKeeps clampsInv where
  conformance _ _ h := clampsInv_congr h rfl rfl
  repair _ _ h := clampsInv_congr h rfl rfl
  grading _ _ h := clampsInv_congr h rfl rfl
  context n _ s identity h := clampsInv_congr h (writeContext_keys n identity s) rfl
  notice _ _ h := clampsInv_congr h rfl rfl

/-! ## The Tracker's ranges -/

theorem clampInt_mem {lo hi : Int} (le : lo ≤ hi) (x : Int) : lo ≤ (clampInt lo hi x).1 ∧ (clampInt lo hi x).1 ≤ hi := by
  unfold clampInt
  split_ifs <;> dsimp only <;> omega

theorem clampNat_mem {lo hi : Nat} (le : lo ≤ hi) (x : Nat) : lo ≤ (clampNat lo hi x).1 ∧ (clampNat lo hi x).1 ≤ hi := by
  unfold clampNat
  split_ifs <;> dsimp only <;> omega

theorem newContext_clamped (s : State) (top : PendingTop) (m : CutState) (n : Nat) :
    let c := newContext s top m n
    keyClamped (c.frame, c.appliedS, c.appliedH) := by
  obtain ⟨lowS, highS⟩ := clampNat_mem (lo := 62259) (hi := 66191) (by decide) s.tracker.shrink
  obtain ⟨lowH, highH⟩ := clampInt_mem (lo := -1024) (hi := 1024) (by decide) (pendingWeave s.tracker top)
  exact ⟨lowS, highS, lowH, highH⟩

/-- R26: the acceptance run is 0, 2, or one more than a run below 1. -/
theorem trackerInv_acceptRun {t : Tracker} (h : trackerInv t) (n : Nat) {u : Tracker} (run : u.acceptRun = n) (le : n ≤ 2)
    (same : rangedFields { u with acceptRun := t.acceptRun } = rangedFields t) : trackerInv u := by
  obtain ⟨low, high, history, log, candidates, -, filter⟩ := trackerInv_congr same h
  exact ⟨low, high, history, log, candidates, run ▸ le, filter⟩

/-- R33, R34: S is recomputed within the tracking range from a history of at most sixteen pitches. -/
theorem trackerInv_withHistory (n : Nat) {history : List Nat} {t : Tracker} (h : trackerInv t) (short : history.length ≤ 16) :
    trackerInv (withHistory n history t) := by
  obtain ⟨-, -, -, log, candidates, accept, filter⟩ := h
  obtain ⟨low, high⟩ := clampNat_mem (lo := 49152) (hi := 81920) (by decide) (shrinkOf n history)
  exact ⟨low, high, short, log, candidates, accept, filter⟩

theorem pushPitch_length {history : List Nat} (short : history.length ≤ 16) (pitch : Nat) : (pushPitch history pitch).length ≤ 16 := by
  simp only [pushPitch, List.length_drop, List.length_append, List.length_singleton]
  omega

theorem trackerInv_updateShrink (n p : Nat) (q : Option Nat) (near : Bool) (v : Option SuspectVerdict) (r : Resolution) {t : Tracker}
    (h : trackerInv t) : trackerInv (updateShrink n p q near v r t) := by
  have short : t.history.length ≤ 16 := h.2.2.1
  unfold updateShrink
  split
  · split
    · split
      · exact trackerInv_withHistory n h (by simp)
      · obtain ⟨low, high, -, rest⟩ := h
        exact ⟨low, high, by simp, rest⟩
    · split
      · exact trackerInv_withHistory n h (pushPitch_length short _)
      · exact h
  · exact h

theorem judgeSuspect_ranged (threshold p : Nat) (r : Resolution) (t : Tracker) :
    rangedFields (judgeSuspect threshold p r t).1 = rangedFields t := by
  unfold judgeSuspect applyVerdict
  split
  · dsimp only
    split <;> rfl
  · split
    · split <;> rfl
    · rfl

theorem trackerInv_judgeAndMeasure (f : TrackingFields) (p : Nat) (r : Resolution) {t : Tracker} (h : trackerInv t) :
    trackerInv (judgeAndMeasure f p r t) :=
  trackerInv_updateShrink _ _ _ _ _ _ (trackerInv_congr (judgeSuspect_ranged _ _ _ _) h)

/-- R27, R28: the candidate list may be emptied and the acceptance run be 0. -/
theorem trackerInv_noCandidates {t u : Tracker} (h : trackerInv t) (none : u.candidates = []) (run : u.acceptRun = 0 ∨ u.acceptRun = t.acceptRun)
    (filter : u.filter = t.filter ∨ u.filter = Filter.undefined)
    (same : u.shrink = t.shrink ∧ u.history = t.history ∧ u.edgeLog = t.edgeLog) : trackerInv u := by
  obtain ⟨low, high, history, log, -, accept, length⟩ := h
  obtain ⟨shrinkSame, historySame, logSame⟩ := same
  refine ⟨shrinkSame ▸ low, shrinkSame ▸ high, historySame ▸ history, logSame ▸ log, by simp [none], by omega, ?_⟩
  obtain filter | filter := filter
  · exact filter ▸ length
  · simp [filter, Filter.undefined]

theorem dropSuspect_ranged (t : Tracker) : rangedFields (dropSuspect t) = rangedFields t := by
  unfold dropSuspect
  split <;> rfl

/-- R19: a run of three agreeing samples settles the level, so at most two wait. -/
theorem filterSample_run (f : Filter) (v : Bool) (pos : Nat) : ∀ r ∈ (filterSample f v pos).1.run, r.length ≤ 2 := by
  unfold filterSample
  split
  · simp
  · dsimp only
    split
    · simp
    · intro r mem
      obtain rfl := Option.mem_some.mp mem
      omega

/-- R18: the Edge Log holds at most 160 lines. -/
theorem trackerInv_takeEntry (e : EdgeEntry) {t : Tracker} (h : trackerInv t) : trackerInv (takeEntry e t) := by
  obtain ⟨low, high, history, log, candidates, rest⟩ := h
  have short : (logEntry t.edgeLog e).length ≤ 160 := by
    simp only [logEntry, List.length_drop, List.length_append, List.length_singleton]
    omega
  simp only [trackerInv, takeEntry, List.length_map]
  exact ⟨low, high, history, short, candidates, rest⟩

/-- R27: the oldest of three candidates leaves before a new one joins. -/
theorem trackerInv_joined (p : Nat) {t : Tracker} (h : trackerInv t) :
    trackerInv { t with
      candidates := (if 3 ≤ t.candidates.length then t.candidates.drop 1 else t.candidates) ++ [⟨p, openTally t.edgeLog p⟩] } := by
  obtain ⟨low, high, history, log, candidates, rest⟩ := h
  refine ⟨low, high, history, log, ?_, rest⟩
  simp only [List.length_append, List.length_singleton]
  split
  · simp only [List.length_drop]
    omega
  · omega

theorem trackerInv_filter {t : Tracker} (h : trackerInv t) {x : Filter} (short : ∀ r ∈ x.run, r.length ≤ 2) :
    trackerInv { t with filter := x } := by
  obtain ⟨low, high, history, log, candidates, accept, -⟩ := h
  exact ⟨low, high, history, log, candidates, accept, short⟩

/-! ## The handling of a line, for a property of the contexts and of the Tracker's ranges -/

/-- What the parts of the Tracker's work keep: any change of the Tracker that keeps its ranges, a new context with clamped S and H where
there is room for it, and what the other blocks do meanwhile. -/
structure TrackRanges (P : State → Prop) : Prop extends PathKeeps P where
  form : ∀ s, P s → P (formEffective s)
  tracker : ∀ t s, P s → (trackerInv s.tracker → trackerInv t) → P (setTracker t s)
  append : ∀ c s, P s → keyClamped (c.frame, c.appliedS, c.appliedH) → s.contexts.length < 32 →
    P { s with contexts := s.contexts ++ [c] }

namespace TrackRanges

variable {P : State → Prop} (k : TrackRanges P)
include k

/-- The Tracker changes outside its ranged fields. -/
theorem same {t : Tracker} {s : State} (h : P s) (ranged : rangedFields t = rangedFields s.tracker) : P (setTracker t s) :=
  k.tracker t s h (trackerInv_congr ranged)

theorem mode (m : TrackerMode) (s : State) (h : P s) : P (setMode m s) := k.form _ (k.same h rfl)

theorem loseFrames (n : Nat) (s : State) (h : P s) : P (loseFrames n s) := by
  unfold Machine.loseFrames
  split
  · exact h
  · exact k.notice _ _ (k.same h rfl)

theorem cutFrame (m : CutState) (n : Nat) (s : State) (h : P s) : P (cutFrame m n s) := by
  unfold Machine.cutFrame
  split
  · exact h
  · rename_i top _
    have cut : P (setTracker (afterCut s.tracker top) s) := k.same h rfl
    dsimp only
    split
    · rename_i room
      refine k.takeIfIdle _ (k.noticeIf _ _ _ (k.noticeIf _ _ _ ?_))
      exact k.append _ _ cut (newContext_clamped _ _ _ _) room
    · exact k.loseFrames _ _ cut

theorem moveState (r : Resolution) (s : State) (h : P s) : P (moveState r s) := by
  unfold Machine.moveState
  dsimp only
  split
  · exact k.mode _ _ (k.tracker _ _ h fun ranged => trackerInv_acceptRun ranged 0 rfl (by omega) rfl)
  · split
    · split
      · exact k.mode _ _ (k.tracker _ _ h fun ranged => trackerInv_acceptRun ranged 2 rfl (by omega) rfl)
      · exact k.tracker _ _ h fun ranged => trackerInv_acceptRun ranged (s.tracker.acceptRun + 1) rfl (by omega) rfl
    · exact k.same h rfl

theorem rephase (f : TrackingFields) (p : Nat) (s : State) (h : P s) : P (rephase f p s) := by
  unfold Machine.rephase
  split
  · exact k.loseFrames _ _ (k.same h rfl)
  · exact h

theorem moveCountdown (f : TrackingFields) (p : Nat) (st : PerfStatus) (y : Tally) (s : State) (h : P s) :
    P (moveCountdown f p st y s) := by
  unfold Machine.moveCountdown
  dsimp only
  split
  · exact h
  · split
    · exact k.rephase _ _ _ (k.same h rfl)
    · exact k.same h rfl

theorem updateSpan (f : TrackingFields) (st : PerfStatus) (s : State) (h : P s) : P (updateSpan f st s) := by
  unfold Machine.updateSpan
  split
  · split
    · exact k.context _ _ _ (fun c => by split <;> exact ⟨rfl, rfl, rfl⟩) h
    · exact h
  · exact h

theorem finishResolution (f : TrackingFields) (p : Nat) (st : PerfStatus) (y : Tally) (s : State) (h : P s) :
    P (finishResolution f p st y s) :=
  k.same (k.updateSpan f st _ (k.moveCountdown f p st y _ (k.cutFrame _ _ s h))) rfl

theorem resolve (f : TrackingFields) (p : Nat) (r : Resolution) (s : State) (h : P s) : P (resolve f p r s) := by
  have moved := k.moveState r (countResolution r s) (k.same h rfl)
  exact k.finishResolution _ _ _ _ _ (k.tracker _ _ moved (trackerInv_judgeAndMeasure f p r))

/-! ### Lock and lock loss (R27 to R29) -/

theorem resolveCandidate (f : TrackingFields) (c : Candidate) (s : State) (h : P s) : P (resolveCandidate f c s) :=
  k.finishResolution _ _ _ _ _ (k.same h rfl)

theorem acquireLock (f : TrackingFields) (a b c : Candidate) (s : State) (h : P s) : P (acquireLock f a b c s) := by
  refine k.resolveCandidate _ _ _ (k.resolveCandidate _ _ _ (k.resolveCandidate _ _ _ (k.mode _ _ (k.tracker _ _ h ?_))))
  exact fun ranged => trackerInv_noCandidates ranged rfl (.inl rfl) (.inl rfl) ⟨rfl, rfl, rfl⟩

theorem addCandidate (f : TrackingFields) (p : Nat) (s : State) (h : P s) : P (addCandidate f p s) := by
  have joined := k.tracker _ s h (trackerInv_joined p)
  unfold Machine.addCandidate
  dsimp only
  split
  · split
    · exact k.acquireLock _ _ _ _ _ joined
    · exact joined
  · exact joined

theorem loseLock (atBreak : Bool) (s : State) (h : P s) : P (loseLock atBreak s) := by
  have cut := k.cutFrame (cutStateOf (dropSuspect s.tracker).mode) 0 (setTracker (dropSuspect s.tracker) s)
    (k.same h (dropSuspect_ranged s.tracker))
  have loose := k.tracker (loosen atBreak _) _ cut fun ranged => trackerInv_noCandidates ranged rfl (.inr rfl)
    (by cases atBreak; exact .inl rfl; exact .inr rfl) ⟨rfl, rfl, rfl⟩
  exact k.notice _ _ (k.same (k.mode _ _ loose) rfl)

/-! ### A line (R18, R19) -/

theorem takeEdge (f : TrackingFields) (e : Nat) (s : State) (h : P s) : P (takeEdge f e s) := by
  unfold Machine.takeEdge
  split
  · exact k.addCandidate f e s h
  · exact h
  · split
    · unfold windowEdge
      split
      · exact k.same h rfl
      · split
        · exact k.resolve f _ _ s h
        · exact h
    · exact h

theorem closeWindow (f : TrackingFields) (p : Nat) (s : State) (h : P s) : P (closeWindow f p s) := by
  unfold Machine.closeWindow
  split
  · split
    · split
      · exact k.resolve f _ _ s h
      · exact k.loseLock false s h
    · exact h
  · exact h

theorem examineSample (f : TrackingFields) (v : Option Bool) (p : Nat) (s : State) (h : P s) : P (examineSample f v p s) := by
  unfold Machine.examineSample
  split
  · exact k.closeWindow _ _ _ (k.tracker _ _ h fun ranged => trackerInv_filter ranged (by simp [filterMissing]))
  · rename_i b
    have filtered := k.tracker _ s h fun ranged => trackerInv_filter ranged (filterSample_run s.tracker.filter b p)
    dsimp only
    refine k.closeWindow _ _ _ ?_
    split
    · split
      · exact k.takeEdge _ _ _ filtered
      · exact filtered
    · exact filtered

theorem examineFrom (f : TrackingFields) (line : Nat) (perf : Option Half) (p n : Nat) (s : State) (h : P s) :
    P (examineFrom f line perf p n s) := by
  induction n generalizing p s with
  | zero => exact h
  | succ n ih =>
    rw [Machine.examineFrom]
    exact ih _ _ (k.examineSample _ _ _ s h)

theorem actOnBreak (s : State) (h : P s) : P (actOnBreak s) := by
  unfold Machine.actOnBreak
  split
  · exact k.tracker _ _ h fun ranged => trackerInv_noCandidates ranged rfl (.inr rfl) (.inr rfl) ⟨rfl, rfl, rfl⟩
  · exact h
  · exact k.loseLock true s h

theorem countUnframed (r : LineRecord) (s : State) (h : P s) : P (countUnframed r s) := by
  unfold Machine.countUnframed
  split
  · exact k.same h rfl
  · exact h

theorem trackLine (r : LineRecord) (s : State) (h : P s) : P (trackLine r s) := by
  unfold Machine.trackLine
  split
  · exact h
  · exact h
  · dsimp only
    have acted : P (if r.atBreak then Machine.actOnBreak s else s) := by
      split
      · exact k.actOnBreak s h
      · exact h
    exact k.examineFrom _ _ _ _ _ _ (k.tracker _ _ (k.countUnframed r _ acted) (trackerInv_takeEntry _))

end TrackRanges

theorem clampsInv_append {s : State} {c : FrameContext} (h : clampsInv s) (clamped : keyClamped (c.frame, c.appliedS, c.appliedH)) :
    clampsInv { s with contexts := s.contexts ++ [c] } := by
  obtain ⟨contexts, tracker⟩ := h
  refine ⟨fun x mem => ?_, tracker⟩
  obtain mem | mem := List.mem_append.mp mem
  · exact contexts x mem
  · exact List.mem_singleton.mp mem ▸ clamped

theorem clampsInv_trackRanges : TrackRanges clampsInv where
  toPathKeeps := clampsInv_pathKeeps
  form _ h := clampsInv_congr h rfl rfl
  tracker _ _ h keeps := ⟨h.1, keeps h.2⟩
  append _ _ h clamped _ := clampsInv_append h clamped

/-! ## Every step -/

theorem clampsInv_lineKeeps : LineKeeps clampsInv where
  intake _ _ h := clampsInv_congr h rfl rfl
  stage _ s h := by
    unfold stageLine
    split <;> exact clampsInv_congr h rfl rfl
  track := clampsInv_trackRanges.trackLine
  report s h := clampsInv_of_engines (reportChange_engines s) h
  error _ h := clampsInv_congr h rfl rfl
  stop _ h := clampsInv_congr h rfl rfl

theorem trackerInv_idled {t : Tracker} (h : trackerInv t) : trackerInv t.idled := by
  obtain ⟨low, high, history, -⟩ := h
  exact ⟨low, high, history, by simp [Tracker.idled], by simp [Tracker.idled], by simp [Tracker.idled],
    by simp [Tracker.idled, Filter.undefined]⟩

/-- R34, R44: S of an opening reel lies in the tracking range, whatever its hint. -/
theorem trackerInv_opening (f : TrackingFields) (hint : Option Nat) : trackerInv (Tracker.opening f hint) := by
  have ranged : 49152 ≤ (Tracker.opening f hint).shrink ∧ (Tracker.opening f hint).shrink ≤ 81920 := by
    cases hint with
    | none => simp [Tracker.opening]
    | some x => exact clampNat_mem (by decide) x
  obtain ⟨low, high⟩ := ranged
  exact ⟨low, high, by simp [Tracker.opening, Tracker.powerOn], by simp [Tracker.opening, Tracker.powerOn],
    by simp [Tracker.opening, Tracker.powerOn], by simp [Tracker.opening, Tracker.powerOn],
    by simp [Tracker.opening, Tracker.powerOn, Filter.undefined]⟩

theorem clampsInv_ownerEffect {s t : State} (h : clampsInv s) (e : OwnerEffect s t) : clampsInv t := by
  cases e with
  | opened x f => exact ⟨h.1, trackerInv_opening _ _⟩
  | _ => exact clampsInv_congr h rfl rfl

theorem clampsInv_carryOut (c : Command) (s : State) (h : clampsInv s) : clampsInv (carryOut c s).2 := by
  refine carryOut_keeps (fun _ _ => clampsInv_ownerEffect) (fun s h _ => ?_) c s h
  obtain ⟨_, _, _, _, e⟩ := startClose_changes s
  rw [e]
  exact ⟨h.1, trackerInv_idled h.2⟩

theorem clampsInv_runQueue (s : State) (h : clampsInv s) : clampsInv (runQueue s) :=
  runQueue_keeps (fun _ _ h => clampsInv_congr h rfl rfl) clampsInv_carryOut s h

theorem clampsInv_abortRecord (s : State) (h : clampsInv s) : clampsInv (abortRecord (abortBlocks s)).1 := by
  obtain ⟨_, _, e, _⟩ := abortRecord_changes (abortBlocks s)
  rw [e]
  exact ⟨h.1, trackerInv_idled h.2⟩

theorem abortContexts_keys (tail : Option Nat) (s : State) :
    ∀ k ∈ contextKeys { s with contexts := abortContexts tail s.contexts }, k ∈ contextKeys s := by
  unfold abortContexts contextKeys
  cases s.contexts with
  | nil => simp
  | cons c rest =>
    dsimp only
    split_ifs <;> simp

theorem clampsInv_fewer {s t : State} (h : clampsInv t) (sub : ∀ k ∈ contextKeys s, k ∈ contextKeys t)
    (same : s.tracker = t.tracker) : clampsInv s := by
  rw [clampsInv_iff] at h ⊢
  exact ⟨fun k mem => h.1 k (sub k mem), same ▸ h.2⟩

theorem clampsInv_completeTransmission (t : Transmission) (s : State) (h : clampsInv s) :
    clampsInv (completeTransmission t s) := by
  unfold completeTransmission completeDetached completeSource
  dsimp only
  split
  · split <;> exact clampsInv_congr h rfl rfl
  · split
    · exact clampsInv_runQueue _ (clampsInv_congr h rfl rfl)
    · exact clampsInv_congr h rfl rfl
    · obtain ⟨_, _, _, _, e, _⟩ := departTicket_changes (setDelivery { s.delivery with transmission := none } s)
      refine clampsInv_runQueue _ ?_
      rw [e]
      exact clampsInv_congr h rfl rfl
    · obtain ⟨_, _, e, suffix⟩ := completeFramePacket_changes (setDelivery { s.delivery with transmission := none } s)
      rw [e]
      exact clampsInv_fewer h (List.map_subset _ suffix.subset) rfl

theorem clampsInv_grant (p : MemoryPlan) (g : Requester) (s : State) (h : clampsInv s) : clampsInv (grant p g s) := by
  obtain kept | ⟨_, rest, _, dropped⟩ := grant_outside p g s
  · exact clampsInv_of_engines kept (clampsInv_congr h rfl rfl)
  · rw [dropped]
    exact clampsInv_of_engines (dropLine_outside rest s) (clampsInv_congr h rfl rfl)

theorem clampsInv_powerOn (size epoch : Nat) : clampsInv (State.powerOn size epoch) := by
  rw [clampsInv_iff]
  exact ⟨by simp [contextKeys, State.powerOn], trackerInv_congr (rfl : _ = rangedFields Tracker.powerOn.idled)
    (trackerInv_idled ⟨by decide, by decide, by simp [Tracker.powerOn], by simp [Tracker.powerOn], by simp [Tracker.powerOn],
      by simp [Tracker.powerOn], by simp [Tracker.powerOn, Filter.undefined]⟩)⟩

theorem clampsInv_stepKeeps : StepKeeps clampsInv where
  interpreter _ _ h := clampsInv_congr h rfl rfl
  stall _ _ h := clampsInv_congr h rfl rfl
  carried := clampsInv_carryOut
  abort s h := clampsInv_abortRecord _ (clampsInv_fewer h (abortContexts_keys _ s) rfl)
  abortSoft _ h := clampsInv_abortRecord _ (clampsInv_fewer h (by simp [contextKeys, disposeSoft]) rfl)
  soft s h := ⟨by simp [softResetBlocks, disposeSoft], trackerInv_congr (rfl : _ = rangedFields s.tracker.idled) (trackerInv_idled h.2)⟩
  memoryReady _ h := clampsInv_congr h rfl rfl
  line := clampsInv_lineKeeps.receiveLine
  malformed := clampsInv_lineKeeps.malformed
  controlCrc := clampsInv_lineKeeps.controlCrcFailure
  credit _ _ h := clampsInv_congr h rfl rfl
  choice x run s h _ := by
    obtain ⟨_, e, keys⟩ := beginTransmission_changes x run s
    rw [e]
    exact clampsInv_congr h keys rfl
  transmitted t s h _ := clampsInv_completeTransmission t s h
  classified x s h _ _ := by
    obtain ⟨_, _, _, _, e, _⟩ := classify_changes x s
    refine clampsInv_runQueue _ ?_
    rw [e]
    exact clampsInv_congr h rfl rfl
  fault _ h := clampsInv_congr h rfl rfl
  silence := clampsInv_lineKeeps.silenceExpires
  noticeStall _ h := clampsInv_congr h rfl rfl
  ringCap _ _ _ h := clampsInv_congr h rfl rfl
  grant p g _ h _ _ _ := clampsInv_grant p g _ (clampsInv_congr h rfl rfl)
  intakeWritten _ _ _ _ _ _ h _ :=
    ⟨clampsInv_congr h rfl rfl, fun _ => clampsInv_of_engines (reportChange_engines _) (clampsInv_congr h rfl rfl)⟩
  lineRead line _ _ _ _ h _ :=
    ⟨clampsInv_congr h rfl rfl, fun _ => clampsInv_pathKeeps.lineRead line _ _ (clampsInv_congr h rfl rfl)⟩
  referenceRead _ _ _ _ h _ :=
    ⟨clampsInv_congr h rfl rfl, fun _ => clampsInv_pathKeeps.repairFetched _ _ (clampsInv_congr h rfl rfl)⟩
  referenceWritten _ _ _ _ h _ :=
    ⟨clampsInv_congr h rfl rfl, fun _ => clampsInv_pathKeeps.lineStored _ (clampsInv_congr h rfl rfl)⟩
  repairTakes copy _ line s h _ _ := clampsInv_pathKeeps.takeOffered copy line s h
  gradingTakes raster hand s h _ _ := clampsInv_pathKeeps.takeRepaired raster hand s h
  placed _ _ _ _ _ h _ _ _ _ := clampsInv_congr h rfl rfl
  trunUp _ h := clampsInv_congr h rfl rfl
  trunDown _ h := clampsInv_congr h rfl rfl
  tick _ h := clampsInv_congr h rfl rfl
  markDue _ _ h := clampsInv_congr h rfl rfl
  tickSilence _ h := clampsInv_congr h rfl rfl
  powerOn size epoch _ _ := clampsInv_congr (clampsInv_powerOn size epoch) rfl rfl
  underflow _ h := clampsInv_congr h rfl rfl

/-- Settles O11: each case of a step keeps the clamps and the Tracker's ranges (`clampsInv_stepKeeps`). -/
theorem clampsKept : Obligations.ClampsKept := fun _ _ h e =>
  step_keeps clampsInv_stepKeeps (fun _ _ h => clampsInv_congr h rfl rfl) h e

end Sys2Proof.Machine
end

section
/-! O8, and SUPPORT for the other properties of the grading block: what one step can do to that block, said once; every step keeps a
Grade Set IN_USE exactly while it is the current or the target set. -/

namespace Sys2Proof.Machine

/-! ## Operations that leave the grading block -/

theorem grading_of_repair {s t : State} (h : outsideRepair s = outsideRepair t) : s.grading = t.grading :=
  congrArg (fun x => x.2.2.2.2.2.2.1) h

theorem grading_of_conformance {s t : State} (h : outsideConformance s = outsideConformance t) : s.grading = t.grading :=
  grading_of_repair (outsideRepair_of_conformance h)

theorem repairFetched_outside (ref : List RefRecord) (s : State) : outsideRepair (repairFetched ref s) = outsideRepair s := by
  unfold repairFetched
  split
  · exact repairLine_outside _ _ _ _
  · rfl

theorem lineStored_outside (s : State) : outsideRepair (lineStored s) = outsideRepair s := by
  unfold lineStored
  split
  · rw [settleObligations_outside, setRepair_outside]
  · rfl

theorem trackLine_grading (r : LineRecord) (s : State) : (trackLine r s).grading = s.grading :=
  congrArg (fun x => x.2.2.2.2.2.1) (trackLine_outside r s)

theorem grant_grading (p : MemoryPlan) (g : Requester) (s : State) : (grant p g s).grading = s.grading := by
  cases g with
  | intakeWrite =>
    simp only [grant, grantIntakeWrite]
    split
    · rfl
    · split
      · rfl
      · exact (grading_of_conformance (reportChange_outside _)).trans rfl
  | conformanceRead => simp only [grant, grantConformanceRead]; split <;> rfl
  | referenceRead => simp only [grant, grantReferenceRead]; split <;> rfl
  | referenceWrite => simp only [grant, grantReferenceWrite]; split <;> rfl

/-! ## Every step, for a property of the grading block -/

/-- The cases of a step that change the grading block. -/
structure GradingKeeps (Q : Grading → Prop) : Prop where
  effect : ∀ {s t}, OwnerEffect s t → Q s.grading → Q t.grading
  abort : ∀ g, Q g → Q g.abort
  close : ∀ g, Q g → Q g.endOfClose
  frameStart : ∀ n b g, Q g → Q (frameStartGrading n b g)
  mode : ∀ m a g, Q g → Q { g with accumulators := a, mode := m }
  dissolve : ∀ g, Q g → Q (advanceDissolve g)
  powerOn : Q Grading.powerOn

namespace GradingKeeps

variable {Q : Grading → Prop} (k : GradingKeeps Q)
include k

theorem carryOut (c : Command) (s : State) (h : Q s.grading) : Q (carryOut c s).2.grading := by
  refine carryOut_keeps (P := fun s => Q s.grading) (fun _ _ h e => k.effect e h) (fun s h _ => ?_) c s h
  obtain ⟨_, _, _, _, e⟩ := startClose_changes s
  rw [e]
  exact h

theorem runQueue (s : State) (h : Q s.grading) : Q (runQueue s).grading :=
  runQueue_keeps (P := fun s => Q s.grading) (fun _ _ h => h) k.carryOut s h

theorem abortRecord (s : State) (h : Q s.grading) : Q (abortRecord (abortBlocks s)).1.grading := by
  obtain ⟨_, _, e, _⟩ := abortRecord_changes (abortBlocks s)
  rw [e]
  exact k.abort s.grading h

omit k in
theorem lineKeeps : LineKeeps (fun s => Q s.grading) where
  intake _ _ h := h
  stage _ s h := by
    unfold stageLine
    split <;> exact h
  track r s h := by
    rw [trackLine_grading]
    exact h
  report s h := by
    rw [grading_of_conformance (reportChange_outside s)]
    exact h
  error _ h := h
  stop _ h := h

theorem completeTransmission (t : Transmission) (s : State) (h : Q s.grading) : Q (completeTransmission t s).grading := by
  unfold Machine.completeTransmission completeDetached completeSource
  dsimp only
  split
  · split <;> exact h
  · split
    · exact k.runQueue _ h
    · exact h
    · obtain ⟨_, _, _, _, e, _⟩ := departTicket_changes (setDelivery { s.delivery with transmission := none } s)
      refine k.runQueue _ ?_
      rw [e]
      exact h
    · obtain ⟨_, _, e, _⟩ := completeFramePacket_changes (setDelivery { s.delivery with transmission := none } s)
      rw [e]
      exact h

/-- R124: the frame start, then the line's measurement. -/
theorem takeRepaired (raster : Nat × Nat) (hand : RepairedHand) (s : State) (h : Q s.grading) :
    Q (takeRepaired raster hand s).grading := by
  have started : Q (startGradingAt hand s).grading := by
    unfold startGradingAt
    split
    · split
      · unfold gradingFrameStart raiseIf
        dsimp only
        split <;> exact k.frameStart _ _ _ h
      · exact h
    · exact h
  unfold Machine.takeRepaired
  dsimp only
  split
  · rw [grading_of_repair (settleObligations_outside _)]
    unfold gradeInHand
    dsimp only
    split <;> exact k.mode _ _ _ started
  · exact started

theorem placeOwed (hand : GradedHand) (o : Owed) (rest : List Owed) (c : FrameContext) (s : State) (h : Q s.grading) :
    Q (placeOwed hand o rest c s).grading := by
  refine k.mode _ (if o = .tail then advanceDissolve s.grading else s.grading).accumulators
    (if o = .tail then advanceDissolve s.grading else s.grading) ?_
  split
  · exact k.dissolve _ h
  · exact h

theorem stepKeeps : StepKeeps (fun s => Q s.grading) where
  interpreter _ _ h := h
  stall _ _ h := h
  carried := k.carryOut
  abort _ h := k.abortRecord _ h
  abortSoft _ h := k.abortRecord _ h
  soft s h := k.abort s.grading h
  memoryReady _ h := h
  line := lineKeeps.receiveLine
  malformed _ h := h
  controlCrc _ h := h
  credit _ _ h := h
  choice x run s h _ := by
    obtain ⟨_, e, _⟩ := beginTransmission_changes x run s
    rw [e]
    exact h
  transmitted t s h _ := k.completeTransmission t s h
  classified x s h _ _ := by
    obtain ⟨_, _, _, _, e, _⟩ := classify_changes x s
    refine k.runQueue _ ?_
    rw [e]
    exact k.close s.grading h
  fault _ h := h
  silence := lineKeeps.silenceExpires
  noticeStall _ h := h
  ringCap _ _ _ h := h
  grant p g _ h _ _ _ := by
    rw [grant_grading p g]
    exact h
  intakeWritten _ _ _ _ _ _ h _ := ⟨h, fun _ => lineKeeps.report _ h⟩
  lineRead line _ _ _ _ h _ := by
    refine ⟨h, fun _ => ?_⟩
    rw [grading_of_conformance (lineRead_outside line _ _)]
    exact h
  referenceRead _ _ _ _ h _ := by
    refine ⟨h, fun _ => ?_⟩
    rw [grading_of_repair (repairFetched_outside _ _)]
    exact h
  referenceWritten _ _ _ _ h _ := by
    refine ⟨h, fun _ => ?_⟩
    rw [grading_of_repair (lineStored_outside _)]
    exact h
  repairTakes copy _ line s h _ _ := by
    rw [grading_of_repair (takeOffered_outside copy line s)]
    exact h
  gradingTakes raster hand s h _ _ := k.takeRepaired raster hand s h
  placed hand o rest c s h _ _ _ _ := k.placeOwed hand o rest c s h
  trunUp _ h := h
  trunDown _ h := h
  tick _ h := h
  markDue _ _ h := h
  tickSilence _ h := h
  powerOn _ _ _ _ := k.powerOn
  underflow _ h := h

end GradingKeeps

/-! ## Sets in use -/

/-- R113 to R116: a set that is not IN_USE may be loaded, cleared or committed; it is not IN_USE after. -/
theorem gradingInv_setGradeSet {g : Grading} (h : gradingInv g) (i : Fin 4) (x : GradeSet) (before : g.sets[i].state ≠ .inUse)
    (after : x.state ≠ .inUse) : gradingInv { g with sets := g.sets.set i x } := by
  intro k
  by_cases same : k = i
  · subst same
    have unused : ¬setInUse g k := fun used => before ((h k).mpr used)
    simpa [setInUse, after] using unused
  · have other : (g.sets.set i x)[k] = g.sets[k] := by
      simp only [Fin.getElem_fin]
      exact Vector.getElem_set_ne _ _ (fun e => same (Fin.ext e.symm))
    simpa only [setInUse, other] using h k

theorem gradingInv_ownerEffect {s t : State} (e : OwnerEffect s t) (h : gradingInv s.grading) : gradingInv t.grading := by
  cases e with
  | gradeSet i x before after => exact gradingInv_setGradeSet h i x before after
  | frameCue => exact gradingInv_congr rfl rfl rfl h
  | spliceCue => exact gradingInv_congr rfl rfl rfl h
  | clearCues => exact gradingInv_congr rfl rfl rfl h
  | opened x f => exact opening_gradingInv _ _ _
  | _ => exact h

theorem gradingInv_gradingKeeps : GradingKeeps gradingInv where
  effect := gradingInv_ownerEffect
  abort g _ := abort_gradingInv g
  close g _ := endOfClose_gradingInv g
  frameStart n b g _ := frameStartGrading_inv n b g
  mode _ _ _ h := gradingInv_congr rfl rfl rfl h
  dissolve := advanceDissolve_inv
  powerOn := releaseSets_inv Grading.powerOn

/-- Settles O8: each case of a step settles the sets anew or leaves them with the current and the target set
(`gradingInv_gradingKeeps`). -/
theorem setsInUseKept : Obligations.SetsInUseKept := fun _ _ h e =>
  step_keeps gradingInv_gradingKeeps.stepKeeps (fun _ _ h => h) h e

end Sys2Proof.Machine
end

section
/-! SUPPORT. What one step can do to the Command Interpreter's block and the reel state, said once. -/

namespace Sys2Proof.Machine

/-- The cases of a command, for a property that speaks of the Command Interpreter's block and the reel state only. -/
structure QueueKeeps (P : State → Prop) : Prop where
  congr : ∀ {s t}, P t → s.interpreter = t.interpreter → s.reel.state = t.reel.state → P s
  arrive : ∀ q s, P s → P (arrive q s)
  immediate : ∀ code tag args s, P s → P (arriveImmediate code tag args s)
  transmitted : ∀ t s, P s → P (completeTransmission t s)
  classified : ∀ x s, P s → closeReady s = true → P (runQueue (classify x s))
  powerOn : ∀ size epoch l, P { State.powerOn size epoch with pending := l }

namespace QueueKeeps

variable {P : State → Prop} (k : QueueKeeps P)
include k

theorem of_engines {s t : State} (kept : outsideEngines s = outsideEngines t) (h : P t) : P s :=
  k.congr h (congrArg (fun x => x.2.2.2.2.2.2.2.1) kept) (congrArg (fun x => x.2.2.2.2.2.2.1.state) kept)

theorem lineKeeps : LineKeeps P where
  intake _ _ h := k.congr h rfl rfl
  stage _ s h := by
    unfold stageLine
    split <;> exact k.congr h rfl rfl
  track r s h := k.congr h (congrArg (fun x => x.2.2.2.2.2.2.2.1) (trackLine_outside r s))
    (congrArg (fun x => x.2.2.2.2.2.2.1.state) (trackLine_outside r s))
  report s h := k.of_engines (reportChange_engines s) h
  error _ h := k.congr h rfl rfl
  stop _ h := k.congr h rfl rfl

theorem receivePacket (run : List Byte) (s : State) (h : P s) : P (receivePacket run s) := by
  unfold Machine.receivePacket
  split
  · exact k.lineKeeps.receiveLine _ s h
  · unfold receiveControl
    split
    · exact k.lineKeeps.controlCrcFailure s h
    · split
      · exact k.lineKeeps.malformed s h
      · unfold arrivePacket
        split
        · exact k.immediate _ _ _ s h
        · exact k.arrive _ s h
  · exact k.lineKeeps.malformed s h

theorem done {s t : State} (e : Machine.done s = .next t) (h : P s) : P t := by
  injection e with e
  subst e
  exact k.congr h (settleStall_interpreter s) (by rw [settleStall_reel])

theorem takeSilenceExpiry (s : State) (h : P s) : P (takeSilenceExpiry s) := by
  unfold Machine.takeSilenceExpiry
  split
  · exact k.lineKeeps.silenceExpires s h
  · exact h

theorem settleStall {s : State} (h : P s) : P (settleStall s) := k.done rfl h

theorem takeSpinUpExpiry (s : State) (h : P s) : P (takeSpinUpExpiry s) := by
  unfold Machine.takeSpinUpExpiry
  split
  · exact k.congr h rfl rfl
  · exact h

theorem takeStallExpiry (s : State) (h : P s) : P (takeStallExpiry s) := by
  unfold Machine.takeStallExpiry
  split
  · exact k.congr h rfl rfl
  · exact h

theorem takeRingCapEvaluation (s : State) (h : P s) : P (takeRingCapEvaluation s) := by
  unfold Machine.takeRingCapEvaluation
  split
  · exact k.congr h rfl rfl
  · exact h

theorem takeDue (s : State) (h : P s) : P (takeDue s) :=
  k.settleStall (k.takeStallExpiry _ (k.settleStall (k.takeSilenceExpiry _
    (k.settleStall (k.takeRingCapEvaluation _ (k.settleStall (k.takeSpinUpExpiry s h)))))))

theorem countTick (s : State) (h : P s) : P (countTick s) := by
  unfold Machine.countTick
  dsimp only
  split <;> exact k.congr h rfl rfl

theorem markDue (s : State) (h : P s) : P (markDue s) := k.congr h rfl rfl

theorem grant (p : MemoryPlan) (g : Requester) (s : State) (h : P s) : P (grant p g s) := by
  obtain kept | ⟨_, rest, _, dropped⟩ := grant_outside p g s
  · exact k.of_engines kept (k.congr h rfl rfl)
  · rw [dropped]
    exact k.of_engines (dropLine_outside rest s) (k.congr h rfl rfl)

/-- What a completion of a transfer leaves: nothing, or a fault where the transfer reaches past the memory. -/
theorem transferCompletes {inside : Bool} {x y : State} {unreported : Bool} {a : Nat} {t : State}
    (e : (if inside then if unreported then Machine.done x else Machine.done y else .fault (.addressBeyondMemory a)) = .next t)
    (first : P x) (second : P y) : P t := by
  split at e
  · split at e
    · exact k.done e first
    · exact k.done e second
  · cases e

theorem exec (i : Instr) (s t : State) (h : P s) (e : Machine.exec i s = .next t) : P t := by
  cases i with
  | powerOnReset => exact k.done e (k.powerOn _ _ _)
  | memoryInitComplete => exact k.done e (k.congr h rfl rfl)
  | linePacket run => exact k.done e (k.receivePacket run s h)
  | controlPacket run => exact k.done e (k.receivePacket run s h)
  | unknownKindPacket run => exact k.done e (k.receivePacket run s h)
  | creditGrant run => exact k.done e (k.congr h rfl rfl)
  | trunAssertion =>
    simp only [Machine.exec, execTrunAssertion] at e
    split at e
    · exact k.done e (k.congr h rfl rfl)
    · exact k.done e h
  | trunDrop =>
    simp only [Machine.exec, execTrunDrop] at e
    split at e
    · split at e
      · exact k.done e (k.congr h rfl rfl)
      · exact k.done e (k.congr h rfl rfl)
    · exact k.done e h
  | spinUpExpiry => exact k.done e (k.takeSpinUpExpiry s h)
  | silenceTimerExpiry => exact k.done e (k.takeSilenceExpiry s h)
  | stallTimerExpiry => exact k.done e (k.takeStallExpiry s h)
  | ringCapEvaluation => exact k.done e (k.takeRingCapEvaluation s h)
  | dividerUnderflow => exact k.done e (k.congr h rfl rfl)
  | arbiterGrant =>
    simp only [Machine.exec, execArbiterGrant] at e
    split at e
    · exact k.done e (k.grant _ _ _ (k.congr h rfl rfl))
    · exact k.done e h
  | intakeWriteComplete =>
    simp only [Machine.exec, execIntakeWriteComplete] at e
    split at e
    · exact k.transferCompletes e (k.congr h rfl rfl)
        (k.of_engines (reportChange_engines _) (k.congr h rfl rfl))
    · exact k.done e h
  | conformanceReadComplete =>
    simp only [Machine.exec, execConformanceReadComplete] at e
    split at e
    · exact k.transferCompletes e (k.congr h rfl rfl)
        (k.of_engines (lineRead_engines _ _ _) (k.congr h rfl rfl))
    · exact k.done e h
  | referenceReadComplete =>
    simp only [Machine.exec, execReferenceReadComplete] at e
    split at e
    · exact k.transferCompletes e (k.congr h rfl rfl)
        (k.of_engines (repairFetched_engines _ _) (k.congr h rfl rfl))
    · exact k.done e h
  | referenceWriteComplete =>
    simp only [Machine.exec, execReferenceWriteComplete] at e
    split at e
    · exact k.transferCompletes e (k.congr h rfl rfl)
        (k.of_engines (lineStored_engines _) (k.congr h rfl rfl))
    · exact k.done e h
  | repairTakeLine =>
    simp only [Machine.exec, execRepairTakeLine] at e
    split at e
    · exact k.done e (k.of_engines (takeOffered_engines _ _ s) h)
    · exact k.done e h
  | gradingTakeLine =>
    simp only [Machine.exec, execGradingTakeLine] at e
    split at e
    · split at e
      · exact k.done e h
      · exact k.done e (k.of_engines (takeRepaired_engines _ _ s) h)
    · exact k.done e h
  | placePacket =>
    simp only [Machine.exec, execPlacePacket] at e
    split at e
    · split at e
      · split at e
        · exact k.done e (k.congr h rfl rfl)
        · exact k.done e h
      · exact k.done e h
    · exact k.done e h
  | deliveryChoice =>
    simp only [Machine.exec, execDeliveryChoice] at e
    split at e
    · split at e
      · rename_i x run _
        obtain ⟨_, begun, _⟩ := beginTransmission_changes x run s
        rw [begun] at e
        exact k.done e (k.congr h rfl rfl)
      · exact k.done e h
    · exact k.done e h
  | transmissionComplete =>
    simp only [Machine.exec, execTransmissionComplete] at e
    split at e
    · exact k.done e (k.transmitted _ s h)
    · exact k.done e h
  | classification =>
    simp only [Machine.exec, execClassification] at e
    split at e
    · rename_i ready _
      exact k.done e (k.classified _ s h ready)
    · exact k.done e h
  | reelAbort tag => exact k.done e (k.immediate _ tag _ s h)
  | softReset tag => exact k.done e (k.immediate _ tag _ s h)
  | timeBaseTick => exact k.done e (k.markDue _ (k.countTick _ (k.takeDue s h)))
  | _ => exact k.done e (k.arrive _ s h)

/-- A step keeps what every command keeps. -/
theorem step {s t : State} (h : P s) (e : Machine.step s = .next t) : P t := by
  unfold Machine.step at e
  split at e
  · injection e with e
    exact e ▸ h
  · rename_i i rest _
    have front : P { s with pending := rest } := k.congr h rfl rfl
    exact k.exec i _ t front e

end QueueKeeps

end Sys2Proof.Machine
end

section
/-! O10: every step keeps the reply slots, the fill order and the command in flight consistent. -/

namespace Sys2Proof.Machine

/-! ## What the invariant speaks of -/

theorem repliesInv_congr {s t : State} (h : repliesInv t) (interpreter : s.interpreter = t.interpreter)
    (state : s.reel.state = t.reel.state) : repliesInv s := by
  rw [repliesInv, closeInFlight, interpreter, state]
  exact h

/-- R153: with no command in flight, in a reel that is neither CLOSING nor in TICKET_WAIT, the interpreter's block decides. -/
theorem repliesInv_of_idle {s : State} (inv : interpreterInv s.interpreter) (idle : s.interpreter.inFlight = none)
    (state : s.reel.state ≠ .closing ∧ s.reel.state ≠ .ticketWait) : repliesInv s := by
  refine (repliesInv_iff s).mpr ⟨inv, ?_⟩
  simp [closeInFlight, idle, state]

theorem repliesInv_idle_state {s : State} (h : repliesInv s) (idle : s.interpreter.inFlight = none) :
    s.reel.state ≠ .closing ∧ s.reel.state ≠ .ticketWait := by
  obtain ⟨-, flight⟩ := (repliesInv_iff s).mp h
  simpa [closeInFlight, idle] using flight

/-- The interpreter's block may change where the command in flight stays. -/
theorem repliesInv_setInterpreter {s : State} (h : repliesInv s) {x : Interpreter} (inv : interpreterInv x)
    (same : x.inFlight = s.interpreter.inFlight) : repliesInv (setInterpreter x s) := by
  obtain ⟨-, flight⟩ := (repliesInv_iff s).mp h
  refine (repliesInv_iff _).mpr ⟨inv, ?_⟩
  rw [closeInFlight, setInterpreter_interpreter, same]
  exact flight

/-! ## Commands that start (R152, R153) -/

/-- R135: of the answered commands only REEL_OPEN changes the reel state, from NO_REEL to OPEN. -/
theorem ownerEffect_reelState {s t : State} (e : OwnerEffect s t) :
    t.reel.state = s.reel.state ∨ s.reel.state = .noReel ∧ t.reel.state = .opened := by
  cases e with
  | opened x f p state => exact .inr ⟨state, rfl⟩
  | _ => exact .inl rfl

theorem repliesInv_runHead (i : Fin 8) (q : QueuedCommand) (rest : List QueuedCommand) (s : State) (h : repliesInv s)
    (queued : s.interpreter.queue = q :: rest) (idle : s.interpreter.inFlight = none) (free : freeSlot s.interpreter = some i) :
    repliesInv (runHead i q.command s) := by
  obtain ⟨inv, -⟩ := (repliesInv_iff s).mp h
  have claimed := claimSlot_inv i s.interpreter inv (freeSlot_free _ i free) idle (by simp [queued])
  have interpreter := carryOut_interpreter q.command (setInterpreter (claimSlot i s.interpreter) s)
  unfold runHead
  obtain ⟨some, effect⟩ | ⟨-, -, closes⟩ := carryOut_cases q.command (setInterpreter (claimSlot i s.interpreter) s)
  · obtain ⟨a, answer⟩ := Option.isSome_iff_exists.mp some
    generalize carryOut q.command (setInterpreter (claimSlot i s.interpreter) s) = carried at answer effect interpreter
    obtain ⟨_, t⟩ := carried
    subst answer
    obtain ⟨answered, none⟩ := answerHead_inv a _ claimed
    dsimp only at interpreter ⊢
    rw [interpreter]
    refine repliesInv_of_idle answered none ?_
    obtain ⟨notClosing, notWaiting⟩ := repliesInv_idle_state h idle
    obtain same | ⟨-, opened⟩ := ownerEffect_reelState effect
    · exact ⟨fun e => notClosing (same.symm.trans e), fun e => notWaiting (same.symm.trans e)⟩
    · refine ⟨fun e => ?_, fun e => ?_⟩ <;> cases opened.symm.trans e
  · rw [closes] at interpreter ⊢
    dsimp only at interpreter ⊢
    refine (repliesInv_iff _).mpr ⟨?_, ?_⟩
    · rw [interpreter]
      exact claimed
    · obtain ⟨_, _, _, _, e⟩ := startClose_changes (setInterpreter (claimSlot i s.interpreter) s)
      rw [e]
      exact ⟨fun _ => .inl rfl, fun _ => rfl⟩

theorem repliesInv_runCommands (n : Nat) (s : State) (h : repliesInv s) : repliesInv (runCommands n s) := by
  induction n generalizing s with
  | zero => exact h
  | succ n ih =>
    unfold runCommands
    split
    · rename_i i q rest slot queued
      obtain ⟨idle, free⟩ := startingSlot_some _ i slot
      exact ih _ (repliesInv_runHead i q rest s h queued idle free)
    · exact h

theorem repliesInv_runQueue (s : State) (h : repliesInv s) : repliesInv (runQueue s) := repliesInv_runCommands _ s h

/-! ## Commands that arrive (R150, R154) -/

theorem interpreterInv_enqueue (q : QueuedCommand) {x : Interpreter} (h : interpreterInv x) :
    interpreterInv { x with queue := x.queue ++ [q] } := by
  obtain ⟨order, claimed, -⟩ := h
  exact ⟨order, claimed, fun _ => by simp⟩

theorem repliesInv_arrive (q : QueuedCommand) (s : State) (h : repliesInv s) : repliesInv (arrive q s) := by
  obtain ⟨inv, -⟩ := (repliesInv_iff s).mp h
  unfold arrive
  dsimp only
  split
  · have joined := repliesInv_setInterpreter h (interpreterInv_enqueue q inv) rfl
    split
    · exact repliesInv_runQueue _ joined
    · exact joined
  · split
    · rename_i i free
      exact repliesInv_setInterpreter h (fillOrdinary_inv i _ _ inv (freeSlot_free _ i free)) rfl
    · exact repliesInv_setInterpreter h inv rfl

theorem repliesInv_answerImmediate (code tag : Half) (status : ReplyStatus) (data : List Word) (s : State) (h : repliesInv s) :
    repliesInv (answerImmediate code tag status data s) := by
  obtain ⟨inv, -⟩ := (repliesInv_iff s).mp h
  obtain ⟨replied, same⟩ := replyImmediate_inv ⟨code, tag, status, data⟩ s.interpreter inv
  exact repliesInv_setInterpreter h replied same

/-- R140: an abort answers the close in flight and leaves NO_REEL. -/
theorem repliesInv_abort (s : State) (inv : interpreterInv s.interpreter) :
    repliesInv (abortRecord (abortBlocks s)).1 ∧ (abortRecord (abortBlocks s)).1.interpreter.inFlight = none := by
  obtain ⟨reel, _, e, state, _⟩ := abortRecord_changes (abortBlocks s)
  obtain ⟨answered, none⟩ := answerHead_inv ⟨.aborted, []⟩ _ inv
  have noReel : reel.state = .noReel := state
  rw [e]
  refine ⟨repliesInv_of_idle answered none ?_, none⟩
  refine ⟨fun closing => ?_, fun waiting => ?_⟩
  · cases noReel.symm.trans closing
  · cases noReel.symm.trans waiting

theorem repliesInv_runReelAbort (tag : Half) (s : State) (h : repliesInv s) : repliesInv (runReelAbort tag s) := by
  obtain ⟨inv, -⟩ := (repliesInv_iff s).mp h
  unfold runReelAbort
  split
  · exact repliesInv_answerImmediate _ _ _ _ s h
  · obtain ⟨aborted, -⟩ := repliesInv_abort (disposePlain (countAborted _ s)) inv
    exact repliesInv_runQueue _ (repliesInv_answerImmediate _ _ _ _ _ aborted)

/-- R155: the abort of a SOFT_RESET leaves no command in flight. -/
theorem repliesInv_softResetAbort (s : State) (h : repliesInv s) :
    interpreterInv (softResetAbort s).state.interpreter ∧ (softResetAbort s).state.interpreter.inFlight = none := by
  obtain ⟨inv, flight⟩ := (repliesInv_iff s).mp h
  unfold softResetAbort
  split
  · rename_i noReel
    refine ⟨inv, ?_⟩
    simpa [closeInFlight, noReel] using flight
  · obtain ⟨aborted, none⟩ := repliesInv_abort (disposeSoft (countAborted _ s)) inv
    exact ⟨((repliesInv_iff _).mp aborted).1, none⟩

theorem repliesInv_runSoftReset (tag : Half) (s : State) (h : repliesInv s) : repliesInv (runSoftReset tag s) := by
  obtain ⟨⟨order, claimed, -⟩, none⟩ := repliesInv_softResetAbort s h
  refine repliesInv_answerImmediate _ _ _ _ _ (repliesInv_of_idle ?_ rfl ⟨nofun, nofun⟩)
  exact ⟨order, fun i => by rw [← none]; exact claimed i, nofun⟩

theorem repliesInv_arriveImmediate (code tag : Half) (args : List Byte) (s : State) (h : repliesInv s) :
    repliesInv (arriveImmediate code tag args s) := by
  unfold arriveImmediate
  split
  · exact repliesInv_answerImmediate _ _ _ _ s h
  · split
    · exact repliesInv_runReelAbort tag s h
    · exact repliesInv_runSoftReset tag s h

/-! ## The two links and the end of a reel -/

/-- R138: the answer of the close in flight leaves NO_REEL. -/
theorem repliesInv_answered {s : State} (inv : interpreterInv s.interpreter) (a : Answer) {t : State}
    (interpreter : t.interpreter = answerHead a s.interpreter) (state : t.reel.state = .noReel) : repliesInv t := by
  obtain ⟨answered, none⟩ := answerHead_inv a _ inv
  refine repliesInv_of_idle (interpreter ▸ answered) (interpreter ▸ none) ?_
  rw [state]
  exact ⟨nofun, nofun⟩

theorem repliesInv_departTicket (s : State) (h : repliesInv s) : repliesInv (departTicket s) := by
  obtain ⟨inv, -⟩ := (repliesInv_iff s).mp h
  obtain ⟨_, _, _, _, e, -, ⟨state, same⟩ | ⟨-, state, a, answer⟩⟩ := departTicket_changes s
  · rw [e]
    exact repliesInv_congr h same state
  · rw [e]
    exact repliesInv_answered inv a answer state

theorem repliesInv_completeTransmission (t : Transmission) (s : State) (h : repliesInv s) :
    repliesInv (completeTransmission t s) := by
  obtain ⟨inv, -⟩ := (repliesInv_iff s).mp h
  have free : repliesInv (setDelivery { s.delivery with transmission := none } s) := repliesInv_congr h rfl rfl
  unfold completeTransmission completeDetached completeSource
  dsimp only
  split
  · split <;> exact repliesInv_congr h rfl rfl
  · split
    · refine repliesInv_runQueue _ (repliesInv_setInterpreter free (freeReply_inv _ inv) ?_)
      unfold freeReply
      split <;> rfl
    · exact repliesInv_congr h rfl rfl
    · exact repliesInv_runQueue _ (repliesInv_departTicket _ free)
    · obtain ⟨_, _, e, _⟩ := completeFramePacket_changes (setDelivery { s.delivery with transmission := none } s)
      rw [e]
      exact repliesInv_congr h rfl rfl

/-- R137, R138: the close in flight is answered, or its ticket waits with it. -/
theorem repliesInv_classify (x : ReelIdentity) (s : State) (h : repliesInv s) (ready : closeReady s = true) :
    repliesInv (classify x s) := by
  obtain ⟨inv, flight⟩ := (repliesInv_iff s).mp h
  obtain ⟨_, _, _, _, e, -, ⟨state, a, answer⟩ | ⟨state, same⟩⟩ := classify_changes x s
  · rw [e]
    exact repliesInv_answered inv a answer state
  · have closing : s.reel.state = .closing := by
      simp only [closeReady, Bool.and_eq_true, beq_iff_eq] at ready
      exact ready.1.1.1
    rw [e, same]
    exact (repliesInv_iff _).mpr ⟨inv, fun _ => .inr state, fun _ => flight.mpr (.inl closing)⟩

theorem interpreterInv_powerOn : interpreterInv Interpreter.powerOn :=
  ⟨⟨List.nodup_nil, by decide, by decide⟩, by decide, nofun⟩

theorem repliesInv_queueKeeps : QueueKeeps repliesInv where
  congr := repliesInv_congr
  arrive := repliesInv_arrive
  immediate := repliesInv_arriveImmediate
  transmitted := repliesInv_completeTransmission
  classified x s h ready := repliesInv_runQueue _ (repliesInv_classify x s h ready)
  powerOn _ _ _ := repliesInv_of_idle interpreterInv_powerOn rfl ⟨nofun, nofun⟩

/-- Settles O10: each command that reaches the interpreter keeps the reply slots, the fill order and the command in flight
(`repliesInv_queueKeeps`); a command that starts is `repliesInv_runHead`. -/
theorem repliesKept : Obligations.RepliesKept := fun _ _ h e => repliesInv_queueKeeps.step h e

end Sys2Proof.Machine
end

section
/-! O5, the commands that wait, the cues, the scratches: every step keeps them within their numbers and in their order. -/

namespace Sys2Proof.Machine

/-! ## The Command Queue (R150) -/

theorem answerHead_queue_length (a : Answer) (x : Interpreter) : (answerHead a x).queue.length ≤ x.queue.length := by
  unfold answerHead
  split
  · rename_i queued
    simp [queued]
  · exact le_refl _

/-- R152: a queue only gets shorter by the commands that start. -/
theorem runHead_queue_length (i : Fin 8) (c : Command) (s : State) :
    (runHead i c s).interpreter.queue.length ≤ s.interpreter.queue.length := by
  have interpreter := carryOut_interpreter c (setInterpreter (claimSlot i s.interpreter) s)
  unfold runHead
  split
  · rename_i a t carried
    rw [carried] at interpreter
    dsimp only at interpreter
    rw [setInterpreter_interpreter, interpreter]
    exact answerHead_queue_length a (claimSlot i s.interpreter)
  · rename_i t carried
    rw [carried] at interpreter
    dsimp only at interpreter
    rw [interpreter]
    exact le_refl _

theorem runCommands_queue_length (n : Nat) (s : State) :
    (runCommands n s).interpreter.queue.length ≤ s.interpreter.queue.length := by
  induction n generalizing s with
  | zero => exact le_refl _
  | succ n ih =>
    unfold runCommands
    split
    · exact le_trans (ih _) (runHead_queue_length _ _ s)
    · exact le_refl _

/-- R150: at most eight packets wait. -/
def queueWithin (s : State) : Prop := s.interpreter.queue.length ≤ 8

theorem queueWithin_runQueue (s : State) (h : queueWithin s) : queueWithin (runQueue s) :=
  le_trans (runCommands_queue_length _ s) h

theorem queueWithin_arrive (q : QueuedCommand) (s : State) (h : queueWithin s) : queueWithin (arrive q s) := by
  unfold arrive
  dsimp only
  split
  · rename_i room
    have joined : queueWithin (setInterpreter { s.interpreter with queue := s.interpreter.queue ++ [q] } s) := by
      simpa [queueWithin] using room
    split
    · exact queueWithin_runQueue _ joined
    · exact joined
  · split <;> exact h

theorem queueWithin_answerImmediate (code tag : Half) (status : ReplyStatus) (data : List Word) (s : State) (h : queueWithin s) :
    queueWithin (answerImmediate code tag status data s) := by
  rw [queueWithin, answerImmediate, setInterpreter_interpreter, replyImmediate_queue]
  exact h

theorem queueWithin_arriveImmediate (code tag : Half) (args : List Byte) (s : State) (h : queueWithin s) :
    queueWithin (arriveImmediate code tag args s) := by
  unfold arriveImmediate
  split
  · exact queueWithin_answerImmediate _ _ _ _ s h
  · split
    · unfold runReelAbort
      split
      · exact queueWithin_answerImmediate _ _ _ _ s h
      · refine queueWithin_runQueue _ (queueWithin_answerImmediate _ _ _ _ _ ?_)
        obtain ⟨_, _, e, _⟩ := abortRecord_changes (abortBlocks (disposePlain (countAborted
          (abortedFrames (tailInTransmission s.delivery) s.contexts) s)))
        rw [queueWithin, abortReel, e]
        exact le_trans (answerHead_queue_length _ s.interpreter) h
    · exact queueWithin_answerImmediate _ _ _ _ _ (Nat.zero_le 8)

theorem queueWithin_completeTransmission (t : Transmission) (s : State) (h : queueWithin s) :
    queueWithin (completeTransmission t s) := by
  unfold completeTransmission completeDetached completeSource
  dsimp only
  split
  · split <;> exact h
  · split
    · refine queueWithin_runQueue _ ?_
      rw [queueWithin, setInterpreter_interpreter]
      unfold freeReply
      split <;> exact h
    · exact h
    · obtain ⟨_, _, _, _, e, -, ⟨-, same⟩ | ⟨-, -, a, answer⟩⟩ := departTicket_changes (setDelivery { s.delivery with transmission := none } s)
      · exact queueWithin_runQueue _ (by rw [e, same]; exact h)
      · exact queueWithin_runQueue _ (by rw [e, answer]; exact le_trans (answerHead_queue_length a _) h)
    · obtain ⟨_, _, e, _⟩ := completeFramePacket_changes (setDelivery { s.delivery with transmission := none } s)
      rw [e]
      exact h

theorem queueWithin_queueKeeps : QueueKeeps queueWithin where
  congr h same _ := by
    rw [queueWithin, same]
    exact h
  arrive := queueWithin_arrive
  immediate := queueWithin_arriveImmediate
  transmitted := queueWithin_completeTransmission
  classified x s h _ := by
    obtain ⟨_, _, _, _, e, -, ⟨-, a, answer⟩ | ⟨-, same⟩⟩ := classify_changes x s
    · exact queueWithin_runQueue _ (by rw [e, answer]; exact le_trans (answerHead_queue_length a _) h)
    · exact queueWithin_runQueue _ (by rw [e, same]; exact h)
  powerOn _ _ _ := Nat.zero_le 8

/-! ## The cues (R121) -/

/-- A property of the Cue List and the splice cues that survives the removal of cues and the commands that add one. -/
structure CuesKeep (Q : List FrameCue → List SpliceCue → Prop) : Prop where
  fewer : ∀ {a b x y}, a.Sublist b → x.Sublist y → Q b y → Q a x
  frame : ∀ {c cues splices}, cues.length < 64 → (∀ x ∈ cues, x.trigger ≠ c.trigger) → Q cues splices →
    Q (insertCue c cues) splices
  splice : ∀ {c cues splices}, splices.length < 16 → Q cues splices → Q cues (splices ++ [c])
  empty : Q [] []

/-- R125: a collection only removes cues. -/
theorem collectCues_sublist (n : Nat) (splice : Bool) (cues : List FrameCue) (splices : List SpliceCue) :
    (collectCues n splice cues splices).cues.Sublist cues ∧ (collectCues n splice cues splices).spliceCues.Sublist splices := by
  unfold collectCues
  dsimp only
  split
  · exact ⟨List.filter_sublist, List.sublist_cons_self _ _⟩
  · exact ⟨List.filter_sublist, List.sublist_cons_self _ _⟩
  · exact ⟨List.filter_sublist, List.Sublist.refl _⟩
  · exact ⟨List.filter_sublist, List.Sublist.refl _⟩

theorem frameStartGrading_cues (n : Nat) (splice : Bool) (g : Grading) :
    (frameStartGrading n splice g).cues = (collectCues n splice g.cues g.spliceCues).cues
      ∧ (frameStartGrading n splice g).spliceCues = (collectCues n splice g.cues g.spliceCues).spliceCues := by
  unfold frameStartGrading
  dsimp only
  split <;> exact ⟨rfl, rfl⟩

theorem advanceDissolve_cues (g : Grading) :
    (advanceDissolve g).cues = g.cues ∧ (advanceDissolve g).spliceCues = g.spliceCues := by
  unfold advanceDissolve
  split
  · exact ⟨rfl, rfl⟩
  · split <;> exact ⟨rfl, rfl⟩

theorem CuesKeep.effect {Q : List FrameCue → List SpliceCue → Prop} (k : CuesKeep Q) {s t : State} (e : OwnerEffect s t)
    (h : Q s.grading.cues s.grading.spliceCues) : Q t.grading.cues t.grading.spliceCues := by
  cases e with
  | frameCue c room new => exact k.frame room new h
  | spliceCue c room => exact k.splice room h
  | clearCues a b =>
    refine k.fewer ?_ ?_ h
    · cases a
      · exact List.Sublist.refl _
      · exact List.nil_sublist _
    · cases b
      · exact List.Sublist.refl _
      · exact List.nil_sublist _
  | opened => exact k.empty
  | _ => exact h

theorem CuesKeep.gradingKeeps {Q : List FrameCue → List SpliceCue → Prop} (k : CuesKeep Q) :
    GradingKeeps (fun g => Q g.cues g.spliceCues) where
  effect := k.effect
  abort _ _ := k.empty
  close _ h := h
  frameStart n b g h := by
    obtain ⟨cues, splices⟩ := frameStartGrading_cues n b g
    obtain ⟨fewer, fewerSplices⟩ := collectCues_sublist n b g.cues g.spliceCues
    rw [cues, splices]
    exact k.fewer fewer fewerSplices h
  mode _ _ _ h := h
  dissolve g h := by
    obtain ⟨cues, splices⟩ := advanceDissolve_cues g
    rw [cues, splices]
    exact h
  powerOn := k.empty

theorem filter_length_add_le {α : Type} (p q : α → Bool) (apart : ∀ x, p x = true → q x = false) (l : List α) :
    (l.filter p).length + (l.filter q).length ≤ l.length := by
  induction l with
  | nil => simp
  | cons x xs ih =>
    have := apart x
    simp only [List.filter_cons, List.length_cons]
    split_ifs <;> simp_all <;> omega

/-- R121: at most 64 and 16 cues. -/
theorem cuesKeep_within : CuesKeep (fun cues splices => cues.length ≤ 64 ∧ splices.length ≤ 16) where
  fewer sub sub' h := ⟨le_trans sub.length_le h.1, le_trans sub'.length_le h.2⟩
  frame {c cues splices} room _ h := by
    refine ⟨?_, h.2⟩
    have split := filter_length_add_le (fun x : FrameCue => decide (x.trigger < c.trigger)) (fun x => decide (c.trigger < x.trigger))
      (fun x below => by simpa using Nat.le_of_lt (of_decide_eq_true below)) cues
    simp only [insertCue, List.length_append, List.length_cons]
    omega
  splice room h := ⟨h.1, by simpa using room⟩
  empty := ⟨Nat.zero_le _, Nat.zero_le _⟩

theorem insertCue_ascends {c : FrameCue} {cues : List FrameCue} (h : cues.Pairwise (fun a b => a.trigger < b.trigger)) :
    (insertCue c cues).Pairwise (fun a b => a.trigger < b.trigger) := by
  rw [insertCue, List.pairwise_append, List.pairwise_cons]
  refine ⟨h.filter _, ⟨fun x mem => by simpa using (List.mem_filter.mp mem).2, h.filter _⟩, fun a memA b memB => ?_⟩
  have below : a.trigger < c.trigger := by simpa using (List.mem_filter.mp memA).2
  obtain rfl | memB := List.mem_cons.mp memB
  · exact below
  · have above : c.trigger < b.trigger := by simpa using (List.mem_filter.mp memB).2
    exact below.trans above

/-- R121: the Cue List ascends. -/
theorem cuesKeep_ascend : CuesKeep (fun cues _ => cues.Pairwise (fun a b => a.trigger < b.trigger)) where
  fewer sub _ h := h.sublist sub
  frame _ _ h := insertCue_ascends h
  splice _ h := h
  empty := List.Pairwise.nil

end Sys2Proof.Machine
end

section
/-! O5, the Scratch Table: what one step can do to it, said once; its order and its number of entries (R100). -/

namespace Sys2Proof.Machine

/-! ## The number of entries -/

theorem sortEntries_length (t : List ScratchEntry) : (sortEntries t).length = t.length := (sortEntries_perm t).length_eq

/-- The entry of a slot leaves the others one fewer. -/
theorem length_others_lt {slot : Nat} {e : ScratchEntry} {t : List ScratchEntry} (found : t.find? (fun e => e.slot == slot) = some e) :
    (t.filter (fun e => e.slot != slot)).length < t.length := by
  have mem := List.mem_of_find?_eq_some found
  have same : (e.slot == slot) = true := by simpa using List.find?_some found
  have le := List.length_filter_le (fun e => e.slot != slot) t
  refine lt_of_le_of_ne le fun all => ?_
  have kept := (List.length_filter_eq_length_iff.mp all) e mem
  simp only [bne, same] at kept
  exact Bool.noConfusion kept

/-- R103: a move adds no entry. -/
theorem moveEntry_length (slot : Nat) (r : ColumnRun) (t : List ScratchEntry) : (moveEntry slot r t).length ≤ t.length := by
  unfold moveEntry
  split
  · exact le_rfl
  · rename_i mover found
    have fewer := length_others_lt found
    dsimp only
    split
    · rw [sortEntries_length]
      exact fewer
    · split
      · exact fewer.le
      · split
        · rename_i met _ _ _ _
          have := List.length_filter_le (fun e => e.slot != met.slot) (t.filter (fun e => e.slot != slot))
          simp only [sortEntries_length, List.length_cons]
          omega
        · exact le_rfl

theorem moveAll_length (l : List (ScratchEntry × Option ColumnRun)) (t : List ScratchEntry) : (moveAll l t).length ≤ t.length := by
  induction l generalizing t with
  | nil => exact le_rfl
  | cons x rest ih =>
    obtain ⟨e, _ | r⟩ := x
    · exact ih t
    · refine (ih _).trans ?_
      split
      · exact moveEntry_length e.slot r t
      · exact le_rfl

/-- R104: a run is offered while the table holds fewer than 32 entries. -/
theorem offerRun_length (n : Nat) (r : ColumnRun) {t : List ScratchEntry} (h : t.length ≤ 32) : (offerRun n r t).1.length ≤ 32 := by
  unfold offerRun
  split
  · exact h
  · split
    · exact h
    · simp only [sortEntries_length, List.length_cons]
      omega

theorem offerAll_length (n : Nat) (rs : List ColumnRun) {t : List ScratchEntry} (h : t.length ≤ 32) :
    (offerAll n rs t).1.length ≤ 32 := by
  induction rs generalizing t with
  | nil => exact h
  | cons r rs ih => exact ih (offerRun_length n r h)

theorem matchRuns_length (w : Nat) (es : List ScratchEntry) (rs : List ColumnRun) : (matchRuns w es rs).1.length = es.length := by
  induction es generalizing rs with
  | nil => rfl
  | cons e es ih =>
    unfold matchRuns
    split <;> simp [ih]

/-- R100: a frame end leaves at most 32 entries. -/
theorem scratchFrameEnd_length (w n th : Nat) (c : List Nat) {t : List ScratchEntry} (h : t.length ≤ 32) :
    (scratchFrameEnd w n th c t).table.length ≤ 32 := by
  unfold scratchFrameEnd
  refine offerAll_length n _ ((moveAll_length _ _).trans ?_)
  rw [List.length_map]
  refine (List.length_filterMap_le _ _).trans ?_
  rwa [matchRuns_length]

theorem loadScratches_length (xs : List ScratchSpan) (t : List ScratchEntry) :
    (loadScratches xs t).1.length = t.length + xs.length := by
  induction xs generalizing t with
  | nil => rfl
  | cons x xs ih =>
    simp only [loadScratches, ih, sortEntries_length, List.length_cons]
    omega

/-! ## Operations that leave the table -/

theorem scratches_of_conformance {s t : State} (h : outsideConformance s = outsideConformance t) :
    s.repair.scratches = t.repair.scratches := by
  have blocks : s.repair = t.repair := congrArg (fun x => x.2.2.2.2.2.2.1) h
  rw [blocks]

theorem trackLine_repair (r : LineRecord) (s : State) : (trackLine r s).repair = s.repair :=
  congrArg (fun x => x.2.2.2.2.1) (trackLine_outside r s)

theorem reportChange_scratches (s : State) : (reportChange s).repair.scratches = s.repair.scratches :=
  scratches_of_conformance (reportChange_outside s)

theorem repairFetched_scratches (ref : List RefRecord) (s : State) :
    (repairFetched ref s).repair.scratches = s.repair.scratches := by
  unfold repairFetched
  split <;> rfl

theorem raiseTimes_repair (c : NoticeClass) (n : Nat) (s : State) : (raiseTimes c n s).repair = s.repair := by
  induction n generalizing s with
  | zero => rfl
  | succ n ih => exact (ih _).trans rfl

theorem fetchOrRepair_scratches (copy : RepairCopy) (hand : RepairHand) (s : State) :
    (fetchOrRepair copy hand s).repair.scratches = s.repair.scratches := by
  unfold fetchOrRepair
  split <;> rfl

theorem startGradingAt_repair (hand : RepairedHand) (s : State) : (startGradingAt hand s).repair = s.repair := by
  unfold startGradingAt
  split
  · split
    · unfold gradingFrameStart raiseIf
      dsimp only
      split <;> rfl
    · rfl
  · rfl

theorem gradeInHand_repair (raster : Nat × Nat) (current : Fin 4) (hand : RepairedHand) (s : State) :
    (gradeInHand raster current hand s).repair = s.repair := by
  unfold gradeInHand
  dsimp only
  split <;> rfl

theorem grant_scratches (p : MemoryPlan) (g : Requester) (s : State) :
    (grant p g s).repair.scratches = s.repair.scratches := by
  cases g with
  | intakeWrite =>
    simp only [grant, grantIntakeWrite]
    split
    · rfl
    · split
      · rfl
      · exact reportChange_scratches _
  | conformanceRead => simp only [grant, grantConformanceRead]; split <;> rfl
  | referenceRead => simp only [grant, grantReferenceRead]; split <;> rfl
  | referenceWrite => simp only [grant, grantReferenceWrite]; split <;> rfl

/-! ## Every step, for a property of the Scratch Table -/

/-- A property of the Scratch Table that survives the removal of entries, the fading at a splice, a frame end and the loading of a list
whose checks have passed. -/
structure ScratchKeeps (Q : List ScratchEntry → Prop) : Prop where
  fewer : ∀ {a b}, a.Sublist b → Q b → Q a
  fade : ∀ {t}, Q t → Q (t.map fadeEntry)
  frameEnd : ∀ w n th c {t}, Q t → Q (scratchFrameEnd w n th c t).table
  load : ∀ xs t, scratchListBad xs = false → t.length + xs.length ≤ 32 → (∀ e ∈ t, meetsList xs e = false) → Q t →
    Q (loadScratches xs t).1
  empty : Q []

namespace ScratchKeeps

variable {Q : List ScratchEntry → Prop} (k : ScratchKeeps Q)
include k

theorem effect {s t : State} (e : OwnerEffect s t) (h : Q s.repair.scratches) : Q t.repair.scratches := by
  cases e with
  | loadScratches xs list _ room =>
    refine k.load xs _ list room (fun e mem => ?_) (k.fewer List.filter_sublist h)
    simpa using (List.mem_filter.mp mem).2
  | clearScratches which => exact k.fewer List.filter_sublist h
  | opened => exact k.fewer List.filter_sublist h
  | _ => exact h

theorem carryOut (c : Command) (s : State) (h : Q s.repair.scratches) : Q (carryOut c s).2.repair.scratches := by
  refine carryOut_keeps (P := fun s => Q s.repair.scratches) (fun _ _ h e => k.effect e h) (fun s h _ => ?_) c s h
  obtain ⟨_, _, _, _, e⟩ := startClose_changes s
  rw [e]
  exact h

theorem runQueue (s : State) (h : Q s.repair.scratches) : Q (runQueue s).repair.scratches :=
  runQueue_keeps (P := fun s => Q s.repair.scratches) (fun _ _ h => h) k.carryOut s h

omit k in
theorem abortRecord (s : State) (h : Q s.repair.scratches) : Q (abortRecord (abortBlocks s)).1.repair.scratches := by
  obtain ⟨_, _, e, _⟩ := abortRecord_changes (abortBlocks s)
  rw [e]
  exact h

omit k in
theorem lineKeeps : LineKeeps (fun s => Q s.repair.scratches) where
  intake _ _ h := h
  stage _ s h := by
    unfold stageLine
    split <;> exact h
  track r s h := by
    rw [trackLine_repair]
    exact h
  report s h := by
    rw [reportChange_scratches]
    exact h
  error _ h := h
  stop _ h := h

theorem completeTransmission (t : Transmission) (s : State) (h : Q s.repair.scratches) :
    Q (completeTransmission t s).repair.scratches := by
  unfold Machine.completeTransmission completeDetached completeSource
  dsimp only
  split
  · split <;> exact h
  · split
    · exact k.runQueue _ h
    · exact h
    · obtain ⟨_, _, _, _, e, _⟩ := departTicket_changes (setDelivery { s.delivery with transmission := none } s)
      refine k.runQueue _ ?_
      rw [e]
      exact h
    · obtain ⟨_, _, e, _⟩ := completeFramePacket_changes (setDelivery { s.delivery with transmission := none } s)
      rw [e]
      exact h

omit k in
theorem setRecord_scratches (x : Buffer) (v : Validity) (r : Repair) : (setRecord x v r).scratches = r.scratches := by
  cases x <;> rfl

/-- R95: the frame end is the one that updates the table. -/
theorem repairFrameEnd (copy : RepairCopy) (n : Nat) (b : Bool) (s : State) (h : Q s.repair.scratches) :
    Q (repairFrameEnd copy n b s).repair.scratches := by
  unfold Machine.repairFrameEnd
  dsimp only
  split
  · rw [raiseTimes_repair]
    refine k.frameEnd _ _ _ _ ?_
    rwa [setRecord_scratches]
  · rwa [setRepair_repair, setRecord_scratches]

theorem settleObligations (s : State) (h : Q s.repair.scratches) : Q (settleObligations s).repair.scratches := by
  unfold Machine.settleObligations
  split
  · split
    · dsimp only
      split
      · exact h
      · exact k.repairFrameEnd _ _ _ s h
    · exact h
  · exact h

theorem lineStored (s : State) (h : Q s.repair.scratches) : Q (lineStored s).repair.scratches := by
  unfold Machine.lineStored
  split
  · exact k.settleObligations _ h
  · exact h

theorem takeOffered (copy : RepairCopy) (line : OutputLine) (s : State) (h : Q s.repair.scratches) :
    Q (takeOffered copy line s).repair.scratches := by
  unfold Machine.takeOffered
  rw [fetchOrRepair_scratches, scratches_of_conformance (lineTaken_outside _)]
  unfold startFrameAt
  split
  · split
    · unfold repairFrameStart
      dsimp only [setRepair_repair]
      split
      · exact k.fade h
      · exact h
    · exact h
  · exact h

theorem takeRepaired (raster : Nat × Nat) (hand : RepairedHand) (s : State) (h : Q s.repair.scratches) :
    Q (takeRepaired raster hand s).repair.scratches := by
  unfold Machine.takeRepaired
  dsimp only
  split
  · refine k.settleObligations _ ?_
    rwa [gradeInHand_repair, markTaken, setRepair_repair, startGradingAt_repair]
  · rw [startGradingAt_repair]
    exact h

theorem stepKeeps : StepKeeps (fun s => Q s.repair.scratches) where
  interpreter _ _ h := h
  stall _ _ h := h
  carried := k.carryOut
  abort _ h := abortRecord _ h
  abortSoft _ h := abortRecord _ h
  soft _ h := k.fewer List.filter_sublist h
  memoryReady _ h := h
  line := lineKeeps.receiveLine
  malformed _ h := h
  controlCrc _ h := h
  credit _ _ h := h
  choice x run s h _ := by
    obtain ⟨_, e, _⟩ := beginTransmission_changes x run s
    rw [e]
    exact h
  transmitted t s h _ := k.completeTransmission t s h
  classified x s h _ _ := by
    obtain ⟨_, _, _, _, e, _⟩ := classify_changes x s
    refine k.runQueue _ ?_
    rw [e]
    exact h
  fault _ h := h
  silence := lineKeeps.silenceExpires
  noticeStall _ h := h
  ringCap _ _ _ h := h
  grant p g _ h _ _ _ := by
    rw [grant_scratches p g]
    exact h
  intakeWritten _ _ _ _ _ _ h _ := ⟨h, fun _ => lineKeeps.report _ h⟩
  lineRead line _ _ _ _ h _ := by
    refine ⟨h, fun _ => ?_⟩
    rw [scratches_of_conformance (lineRead_outside line _ _)]
    exact h
  referenceRead _ _ _ _ h _ := by
    refine ⟨h, fun _ => ?_⟩
    rw [repairFetched_scratches]
    exact h
  referenceWritten _ _ _ _ h _ := ⟨h, fun _ => k.lineStored _ h⟩
  repairTakes copy _ line s h _ _ := k.takeOffered copy line s h
  gradingTakes raster hand s h _ _ := k.takeRepaired raster hand s h
  placed _ _ _ _ _ h _ _ _ _ := h
  trunUp _ h := h
  trunDown _ h := h
  tick _ h := h
  markDue _ _ h := h
  tickSilence _ h := h
  powerOn _ _ _ _ := k.empty
  underflow _ h := h

end ScratchKeeps

/-- R107: what the checks of SCRATCH_LOAD say of its list. -/
theorem of_scratchListBad {xs : List ScratchSpan} (h : scratchListBad xs = false) :
    (∀ x ∈ xs, 1 ≤ x.width) ∧ xs.Pairwise (fun a b => shareColumn a.left a.width b.left b.width = false) := by
  simp only [scratchListBad, Bool.or_eq_false_iff, List.any_eq_false, Bool.not_eq_false', decide_eq_true_eq] at h
  obtain ⟨⟨_, widths⟩, apart⟩ := h
  refine ⟨fun x mem => ?_, apart⟩
  have := widths x mem
  simp only [Bool.or_eq_true, decide_eq_true_eq] at this
  omega

theorem scratchKeeps_ordered : ScratchKeeps entriesInOrder where
  fewer := entriesInOrder_sublist
  fade := fadeEntries_inOrder _
  frameEnd w n th c _ := scratchFrameEnd_inOrder w n th c _
  load xs t list room clear h := by
    obtain ⟨widths, apart⟩ := of_scratchListBad list
    refine loadScratches_inOrder xs t h room widths apart fun e mem x memX => ?_
    have := List.any_eq_false.mp (clear e mem) x memX
    simpa using this
  empty := ⟨List.Pairwise.nil, nofun⟩

theorem scratchKeeps_within : ScratchKeeps (fun t => t.length ≤ 32) where
  fewer sub h := sub.length_le.trans h
  fade h := by rwa [List.length_map]
  frameEnd w n th c _ := scratchFrameEnd_length w n th c
  load xs t _ room _ _ := by rwa [loadScratches_length]
  empty := Nat.zero_le _

end Sys2Proof.Machine
end

section
/-! O5, the Intake Port: what one step can do to its numbers, counters and staging buffer, said once; the line count, the order of the
staged lines and their number (R7, R65, R66). -/

namespace Sys2Proof.Machine

/-! ## What the line path makes of the intake -/

/-- The fields that the line count and the staging buffer rest on. -/
def lineFields (i : Intake) := (i.writeLine, i.counters.linesTaken, i.counters.missingLines, i.staging)

/-- R7: the next number consumed by a missing line. -/
def Intake.missed (i : Intake) : Intake :=
  { i with
    writeLine := i.writeLine + 1, counters := { i.counters with missingLines := satAdd i.counters.missingLines 1 } }

/-- R65: the next number consumed by a received line, which joins staging. -/
def Intake.received (px : List Pixel) (i : Intake) : Intake :=
  { i with
    writeLine := i.writeLine + 1, counters := { i.counters with linesTaken := satAdd i.counters.linesTaken 1 },
    staging := i.staging ++ [⟨i.writeLine, px⟩] }

/-- R66: the next number consumed by a received line, which overwrites the newest staged line. -/
def Intake.overran (px : List Pixel) (i : Intake) : Intake :=
  { i with
    writeLine := i.writeLine + 1,
    counters :=
      { i.counters with
        linesTaken := satAdd i.counters.linesTaken 1 - 1, missingLines := satAdd i.counters.missingLines 1 },
    staging := i.staging.dropLast ++ [⟨i.writeLine, px⟩] }

/-- A property of the intake block that rests on `lineFields` and survives the changes of those fields that a step can make. -/
structure IntakeKeeps (Q : Intake → Prop) : Prop where
  congr : ∀ {i j}, Q j → lineFields i = lineFields j → Q i
  missed : ∀ {i}, Q i → Q i.missed
  received : ∀ {i} px, i.staging.length < 4 → Q i → Q (i.received px)
  overran : ∀ {i} px, 4 ≤ i.staging.length → Q i → Q (i.overran px)
  head : ∀ {i : Intake} {e rest}, i.staging = e :: rest → Q i → Q { i with staging := rest }
  emptied : ∀ {i}, Q i → Q { i with staging := [] }
  powerOn : Q Intake.powerOn

theorem countWidth_lines (w n : Nat) (c : IntakeCounters) :
    (countWidth w n c).linesTaken = c.linesTaken ∧ (countWidth w n c).missingLines = c.missingLines := by
  unfold countWidth
  split
  · exact ⟨rfl, rfl⟩
  · split <;> exact ⟨rfl, rfl⟩

theorem startGap_lineFields (s : State) : lineFields (startGap s).intake = lineFields s.intake := by
  unfold startGap
  split <;> rfl

theorem startBreak_lineFields (s : State) : lineFields (startBreak s).intake = lineFields s.intake := by
  unfold startBreak
  split <;> rfl

theorem lineFields_startClose (s : State) : lineFields (startClose s).intake = lineFields s.intake := by
  obtain ⟨_, _, _, _, e⟩ := startClose_changes s
  rw [e]
  rfl

namespace IntakeKeeps

variable {Q : Intake → Prop} (k : IntakeKeeps Q)
include k

theorem consumeMissing (b : Bool) (s : State) (h : Q s.intake) : Q (consumeMissing b s).intake := by
  unfold Machine.consumeMissing
  rw [reportChange_intake, trackLine_intake]
  exact k.missed h

theorem consumeReceived (l : LinePayload) (b : Bool) (s : State) (h : Q s.intake) : Q (consumeReceived l b s).intake := by
  unfold Machine.consumeReceived stageLine
  rw [reportChange_intake, trackLine_intake]
  obtain ⟨taken, missing⟩ := countWidth_lines (intakeWidth s l.pixels.length) l.pixels.length
    { s.intake.counters with linesTaken := satAdd s.intake.counters.linesTaken 1 }
  split
  · rename_i room
    refine k.congr (k.received (i := s.intake) (fitWidth (intakeWidth s l.pixels.length) l.pixels) room h) ?_
    exact Prod.ext rfl (Prod.ext taken (Prod.ext missing rfl))
  · rename_i full
    refine k.congr (k.overran (i := s.intake) (fitWidth (intakeWidth s l.pixels.length) l.pixels) (Nat.le_of_not_lt full) h) ?_
    exact Prod.ext rfl (Prod.ext (congrArg (· - 1) taken) (Prod.ext (congrArg (satAdd · 1) missing) rfl))

theorem takeNumber (l : LinePayload) (b : Bool) (s : State) (h : Q s.intake) : Q (takeNumber l b s).intake := by
  unfold Machine.takeNumber
  split
  · exact k.congr h rfl
  · have expecting : Q (expectAfter l.sequence s).intake := k.congr h rfl
    unfold consumePacket
    split
    · exact k.consumeMissing b _ expecting
    · exact k.consumeReceived l b _ expecting

theorem consumeGap (l : LinePayload) (n : Nat) (s : State) (h : Q s.intake) : Q (consumeGap l n s).intake := by
  induction n generalizing s with
  | zero => exact k.takeNumber l false s h
  | succ n ih =>
    unfold Machine.consumeGap
    split
    · exact k.congr h rfl
    · exact ih _ (k.consumeMissing false s h)

theorem goodLine (l : LinePayload) (s : State) (h : Q s.intake) : Q (goodLine l s).intake := by
  unfold Machine.goodLine
  split
  · exact k.takeNumber l false s h
  · dsimp only
    split
    · exact k.takeNumber l false s h
    · split
      · exact k.consumeGap l _ _ (k.congr h (startGap_lineFields s))
      · split
        · exact k.congr h rfl
        · exact k.takeNumber l true _ (k.congr h (startBreak_lineFields s))

theorem failedLine (s : State) (h : Q s.intake) : Q (failedLine s).intake := by
  unfold Machine.failedLine
  split
  · exact k.congr h rfl
  · exact k.consumeMissing false _ (k.congr h rfl)

theorem receiveLine (payload : Option (List Byte)) (s : State) (h : Q s.intake) : Q (receiveLine payload s).intake := by
  have restarted : Q (restartSilence s).intake := k.congr h rfl
  unfold Machine.receiveLine
  split
  · exact h
  · dsimp only
    split
    · exact k.goodLine _ _ restarted
    · exact k.failedLine _ restarted

/-! ## Commands, aborts and deliveries -/

theorem effect {s t : State} (e : OwnerEffect s t) (h : Q s.intake) : Q t.intake := by
  cases e with
  | plan => exact k.emptied h
  | opened => exact k.congr k.powerOn rfl
  | _ => exact h

theorem carryOut (c : Command) (s : State) (h : Q s.intake) : Q (carryOut c s).2.intake :=
  carryOut_keeps (P := fun s => Q s.intake) (fun _ _ h e => k.effect e h)
    (fun s h _ => k.congr h (lineFields_startClose s)) c s h

theorem runQueue (s : State) (h : Q s.intake) : Q (runQueue s).intake :=
  runQueue_keeps (P := fun s => Q s.intake) (fun _ _ h => h) k.carryOut s h

theorem abortRecord (s : State) (h : Q s.intake) : Q (abortRecord (abortBlocks s)).1.intake := by
  obtain ⟨_, _, e, _⟩ := abortRecord_changes (abortBlocks s)
  rw [e]
  exact k.congr (k.emptied h) rfl

theorem completeTransmission (t : Transmission) (s : State) (h : Q s.intake) : Q (completeTransmission t s).intake := by
  unfold Machine.completeTransmission completeDetached completeSource
  dsimp only
  split
  · split <;> exact h
  · split
    · exact k.runQueue _ h
    · exact h
    · obtain ⟨_, _, _, _, e, _⟩ := departTicket_changes (setDelivery { s.delivery with transmission := none } s)
      refine k.runQueue _ ?_
      rw [e]
      exact h
    · obtain ⟨_, _, e, _⟩ := completeFramePacket_changes (setDelivery { s.delivery with transmission := none } s)
      rw [e]
      exact h

/-! ## The memory channel -/

omit k in
theorem of_engines {s t : State} (same : outsideEngines s = outsideEngines t) (h : Q t.intake) : Q s.intake := by
  have blocks : s.intake = t.intake := congrArg (fun x => x.2.2.1) same
  rwa [blocks]

theorem grant (p : MemoryPlan) (g : Requester) (s : State) (h : Q s.intake) : Q (grant p g s).intake := by
  obtain same | ⟨e, rest, staged, dropped⟩ := grant_outside p g s
  · exact of_engines same h
  · rw [dropped]
    exact of_engines (dropLine_outside rest s) (k.head staged h)

theorem completeIntakeWrite (line slot : Nat) (s : State) (h : Q s.intake) : Q (completeIntakeWrite line slot s).intake := by
  unfold Machine.completeIntakeWrite
  rw [reportChange_intake]
  dsimp only [setMemory]
  split
  · rename_i e rest staged
    split
    · exact k.head staged h
    · exact k.congr h (by rw [← staged]; rfl)
  · exact k.emptied h

theorem stepKeeps : StepKeeps (fun s => Q s.intake) where
  interpreter _ _ h := h
  stall _ _ h := h
  carried := k.carryOut
  abort _ h := k.abortRecord _ h
  abortSoft _ h := k.abortRecord _ h
  soft _ h := k.congr (k.emptied h) rfl
  memoryReady _ h := h
  line := k.receiveLine
  malformed _ h := k.congr h rfl
  controlCrc _ h := k.congr h rfl
  credit _ _ h := h
  choice x run s h _ := by
    obtain ⟨_, e, _⟩ := beginTransmission_changes x run s
    rw [e]
    exact h
  transmitted t s h _ := k.completeTransmission t s h
  classified x s h _ _ := by
    obtain ⟨_, _, _, _, e, _⟩ := classify_changes x s
    refine k.runQueue _ ?_
    rw [e]
    exact h
  fault _ h := h
  silence s h := by
    unfold silenceExpires
    rw [reportChange_intake]
    exact k.congr h rfl
  noticeStall _ h := h
  ringCap _ _ _ h := h
  grant p g _ h _ _ _ := k.grant p g _ h
  intakeWritten line slot _ _ _ _ h _ := ⟨h, fun _ => k.completeIntakeWrite line slot _ h⟩
  lineRead line _ _ _ _ h _ := ⟨h, fun _ => of_engines (lineRead_engines line _ _) h⟩
  referenceRead _ _ _ _ h _ := ⟨h, fun _ => of_engines (repairFetched_engines _ _) h⟩
  referenceWritten _ _ _ _ h _ := ⟨h, fun _ => of_engines (lineStored_engines _) h⟩
  repairTakes copy _ line s h _ _ := of_engines (takeOffered_engines copy line s) h
  gradingTakes raster hand s h _ _ := of_engines (takeRepaired_engines raster hand s) h
  placed _ _ _ _ _ h _ _ _ _ := h
  trunUp _ h := h
  trunDown _ h := h
  tick _ h := h
  markDue _ _ h := h
  tickSilence _ h := k.congr h rfl
  powerOn _ _ _ _ := k.powerOn
  underflow _ h := h

end IntakeKeeps

/-! ## The line count, the staged lines -/

/-- R66, R7: lines taken plus missing lines equals the numbers consumed, below saturation. -/
def lineCount (i : Intake) : Prop := i.writeLine ≤ counterMax → i.counters.linesTaken + i.counters.missingLines = i.writeLine

/-- Counting below saturation adds. -/
theorem satAdd_one_of_le {c n : Nat} (le : c ≤ n) (below : n + 1 ≤ counterMax) : satAdd c 1 = c + 1 :=
  Nat.min_eq_left (by omega)

theorem lineCount_keeps : IntakeKeeps lineCount where
  congr {i j} h same := by
    simp only [lineFields, Prod.mk.injEq] at same
    obtain ⟨line, taken, missing, _⟩ := same
    rw [lineCount, line, taken, missing]
    exact h
  missed {i} h le := by
    have sum := h (Nat.le_of_succ_le le)
    have missing : satAdd i.counters.missingLines 1 = i.counters.missingLines + 1 := satAdd_one_of_le (by omega) le
    simp only [Intake.missed, missing]
    omega
  received {i} px _ h le := by
    have sum := h (Nat.le_of_succ_le le)
    have taken : satAdd i.counters.linesTaken 1 = i.counters.linesTaken + 1 := satAdd_one_of_le (by omega) le
    simp only [Intake.received, taken]
    omega
  overran {i} px _ h le := by
    have sum := h (Nat.le_of_succ_le le)
    have taken : satAdd i.counters.linesTaken 1 = i.counters.linesTaken + 1 := satAdd_one_of_le (by omega) le
    have missing : satAdd i.counters.missingLines 1 = i.counters.missingLines + 1 := satAdd_one_of_le (by omega) le
    simp only [Intake.overran, taken, missing]
    omega
  head _ h := h
  emptied h := h
  powerOn _ := rfl

/-- R65: the staged lines ascend, below the write line. -/
def stagedAscend (i : Intake) : Prop :=
  i.staging.Pairwise (fun a b => a.number < b.number) ∧ ∀ l ∈ i.staging, l.number < i.writeLine

/-- Any part of the staging buffer, in its order, takes the next line at its end. -/
theorem stagedAscend_append {i : Intake} {kept : List SourceLine} (sub : kept.Sublist i.staging) (px : List Pixel)
    (h : stagedAscend i) :
    (kept ++ [SourceLine.mk i.writeLine px]).Pairwise (fun a b => a.number < b.number)
      ∧ ∀ l ∈ kept ++ [SourceLine.mk i.writeLine px], l.number < i.writeLine + 1 := by
  obtain ⟨ascend, below⟩ := h
  have keptBelow : ∀ l ∈ kept, l.number < i.writeLine := fun l mem => below l (sub.subset mem)
  refine ⟨List.pairwise_append.mpr ⟨ascend.sublist sub, List.pairwise_singleton _ _, fun a mem b memB => ?_⟩, fun l mem => ?_⟩
  · rw [List.mem_singleton.mp memB]
    exact keptBelow a mem
  · obtain mem | mem := List.mem_append.mp mem
    · exact (keptBelow l mem).trans (Nat.lt_succ_self _)
    · rw [List.mem_singleton.mp mem]
      exact Nat.lt_succ_self _

theorem stagedAscend_keeps : IntakeKeeps stagedAscend where
  congr {i j} h same := by
    simp only [lineFields, Prod.mk.injEq] at same
    obtain ⟨line, _, _, staging⟩ := same
    rw [stagedAscend, line, staging]
    exact h
  missed h := ⟨h.1, fun l mem => (h.2 l mem).trans (Nat.lt_succ_self _)⟩
  received px _ h := stagedAscend_append (List.Sublist.refl _) px h
  overran px _ h := stagedAscend_append (List.dropLast_sublist _) px h
  head {i e rest} staged h := by
    obtain ⟨ascend, below⟩ := h
    rw [staged] at ascend below
    exact ⟨ascend.of_cons, fun l mem => below l (List.mem_cons_of_mem e mem)⟩
  emptied _ := ⟨List.Pairwise.nil, nofun⟩
  powerOn := ⟨List.Pairwise.nil, nofun⟩

theorem stagedWithin_keeps : IntakeKeeps (fun i => i.staging.length ≤ 4) where
  congr {i j} h same := by
    simp only [lineFields, Prod.mk.injEq] at same
    obtain ⟨_, _, _, staging⟩ := same
    rwa [staging]
  missed h := h
  received px room _ := by simpa [Intake.received] using room
  overran px full h := by
    simp only [Intake.overran, List.length_append, List.length_dropLast, List.length_singleton]
    omega
  head staged h := by
    rw [staged] at h
    exact Nat.le_of_succ_le h
  emptied _ := Nat.zero_le _
  powerOn := Nat.zero_le _

end Sys2Proof.Machine
end

section
/-! O5, the rest: credits, frame packets, contexts and tickets (R12, R14, R42, R149); and the assembly. -/

namespace Sys2Proof.Machine

/-! ## Credits, frame packets, contexts, tickets -/

/-- What the Delivery Port, the Frame Context Queue and the Ticket Queue hold. -/
def heldCounts (s : State) := (s.delivery.pool, s.delivery.queue.length, s.contexts.length, s.reel.tickets.length)

/-- R12, R14, R42, R149: at most 64 credits, 8 frame packets, 32 contexts, 4 tickets. -/
def heldWithin (s : State) : Prop :=
  s.delivery.pool ≤ 64 ∧ s.delivery.queue.length ≤ 8 ∧ s.contexts.length ≤ 32 ∧ s.reel.tickets.length ≤ 4

theorem heldWithin_congr {s t : State} (h : heldWithin t) (same : heldCounts s = heldCounts t) : heldWithin s := by
  simp only [heldCounts, Prod.mk.injEq] at same
  obtain ⟨pool, queue, contexts, tickets⟩ := same
  rwa [heldWithin, pool, queue, contexts, tickets]

theorem contexts_length_of_keys {s t : State} (same : contextKeys s = contextKeys t) : s.contexts.length = t.contexts.length := by
  simpa [contextKeys] using congrArg List.length same

theorem heldWithin_of_engines {s t : State} (same : outsideEngines s = outsideEngines t) (h : heldWithin t) : heldWithin s := by
  simp only [outsideEngines, Prod.mk.injEq] at same
  obtain ⟨_, _, _, _, _, _, reel, _, delivery, keys⟩ := same
  rwa [heldWithin, delivery, reel, contexts_length_of_keys keys]

theorem heldWithin_trackRanges : TrackRanges heldWithin where
  conformance _ _ h := heldWithin_congr h rfl
  repair _ _ h := heldWithin_congr h rfl
  grading _ _ h := heldWithin_congr h rfl
  context n g s keeps h := by
    refine heldWithin_congr h ?_
    rw [heldCounts, contexts_length_of_keys (writeContext_keys n keeps s)]
    rfl
  notice _ _ h := heldWithin_congr h rfl
  form _ h := heldWithin_congr h rfl
  tracker _ _ h _ := heldWithin_congr h rfl
  append c s h _ room := by
    obtain ⟨pool, queue, _, tickets⟩ := h
    exact ⟨pool, queue, by simpa using room, tickets⟩

theorem heldWithin_lineKeeps : LineKeeps heldWithin where
  intake _ _ h := heldWithin_congr h rfl
  stage _ s h := by
    unfold stageLine
    split <;> exact heldWithin_congr h rfl
  track := heldWithin_trackRanges.trackLine
  report s h := heldWithin_of_engines (reportChange_engines s) h
  error _ h := heldWithin_congr h rfl
  stop _ h := heldWithin_congr h rfl

theorem heldWithin_carryOut (c : Command) (s : State) (h : heldWithin s) : heldWithin (carryOut c s).2 := by
  refine carryOut_keeps (fun s t h e => ?_) (fun s h _ => ?_) c s h
  · cases e <;> exact heldWithin_congr h rfl
  · obtain ⟨_, _, _, _, e⟩ := startClose_changes s
    rw [e]
    exact heldWithin_congr h rfl

theorem heldWithin_runQueue (s : State) (h : heldWithin s) : heldWithin (runQueue s) :=
  runQueue_keeps (fun _ _ h => heldWithin_congr h rfl) heldWithin_carryOut s h

/-- R140, R148: an abort's ticket joins where there is room. -/
theorem heldWithin_abortRecord (s : State) (h : heldWithin s) : heldWithin (abortRecord (abortBlocks s)).1 := by
  obtain ⟨_, _, e, _, tickets⟩ := abortRecord_changes (abortBlocks s)
  rw [e]
  obtain ⟨pool, queue, contexts, before⟩ := h
  exact ⟨pool, queue, contexts, tickets before⟩

theorem sendingPackets_length (d : DeliveryPort) : (sendingPackets d).length ≤ 1 := by
  unfold sendingPackets
  split
  · split
    · exact List.length_take_le 1 d.queue
    · exact Nat.zero_le _
  · exact Nat.zero_le _

theorem abortContexts_length (tail : Option Nat) (cs : List FrameContext) : (abortContexts tail cs).length ≤ 1 := by
  unfold abortContexts
  split
  · exact Nat.zero_le _
  · split_ifs <;> simp

/-- R139: a plain abort keeps at most one context, and with the packet in transmission at most its tail. -/
theorem heldWithin_disposePlain {s : State} (h : heldWithin s) : heldWithin (disposePlain s) := by
  obtain ⟨pool, _, _, tickets⟩ := h
  have kept := abortContexts_length (tailInTransmission s.delivery) s.contexts
  have sending := sendingPackets_length s.delivery
  have tails : (abortedTails (abortContexts (tailInTransmission s.delivery) s.contexts)).length ≤ 1 := by
    rw [abortedTails, List.length_map]
    exact (List.length_filter_le _ _).trans kept
  refine ⟨pool, ?_, kept.trans (by decide), tickets⟩
  simp only [disposePlain, List.length_append]
  omega

theorem heldWithin_disposeSoft {s : State} (h : heldWithin s) : heldWithin (disposeSoft s) := by
  obtain ⟨pool, _, _, tickets⟩ := h
  exact ⟨pool, (sendingPackets_length s.delivery).trans (by decide), Nat.zero_le _, tickets⟩

theorem heldWithin_completeTransmission (t : Transmission) (s : State) (h : heldWithin s) :
    heldWithin (completeTransmission t s) := by
  obtain ⟨pool, queue, contexts, tickets⟩ := h
  have tail : s.delivery.queue.tail.length ≤ 8 := by
    rw [List.length_tail]
    omega
  have h : heldWithin (setDelivery { s.delivery with transmission := none } s) := ⟨pool, queue, contexts, tickets⟩
  unfold completeTransmission completeDetached completeSource
  dsimp only
  split
  · split
    · exact ⟨pool, tail, contexts, tickets⟩
    · exact h
  · split
    · exact heldWithin_runQueue _ (heldWithin_congr h rfl)
    · exact heldWithin_congr h rfl
    · obtain ⟨_, _, _, _, e, bound, _⟩ := departTicket_changes (setDelivery { s.delivery with transmission := none } s)
      refine heldWithin_runQueue _ ?_
      rw [e]
      exact ⟨pool, queue, contexts, bound tickets⟩
    · obtain ⟨_, _, e, suffix⟩ := completeFramePacket_changes (setDelivery { s.delivery with transmission := none } s)
      rw [e]
      exact ⟨pool, tail, suffix.length_le.trans contexts, tickets⟩

/-- R12: a grant takes the pool no further than 64. -/
theorem takeGrant_within (n : Option Nat) {d : DeliveryPort} (h : d.pool ≤ 64) : (takeGrant n d).pool ≤ 64 := by
  unfold takeGrant
  split
  · split
    · exact Nat.min_le_right _ _
    · exact h
  · exact h

theorem takeGrant_queue (n : Option Nat) (d : DeliveryPort) : (takeGrant n d).queue = d.queue := by
  unfold takeGrant
  split
  · split <;> rfl
  · rfl

theorem heldWithin_grant (p : MemoryPlan) (g : Requester) (s : State) (h : heldWithin s) : heldWithin (grant p g s) := by
  obtain kept | ⟨_, rest, _, dropped⟩ := grant_outside p g s
  · exact heldWithin_of_engines kept (heldWithin_congr h rfl)
  · rw [dropped]
    exact heldWithin_of_engines (dropLine_outside rest s) (heldWithin_congr h rfl)

theorem heldWithin_stepKeeps : StepKeeps heldWithin where
  interpreter _ _ h := heldWithin_congr h rfl
  stall _ _ h := heldWithin_congr h rfl
  carried := heldWithin_carryOut
  abort s h := heldWithin_abortRecord _ (heldWithin_disposePlain (heldWithin_congr h rfl))
  abortSoft s h := heldWithin_abortRecord _ (heldWithin_disposeSoft (heldWithin_congr h rfl))
  soft s h := heldWithin_congr (heldWithin_disposeSoft h) rfl
  memoryReady _ h := heldWithin_congr h rfl
  line := heldWithin_lineKeeps.receiveLine
  malformed := heldWithin_lineKeeps.malformed
  controlCrc := heldWithin_lineKeeps.controlCrcFailure
  credit n s h := by
    obtain ⟨pool, queue, rest⟩ := h
    exact ⟨takeGrant_within n pool, (takeGrant_queue n s.delivery).symm ▸ queue, rest⟩
  choice x run s h _ := by
    obtain ⟨_, e, keys⟩ := beginTransmission_changes x run s
    obtain ⟨pool, queue, contexts, tickets⟩ := h
    rw [e]
    exact ⟨(Nat.sub_le _ _).trans pool, queue, (contexts_length_of_keys keys).le.trans contexts, tickets⟩
  transmitted t s h _ := heldWithin_completeTransmission t s h
  classified x s h _ _ := by
    obtain ⟨_, _, _, _, e, bound, _⟩ := classify_changes x s
    obtain ⟨pool, queue, contexts, tickets⟩ := h
    refine heldWithin_runQueue _ ?_
    rw [e]
    exact ⟨pool, queue, contexts, bound tickets⟩
  fault _ h := heldWithin_congr h rfl
  silence := heldWithin_lineKeeps.silenceExpires
  noticeStall _ h := heldWithin_congr h rfl
  ringCap _ _ _ h := heldWithin_congr h rfl
  grant p g _ h _ _ _ := heldWithin_grant p g _ (heldWithin_congr h rfl)
  intakeWritten _ _ _ _ _ _ h _ :=
    ⟨heldWithin_congr h rfl, fun _ => heldWithin_of_engines (reportChange_engines _) (heldWithin_congr h rfl)⟩
  lineRead line _ _ _ _ h _ :=
    ⟨heldWithin_congr h rfl, fun _ => heldWithin_trackRanges.lineRead line _ _ (heldWithin_congr h rfl)⟩
  referenceRead _ _ _ _ h _ :=
    ⟨heldWithin_congr h rfl, fun _ => heldWithin_trackRanges.repairFetched _ _ (heldWithin_congr h rfl)⟩
  referenceWritten _ _ _ _ h _ :=
    ⟨heldWithin_congr h rfl, fun _ => heldWithin_trackRanges.lineStored _ (heldWithin_congr h rfl)⟩
  repairTakes copy _ line s h _ _ := heldWithin_trackRanges.takeOffered copy line s h
  gradingTakes raster hand s h _ _ := heldWithin_trackRanges.takeRepaired raster hand s h
  placed _ _ _ _ _ h _ _ _ room := by
    obtain ⟨pool, _, contexts, tickets⟩ := h
    refine ⟨pool, ?_, contexts, tickets⟩
    simpa [placeOwed] using room
  trunUp _ h := heldWithin_congr h rfl
  trunDown _ h := heldWithin_congr h rfl
  tick _ h := heldWithin_congr h rfl
  markDue _ _ h := heldWithin_congr h rfl
  tickSilence _ h := heldWithin_congr h rfl
  powerOn _ _ _ _ := ⟨Nat.zero_le _, Nat.zero_le _, Nat.zero_le _, Nat.zero_le _⟩
  underflow _ h := heldWithin_congr h rfl

/-! ## O5 -/

theorem boundsInv_iff (s : State) :
    boundsInv s ↔ heldWithin s ∧ queueWithin s ∧ s.intake.staging.length ≤ 4
      ∧ (s.grading.cues.length ≤ 64 ∧ s.grading.spliceCues.length ≤ 16) ∧ s.repair.scratches.length ≤ 32 := by
  unfold boundsInv heldWithin queueWithin
  tauto

/-- R12, R14, R42, R65, R100, R121, R149, R150: each collection within its number, one block's property after the other. -/
theorem boundsInv_step {s t : State} (h : boundsInv s) (e : step s = .next t) : boundsInv t := by
  rw [boundsInv_iff] at h ⊢
  obtain ⟨held, queue, staging, cues, scratches⟩ := h
  exact ⟨step_keeps heldWithin_stepKeeps (fun _ _ h => heldWithin_congr h rfl) held e, queueWithin_queueKeeps.step queue e,
    step_keeps stagedWithin_keeps.stepKeeps (fun _ _ h => h) staging e,
    step_keeps cuesKeep_within.gradingKeeps.stepKeeps (fun _ _ h => h) cues e,
    step_keeps scratchKeeps_within.stepKeeps (fun _ _ h => h) scratches e⟩

/-- Settles O5: one property of each block after the other, each kept by every case of a step. -/
theorem collectionsStayBounded : Obligations.CollectionsStayBounded :=
  ⟨fun _ _ => boundsInv_step,
    fun _ _ h e => step_keeps lineCount_keeps.stepKeeps (fun _ _ h => h) h e,
    fun _ _ h e => step_keeps stagedAscend_keeps.stepKeeps (fun _ _ h => h) h e,
    fun _ _ h e => step_keeps cuesKeep_ascend.gradingKeeps.stepKeeps (fun _ _ h => h) h e,
    fun _ _ h e => step_keeps scratchKeeps_ordered.stepKeeps (fun _ _ h => h) h e⟩

end Sys2Proof.Machine
end

section
/-! O1, O3, O9, O20: the step rule, the state after reset, power-on and memory initialization, and the stall timer (R15). -/

namespace Sys2Proof.Machine

/-- Settles O1. -/
theorem stepRunsFrontCommand : Obligations.StepRunsFrontCommand := by
  refine ⟨fun _ _ _ => rfl, fun s empty => ?_⟩
  rw [step, empty]

/-! ## The stall timer (R15) -/

theorem completion_done_or_fault (inside : Bool) (quiet : Prop) [Decidable quiet] (x y : State) (f : Fault) :
    let r : StepResult := if inside = true then (if quiet then done x else done y) else .fault f
    (∃ u, r = done u) ∨ ∃ f, r = .fault f := by
  dsimp only
  split
  · split <;> exact .inl ⟨_, rfl⟩
  · exact .inr ⟨_, rfl⟩

/-- Every step that answers a next state settles the stall timer last. -/
theorem exec_done_or_fault (i : Instr) (s : State) : (∃ u, exec i s = done u) ∨ ∃ f, exec i s = .fault f := by
  cases i with
  | trunAssertion => simp only [exec, execTrunAssertion]; split <;> exact .inl ⟨_, rfl⟩
  | trunDrop =>
    simp only [exec, execTrunDrop]
    split
    · split <;> exact .inl ⟨_, rfl⟩
    · exact .inl ⟨_, rfl⟩
  | arbiterGrant => simp only [exec, execArbiterGrant]; split <;> exact .inl ⟨_, rfl⟩
  | intakeWriteComplete =>
    simp only [exec, execIntakeWriteComplete]
    split
    · exact completion_done_or_fault _ _ _ _ _
    · exact .inl ⟨_, rfl⟩
  | conformanceReadComplete =>
    simp only [exec, execConformanceReadComplete]
    split
    · exact completion_done_or_fault _ _ _ _ _
    · exact .inl ⟨_, rfl⟩
  | referenceReadComplete =>
    simp only [exec, execReferenceReadComplete]
    split
    · exact completion_done_or_fault _ _ _ _ _
    · exact .inl ⟨_, rfl⟩
  | referenceWriteComplete =>
    simp only [exec, execReferenceWriteComplete]
    split
    · exact completion_done_or_fault _ _ _ _ _
    · exact .inl ⟨_, rfl⟩
  | repairTakeLine => simp only [exec, execRepairTakeLine]; split <;> exact .inl ⟨_, rfl⟩
  | gradingTakeLine =>
    simp only [exec, execGradingTakeLine]
    split
    · split <;> exact .inl ⟨_, rfl⟩
    · exact .inl ⟨_, rfl⟩
  | placePacket =>
    simp only [exec, execPlacePacket]
    split
    · split
      · split <;> exact .inl ⟨_, rfl⟩
      · exact .inl ⟨_, rfl⟩
    · exact .inl ⟨_, rfl⟩
  | deliveryChoice =>
    simp only [exec, execDeliveryChoice]
    split
    · split <;> exact .inl ⟨_, rfl⟩
    · exact .inl ⟨_, rfl⟩
  | transmissionComplete => simp only [exec, execTransmissionComplete]; split <;> exact .inl ⟨_, rfl⟩
  | classification => simp only [exec, execClassification]; split <;> exact .inl ⟨_, rfl⟩
  | _ => exact .inl ⟨_, rfl⟩

theorem stallInv_exec {i : Instr} {s t : State} (e : exec i s = .next t) : stallInv t := by
  obtain ⟨u, next⟩ | ⟨f, fault⟩ := exec_done_or_fault i s
  · rw [next] at e
    injection e with e
    exact e ▸ stallInv_settleStall u
  · rw [fault] at e
    nomatch e

theorem mem_noticeClasses (c : NoticeClass) : c ∈ noticeClasses := by
  cases c <;> decide

theorem isPending_iff (n : NoticeState) : isPending n = true ↔ ∃ k, n.latch = .pending k := by
  unfold isPending
  split <;> simp_all

theorem firstPending_isSome_iff (u : NoticeUnit) :
    (firstPending u).isSome = true ↔ ∃ c k, (noticeOf u c).latch = .pending k := by
  rw [firstPending, List.find?_isSome]
  constructor
  · rintro ⟨c, -, pending⟩
    exact ⟨c, (isPending_iff _).mp pending⟩
  · rintro ⟨c, pending⟩
    exact ⟨c, mem_noticeClasses c, (isPending_iff _).mpr pending⟩

theorem packetWaiting_iff (s : State) :
    packetWaiting s = true ↔
      s.interpreter.fillOrder ≠ [] ∨ (∃ c k, (noticeOf s.notices c).latch = .pending k) ∨ s.reel.tickets ≠ []
        ∨ s.delivery.queue ≠ [] := by
  simp only [packetWaiting, Bool.or_eq_true, firstPending_isSome_iff, Bool.not_eq_true', List.isEmpty_eq_false_iff, or_assoc]

theorem settleStall_eq (s : State) :
    settleStall s =
      { s with
        delivery :=
          { s.delivery with
            stall := if s.delivery.pool = 0 ∧ packetWaiting s = true then some (s.delivery.stall.getD 0) else none } } := by
  have stands : (s.delivery.pool = 0 ∧ packetWaiting s = true) ↔ stallStands s = true := by simp [stallStands]
  unfold settleStall
  by_cases h : stallStands s = true
  · rw [if_pos h, if_pos (stands.mpr h)]
    cases timer : s.delivery.stall with
    | none => rfl
    | some n =>
      dsimp only [Option.getD_some]
      rw [← timer]
  · rw [if_neg h, if_neg (stands.not.mpr h)]

/-- Settles O9. -/
theorem stallTimerFollows : Obligations.StallTimerFollows :=
  ⟨fun _ _ _ => stallInv_exec, packetWaiting_iff, settleStall_eq⟩

/-! ## Power-on -/

/-- R15: nothing waits after power-on. -/
theorem stallInv_powerOn (size epoch : Nat) (l : List Instr) : stallInv { State.powerOn size epoch with pending := l } := rfl

theorem exec_powerOnReset (straps : BitVec 2) (s : State) :
    exec (.powerOnReset straps) s =
      .next { State.powerOn (strappedSize straps) (s.frameMemory.epoch + 1) with pending := s.pending } :=
  congrArg Host.Outcome.next (settleStall_of_stallInv (stallInv_powerOn _ _ _))

/-- Table 1-6. -/
theorem strappedSize_eq (straps : BitVec 2) :
    strappedSize straps = match straps with
      | 0#2 => 536870912
      | 1#2 => 1073741824
      | 2#2 => 2147483648
      | _ => 4294967296 := by
  revert straps
  decide

/-- Settles O20. -/
theorem powerOnAndInitialization : Obligations.PowerOnAndInitialization := by
  refine ⟨fun straps s => ⟨_, exec_powerOnReset straps s, ?_⟩, fun _ => rfl⟩
  have size := strappedSize_eq straps
  exact ⟨rfl, rfl, rfl, rfl, rfl, rfl, size, rfl, rfl, rfl, rfl, rfl, rfl, rfl, rfl, rfl, rfl, rfl, rfl, rfl, rfl, rfl,
    fun c => by cases c <;> rfl, rfl⟩

/-! ## The state after reset -/

/-- Settles O3. -/
theorem resetMeetsInvariants : Obligations.ResetMeetsInvariants := by
  refine ⟨⟨keysRise_nil, keysRise_nil⟩, (fun _ plan => nomatch plan), ?_, ?_, rfl, releaseSets_inv Grading.powerOn, rfl, ?_,
    lineCount_keeps.powerOn, clampsInv_powerOn _ _, stagedAscend_keeps.powerOn, cuesKeep_ascend.empty, scratchKeeps_ordered.empty⟩
  · exact (boundsInv_iff _).mpr ⟨⟨Nat.zero_le _, Nat.zero_le _, Nat.zero_le _, Nat.zero_le _⟩, Nat.zero_le _, Nat.zero_le _,
      cuesKeep_within.empty, Nat.zero_le _⟩
  · exact (framesInv_iff _).mpr ⟨List.Pairwise.nil, nofun, fun running => absurd rfl running⟩
  · exact repliesInv_of_idle interpreterInv_powerOn rfl ⟨nofun, nofun⟩

end Sys2Proof.Machine
end

section
/-! O15, O21, O22, O23, O24: dropped packets, credits, TRUN, the timers, the ring cap and the step output. -/

namespace Sys2Proof.Machine

/-! ## Packets and credits -/

theorem exec_controlPacket_eq {run : List Byte} {p : Option (List Byte)} (s : State) (arrives : arrivalOf run = .control p) :
    exec (.controlPacket run) s = .next (settleStall (receiveControl p s)) := by
  simp only [exec, execControlPacket, receivePacket, arrives]
  rfl

theorem exec_linePacket_eq {run : List Byte} {p : Option (List Byte)} (s : State) (arrives : arrivalOf run = .line p) :
    exec (.linePacket run) s = .next (settleStall (receiveLine p s)) := by
  simp only [exec, execLinePacket, receivePacket, arrives]
  rfl

/-- Settles O15. -/
theorem packetsDropped : Obligations.PacketsDropped := by
  refine ⟨fun run x s arrives closed => ?_, fun run s arrives => ?_, fun run s arrives => exec_controlPacket_eq s arrives,
    fun run p s arrives length => ?_⟩
  · rw [exec_linePacket_eq s arrives, receiveLine, closed]
  · simp only [exec, execUnknownKindPacket, receivePacket, arrives]
    rfl
  · rw [exec_controlPacket_eq s arrives, receiveControl, if_pos length]
    rfl

/-- R166: a built grant is read back. -/
theorem grantCount_grantRun (n : Byte) : grantCount (grantRun n) = some n.toNat := by
  refine (if_pos ⟨rfl, ?_⟩).trans rfl
  exact halfAt_halfBytes (crc16 [n, 0#8]) []

theorem takeGrant_bad {n : Option Nat} (d : DeliveryPort) (bad : ∀ k, n = some k → ¬(1 ≤ k ∧ k ≤ 64)) :
    takeGrant n d = { d with badGrants := satAdd d.badGrants 1 } := by
  unfold takeGrant
  split
  · exact if_neg (bad _ rfl)
  · rfl

theorem min_eq_ite_le (n k : Nat) : min n k = if n ≤ k then n else k := by
  split <;> omega

/-- Settles O21. -/
theorem creditsGranted : Obligations.CreditsGranted := by
  refine ⟨fun n s low high => ?_, fun run s bad => ?_⟩
  · simp only [exec, execCreditGrant, grantCount_grantRun, takeGrant, if_pos (And.intro low high), addCredits, min_eq_ite_le]
    rfl
  · have refused : takeGrant (grantCount run) s.delivery =
        { s.delivery with badGrants := satAdd s.delivery.badGrants 1 } := by
      refine takeGrant_bad _ fun k count => ?_
      unfold grantCount at count
      split at count
      · injection count with count
        obtain length | check | zero | above := bad <;> grind
      · nomatch count
    simp only [exec, execCreditGrant, refused]
    rfl

/-! ## What steps leave of the Pace Generator -/

/-- What every step but a tick, a TRUN row, an underflow and a power-on leaves of the Pace Generator `p`: the held TRUN level, its sample,
what RUNNING counters hold; a reading for the ring cap stands or is taken. -/
def paceStands (p q : Pace) : Prop :=
  (∀ l, p.counters = some l → q.counters = some l) ∧ q.trun = p.trun ∧ q.due.sample = p.due.sample
    ∧ (q.due.ringCap = p.due.ringCap ∨ q.due.ringCap = none)

theorem paceStands_refl (p : Pace) : paceStands p p := ⟨fun _ => id, rfl, rfl, .inl rfl⟩

theorem paceStands_congr {p q r : Pace} (h : paceStands p q) (counters : r.counters = q.counters) (trun : r.trun = q.trun)
    (due : r.due = q.due) : paceStands p r := by
  obtain ⟨running, level, sample, reading⟩ := h
  exact ⟨fun l e => counters.trans (running l e), trun.trans level, due ▸ sample, due ▸ reading⟩

/-- R51, R52: forming the effective level. -/
theorem paceStands_withLevel {p q : Pace} (h : paceStands p q) (n : Nat) : paceStands p (withLevel n q) := by
  obtain ⟨running, level, sample, reading⟩ := h
  refine ⟨fun l e => withLevel_running n q l (running l e), (withLevel_trun n q).trans level, ?_, ?_⟩
  · rwa [withLevel_due]
  · rwa [withLevel_due]

theorem paceStands_form {p : Pace} {s : State} (h : paceStands p s.pace) : paceStands p (formEffective s).pace :=
  paceStands_withLevel h _

theorem paceStands_forceStop {p : Pace} {s : State} (h : paceStands p s.pace) : paceStands p (forceStop s).pace := by
  refine paceStands_form ?_
  exact paceStands_congr h rfl rfl rfl

theorem pace_of_engines {s t : State} (h : outsideEngines s = outsideEngines t) : s.pace = t.pace :=
  congrArg (fun x => x.2.2.2.2.1) h

section
variable {p : Pace}

theorem paceStands_trackKeeps : TrackKeeps (fun s => paceStands p s.pace) where
  same s t h k := by
    have same : s.pace = t.pace := congrArg (fun x => x.2.2.2.2.1) h
    rwa [same]
  tracker _ _ h := h
  contexts _ _ h := h
  notice _ _ h := h
  form _ h := paceStands_withLevel h _

theorem paceStands_engines {s t : State} (same : outsideEngines s = outsideEngines t) (h : paceStands p t.pace) :
    paceStands p s.pace := by
  rwa [pace_of_engines same]

theorem paceStands_lineKeeps : LineKeeps (fun s => paceStands p s.pace) where
  intake _ _ h := h
  stage _ s h := by
    unfold stageLine
    split <;> exact h
  track := paceStands_trackKeeps.trackLine
  report s h := paceStands_engines (reportChange_engines s) h
  error _ h := h
  stop _ h := paceStands_forceStop h

theorem paceStands_effect {s t : State} (h : paceStands p s.pace) (e : OwnerEffect s t) : paceStands p t.pace := by
  cases e with
  | pace q held level due => exact paceStands_withLevel (paceStands_congr h held level due) _
  | timing => exact paceStands_congr h rfl rfl rfl
  | opened =>
    obtain ⟨running, level, sample, _⟩ := h
    refine paceStands_form ?_
    exact ⟨running, level, sample, .inr rfl⟩
  | _ => exact h

theorem paceStands_startClose (s : State) (h : paceStands p s.pace) : paceStands p (startClose s).pace := by
  unfold startClose startDrain
  dsimp only
  split
  · exact paceStands_form h
  · refine paceStands_form (paceStands_forceStop ?_)
    exact h

theorem paceStands_carryOut (c : Command) (s : State) (h : paceStands p s.pace) : paceStands p (carryOut c s).2.pace :=
  carryOut_keeps (P := fun s => paceStands p s.pace) (fun _ _ => paceStands_effect) (fun s h _ => paceStands_startClose s h) c s h

theorem paceStands_runQueue (s : State) (h : paceStands p s.pace) : paceStands p (runQueue s).pace :=
  runQueue_keeps (P := fun s => paceStands p s.pace) (fun _ _ h => h) paceStands_carryOut s h

theorem paceStands_abortRecord (s : State) (h : paceStands p s.pace) : paceStands p (abortRecord (abortBlocks s)).1.pace := by
  obtain ⟨_, _, e, _⟩ := abortRecord_changes (abortBlocks s)
  rw [e]
  exact paceStands_forceStop h

theorem paceStands_classify (x : ReelIdentity) (s : State) (h : paceStands p s.pace) : paceStands p (classify x s).pace := by
  unfold classify
  dsimp only
  split <;> exact paceStands_form h

theorem paceStands_departTicket (s : State) (h : paceStands p s.pace) : paceStands p (departTicket s).pace := by
  unfold departTicket
  dsimp only
  split
  · exact paceStands_form h
  · exact h

theorem paceStands_completeTransmission (t : Transmission) (s : State) (h : paceStands p s.pace) :
    paceStands p (completeTransmission t s).pace := by
  unfold completeTransmission completeDetached completeSource
  dsimp only
  split
  · split <;> exact h
  · split
    · exact paceStands_runQueue _ h
    · exact h
    · exact paceStands_runQueue _ (paceStands_departTicket _ h)
    · obtain ⟨_, _, e, _⟩ := completeFramePacket_changes (setDelivery { s.delivery with transmission := none } s)
      rw [e]
      exact h

theorem paceStands_grant (q : MemoryPlan) (g : Requester) (s : State) (h : paceStands p s.pace) :
    paceStands p (grant q g s).pace := by
  obtain kept | ⟨_, rest, _, dropped⟩ := grant_outside q g s
  · exact paceStands_engines kept h
  · rw [dropped]
    exact paceStands_engines (dropLine_outside rest s) h

theorem paceStands_spanKeeps : SpanKeeps (fun s => paceStands p s.pace) where
  interpreter _ _ h := h
  stall _ _ h := h
  carried := paceStands_carryOut
  abort _ h := paceStands_abortRecord _ h
  abortSoft _ h := paceStands_abortRecord _ h
  soft s h := by
    refine paceStands_form ?_
    exact paceStands_congr h rfl rfl rfl
  memoryReady _ h := h
  line := paceStands_lineKeeps.receiveLine
  malformed _ h := h
  controlCrc _ h := h
  credit _ _ h := h
  choice x run s h _ := by
    obtain ⟨_, e, _⟩ := beginTransmission_changes x run s
    rw [e]
    exact h
  transmitted t s h _ := paceStands_completeTransmission t s h
  classified x s h _ _ := paceStands_runQueue _ (paceStands_classify x s h)
  fault s h := by
    refine paceStands_form ?_
    exact paceStands_congr h rfl rfl rfl
  silence := paceStands_lineKeeps.silenceExpires
  noticeStall _ h := h
  ringCap _ _ s h := by
    obtain ⟨running, level, sample, _⟩ := h
    refine paceStands_form ?_
    exact ⟨running, level, sample, .inr rfl⟩
  grant q g _ h _ _ _ := paceStands_grant q g _ h
  intakeWritten _ _ _ _ _ _ h _ := ⟨h, fun _ => paceStands_engines (reportChange_engines _) h⟩
  lineRead line _ _ _ _ h _ := ⟨h, fun _ => paceStands_engines (lineRead_engines line _ _) h⟩
  referenceRead _ _ _ _ h _ := ⟨h, fun _ => paceStands_engines (repairFetched_engines _ _) h⟩
  referenceWritten _ _ _ _ h _ := ⟨h, fun _ => paceStands_engines (lineStored_engines _) h⟩
  repairTakes copy _ line s h _ _ := paceStands_engines (takeOffered_engines copy line s) h
  gradingTakes raster hand s h _ _ := paceStands_engines (takeRepaired_engines raster hand s) h
  placed _ _ _ _ _ h _ _ _ _ := h

end

/-! ## The rows of the Pace Generator -/

/-- R55: a fault forms the level 0. -/
theorem transportFault_eq (s : State) :
    transportFault s =
      raise .transportFault
        { s with pace := { s.pace with faultLatch := true, requested := 0, effective := 0, spinUp := none } } := by
  unfold transportFault formEffective
  rw [formedLevel_of_stopped _ (.inl rfl)]
  rfl

theorem exec_trunDrop_eq (s : State) :
    exec .trunDrop s =
      .next (settleStall (if sampleChanges false s.pace = true then
        (if 1 ≤ s.pace.effective then transportFault (setPace (holdSample false s.pace) s)
          else setPace (holdSample false s.pace) s)
        else s)) := by
  simp only [exec, execTrunDrop]
  split_ifs <;> rfl

theorem exec_trunAssertion_eq (s : State) :
    exec .trunAssertion s =
      .next (settleStall (if sampleChanges true s.pace = true then setPace { holdSample true s.pace with spinUp := none } s
        else s)) := by
  simp only [exec, execTrunAssertion]
  split <;> rfl

/-- What a tick leaves: what it took before it counted, then its own readings. -/
theorem exec_timeBaseTick_pace {s t : State} (e : exec .timeBaseTick s = .next t) :
    ∃ q, paceStands s.pace q ∧ t.pace.counters = q.counters ∧ t.pace.trun = q.trun ∧ t.pace.due.sample = true := by
  rw [exec_timeBaseTick] at e
  injection e with e
  refine ⟨(takeDue s).pace, paceStands_spanKeeps.takeDue s (paceStands_refl s.pace), ?_⟩
  rw [← e, settleStall_pace, markDue_pace, countTick_pace]
  exact ⟨rfl, rfl, rfl⟩

end Sys2Proof.Machine
end

section
/-! O22, O23, O24: TRUN, the timers and ticks, the ring cap and the step output. -/

namespace Sys2Proof.Machine

/-! ## TRUN (R46, R53 to R55) -/

theorem sampleChanges_true_iff (p : Pace) : sampleChanges true p = true ↔ p.due.sample = true ∧ p.trun = false := by
  simp [sampleChanges]

theorem sampleChanges_false_iff (p : Pace) : sampleChanges false p = true ↔ p.due.sample = true ∧ p.trun = true := by
  simp [sampleChanges]

/-- R46: the held level and the sample stand through every step but the TRUN rows, a tick and a power-on. -/
theorem trun_stands {i : Instr} {s t : State} (up : i ≠ .trunAssertion) (down : i ≠ .trunDrop) (tick : i ≠ .timeBaseTick)
    (power : ∀ straps, i ≠ .powerOnReset straps) (e : exec i s = .next t) :
    t.pace.trun = s.pace.trun ∧ t.pace.due.sample = s.pace.due.sample := by
  by_cases under : i = .dividerUnderflow
  · subst under
    injection e with e
    rw [← e, settleStall_pace, setPace_pace]
    unfold underflow
    split <;> exact ⟨rfl, rfl⟩
  · obtain ⟨_, level, sample, _⟩ := paceStands_spanKeeps.exec i s t (paceStands_refl s.pace) under up down tick power e
    exact ⟨level, sample⟩

/-- Settles O22. -/
theorem trunEvents : Obligations.TrunEvents := by
  refine ⟨fun s sample level => ?_, fun s sample level => ⟨fun rate => ?_, fun stopped => ?_⟩, fun s => ⟨fun idle => ?_, fun idle => ?_⟩,
    fun s t e => ?_, fun i s t up down tick power e => trun_stands up down tick power e⟩
  · rw [exec_trunAssertion_eq, if_pos ((sampleChanges_true_iff _).mpr ⟨sample, level⟩)]
    rfl
  · rw [exec_trunDrop_eq, if_pos ((sampleChanges_false_iff _).mpr ⟨sample, level⟩), if_pos rate, transportFault_eq]
    rfl
  · have zero : s.pace.effective = 0 := by
      obtain zero | ⟨still, formed⟩ := stopped
      · exact zero
      · exact formed.trans (formedLevel_of_stopped s (.inr still))
    rw [exec_trunDrop_eq, if_pos ((sampleChanges_false_iff _).mpr ⟨sample, level⟩), if_neg (by omega)]
    rfl
  · rw [exec_trunAssertion_eq, if_neg]
    rw [sampleChanges_true_iff]
    grind
  · rw [exec_trunDrop_eq, if_neg]
    rw [sampleChanges_false_iff]
    grind
  · obtain ⟨q, ⟨_, level, _⟩, _, trun, sample⟩ := exec_timeBaseTick_pace e
    exact ⟨sample, trun.trans level⟩

/-! ## Ticks (R45) -/

/-- R45: nothing of what the tick before gave is read once it is taken. -/
theorem markDue_countTick_due (d : TickDue) (s : State) :
    markDue (countTick (setPace { s.pace with due := d } s)) = markDue (countTick s) := by
  by_cases ten : (s.pace.tenth + 1) % 10 = 0
  · rw [countTick_ten ten, countTick_ten (s := setPace { s.pace with due := d } s) ten]
    rfl
  · rw [countTick_one ten, countTick_one (s := setPace { s.pace with due := d } s) ten]
    rfl

theorem settleStall_markDue (s : State) : settleStall (markDue s) = setPace { s.pace with due := dueNow s } (settleStall s) :=
  settleStall_setPace _ s

section
variable {s : State}
  (nothing : s.pace.due.spinUp = false ∧ s.pace.due.ringCap = none ∧ s.pace.due.silence = false ∧ s.pace.due.stall = false)
include nothing

theorem exec_timeBaseTick_one (below : s.pace.tenth < 9) :
    exec .timeBaseTick s = .next (settleStall
      { s with
        pace :=
          { s.pace with
            tenth := s.pace.tenth + 1, spinUp := tickTimer s.pace.spinUp,
            due := ⟨true, atTimeout (tickTimer s.pace.spinUp) (spinUpTicks s.pace), none, false, false⟩ } }) := by
  have moved : (s.pace.tenth + 1) % 10 = s.pace.tenth + 1 := Nat.mod_eq_of_lt (by omega)
  have counted : countTick (settleStall s) =
      setPace { s.pace with tenth := s.pace.tenth + 1, spinUp := tickTimer s.pace.spinUp } (settleStall s) := by
    rw [countTick_one (by rw [settleStall_pace, moved]; omega), settleStall_pace, moved]
  have due : dueNow (countTick (settleStall s)) =
      ⟨true, atTimeout (tickTimer s.pace.spinUp) (spinUpTicks s.pace), none, false, false⟩ := by
    rw [counted]
    exact dueNow_one (Nat.succ_ne_zero _)
  rw [exec_timeBaseTick, takeDue_none nothing, settleStall_markDue, due, counted, settleStall_setPace, settleStall_settleStall]
  exact congrArg Host.Outcome.next (settleStall_setPace _ s).symm

theorem exec_timeBaseTick_ten (tenth : s.pace.tenth = 9) (settled : stallInv s) :
    exec .timeBaseTick s = .next
      { s with
        pace :=
          { s.pace with
            tenth := 0, spinUp := tickTimer s.pace.spinUp,
            due :=
              ⟨true, atTimeout (tickTimer s.pace.spinUp) (spinUpTicks s.pace), ringReading s,
                atTimeout (tickTimer s.intake.silence) (silenceTicks s.pace),
                atTimeout (tickTimer s.delivery.stall) (stallTicks s.pace)⟩ },
        intake := { s.intake with silence := tickTimer s.intake.silence },
        delivery := { s.delivery with stall := tickTimer s.delivery.stall } } := by
  have counted := countTick_ten (s := s) (by rw [tenth])
  have due := dueNow_ten (s := countTick s) (by rw [counted]; rfl)
  rw [exec_timeBaseTick, takeDue_none nothing, settleStall_of_stallInv settled, markDue, due, counted]
  refine congrArg Host.Outcome.next ((settleStall_of_stallInv ?_).trans rfl)
  exact (Option.isSome_map (f := (· + 1)) (x := s.delivery.stall)).trans settled

end

/-- R45, LE 10: the rows that take what a tick gave, one after the other, and then the tick count what the tick alone does. -/
theorem tick_after_rows (s : State) :
    ∃ a b c d t, exec .spinUpExpiry s = .next a ∧ exec .ringCapEvaluation a = .next b
      ∧ exec .silenceTimerExpiry b = .next c ∧ exec .stallTimerExpiry c = .next d ∧ exec .timeBaseTick s = .next t
      ∧ exec .timeBaseTick { d with pace := { d.pace with due := ⟨false, false, none, false, false⟩ } } = .next t := by
  refine ⟨_, _, _, takeDue s, _, rfl, rfl, rfl, rfl, rfl, ?_⟩
  rw [exec_timeBaseTick, takeDue_none ⟨rfl, rfl, rfl, rfl⟩]
  have settled : settleStall { takeDue s with pace := { (takeDue s).pace with due := ⟨false, false, none, false, false⟩ } } =
      setPace { (takeDue s).pace with due := ⟨false, false, none, false, false⟩ } (takeDue s) :=
    (settleStall_setPace _ (takeDue s)).trans (congrArg (setPace _) (settleStall_takeDue s))
  rw [settled, markDue_countTick_due]

/-! ## Expiries (R11, R15, R53) -/

theorem atTimeout_eq_false_iff (timer : Option Nat) (ticks : Nat) :
    atTimeout timer ticks = false ↔ ∀ c, timer = some c → c < ticks := by
  cases timer <;> simp [atTimeout]

theorem takeSpinUpExpiry_of_not (s : State) (h : s.pace.due.spinUp = false ∨ ∀ c, s.pace.spinUp = some c → c < spinUpTicks s.pace) :
    takeSpinUpExpiry s = s := by
  refine if_neg ?_
  simpa [spinUpDue, atTimeout_eq_false_iff, or_iff_not_imp_left] using h

theorem takeSilenceExpiry_of_not (s : State)
    (h : s.pace.due.silence = false ∨ ∀ c, s.intake.silence = some c → c < silenceTicks s.pace) : takeSilenceExpiry s = s := by
  refine if_neg ?_
  simpa [silenceDue, atTimeout_eq_false_iff, or_iff_not_imp_left] using h

theorem takeStallExpiry_of_not (s : State)
    (h : s.pace.due.stall = false ∨ ∀ c, s.delivery.stall = some c → c < stallTicks s.pace) : takeStallExpiry s = s := by
  refine if_neg ?_
  simpa [stallDue, atTimeout_eq_false_iff, or_iff_not_imp_left] using h

theorem atTimeout_of_le {timer : Option Nat} {c ticks : Nat} (running : timer = some c) (reached : ticks ≤ c) :
    atTimeout timer ticks = true := by
  simp [atTimeout, running, reached]

/-- Settles O23. -/
theorem timersAndTicks : Obligations.TimersAndTicks := by
  refine ⟨fun s below nothing => ⟨fun tenth => ?_, fun tenth settled => ?_⟩,
    ⟨fun s c running reached due => ?_, fun s c running reached due => ?_, fun s c running reached due => ?_⟩,
    fun s => ⟨fun h => ?_, fun h => ?_, fun h => ?_⟩, tick_after_rows⟩
  · exact (exec_timeBaseTick_one nothing (by omega)).trans rfl
  · exact (exec_timeBaseTick_ten nothing tenth settled).trans (by rw [ringReading_eq]; rfl)
  · have takes : takeSpinUpExpiry s = transportFault s := if_pos (by simp [spinUpDue, due, atTimeout_of_le running reached, spinUpTicks])
    simp only [exec, execSpinUpExpiry, takes, transportFault_eq]
    rfl
  · have takes : takeSilenceExpiry s = silenceExpires s := if_pos (by simp [silenceDue, due, atTimeout_of_le running reached, silenceTicks])
    simp only [exec, execSilenceTimerExpiry, takes]
    rfl
  · have takes : takeStallExpiry s = raise .deliveryStall (setDelivery { s.delivery with stall := some 0 } s) :=
      if_pos (by simp [stallDue, due, atTimeout_of_le running reached, stallTicks])
    simp only [exec, execStallTimerExpiry, takes]
    rfl
  · simp only [exec, execSpinUpExpiry, takeSpinUpExpiry_of_not s h]
    rfl
  · simp only [exec, execSilenceTimerExpiry, takeSilenceExpiry_of_not s h]
    rfl
  · simp only [exec, execStallTimerExpiry, takeStallExpiry_of_not s h]
    rfl

/-! ## Needed line, protect boundary, occupancy (R43, R62, R63) -/

theorem earliestNeeded_isEarliestNeeded (s : State) : isEarliestNeeded s (earliestNeeded s.tracker s.intake.writeLine) := by
  unfold earliestNeeded
  refine ⟨fun mode => ?_, fun mode => ⟨fun empty => ?_, fun c rest first => ?_⟩, fun mode => ⟨fun top pending => ?_, fun w topless next => ?_⟩⟩
  · rw [mode]
  · rw [mode, empty]
  · rw [mode, first]
  · obtain mode | mode := mode <;> rw [mode, pending]
  · obtain mode | mode := mode <;> rw [mode, topless, next]

/-- R62: a context that stands behind none but finished and aborted ones is the oldest unfinished one. -/
theorem oldestUnfinished_eq_some {s : State} {before after : List FrameContext} {c : FrameContext}
    (queue : s.contexts = before ++ c :: after) (unfinished : c.finished = false) (live : c.aborted = false)
    (ended : ∀ x ∈ before, x.finished = true ∨ x.aborted = true) : oldestUnfinished s = some c := by
  rw [oldestUnfinished, List.find?_eq_some_iff_append]
  refine ⟨by simp [unfinished, live], before, after, queue, fun x mem => ?_⟩
  obtain finished | aborted := ended x mem
  · simp [finished]
  · simp [aborted]

theorem oldestUnfinished_eq_none {s : State} (ended : ∀ x ∈ s.contexts, x.finished = true ∨ x.aborted = true) :
    oldestUnfinished s = none := by
  rw [oldestUnfinished, List.find?_eq_none]
  intro x mem
  obtain finished | aborted := ended x mem
  · simp [finished]
  · simp [aborted]

/-! ## The ring cap and the step output (R50, R52) -/

/-- Table 4-2. -/
theorem newRingCap_eq (p : Pace) (r read : Nat) :
    newRingCap p r read =
      if r - 1 ≤ read then 0
      else if r * p.high / 100 ≤ read then (if p.ringCap ≤ 1 then 1 else p.ringCap - 1)
      else if read ≤ r * p.low / 100 then (if 7 ≤ p.ringCap then 7 else p.ringCap + 1)
      else p.ringCap := by
  have down : max (p.ringCap - 1) 1 = if p.ringCap ≤ 1 then 1 else p.ringCap - 1 := by
    split <;> omega
  have up : min (p.ringCap + 1) 7 = if 7 ≤ p.ringCap then 7 else p.ringCap + 1 := by
    split <;> omega
  rw [newRingCap, down, up]

theorem takeRingCapEvaluation_of_waiting {s : State} {p : MemoryPlan} {read : Nat}
    (moves : s.reel.state = .opened ∨ s.reel.state = .closing) (plan : s.frameMemory.plan = some p)
    (waits : s.pace.due.ringCap = some read) : takeRingCapEvaluation s = evaluateRingCap p read s := by
  rw [takeRingCapEvaluation, (reelMoves_iff s).mpr moves, plan, waits]

theorem takeRingCapEvaluation_of_not {s : State}
    (h : s.reel.state = .noReel ∨ s.reel.state = .ticketWait ∨ s.pace.due.ringCap = none) : takeRingCapEvaluation s = s := by
  obtain ⟨p, read, moves, _, waits, _⟩ | ⟨_, same⟩ := takeRingCapEvaluation_cases s
  · rw [reelMoves_iff] at moves
    obtain h | h | h := h <;> simp_all
  · exact same

/-- R50: no step but a tick gives a reading for the ring cap. -/
theorem ringCap_none {i : Instr} {s t : State} (untaken : s.pace.due.ringCap = none) (tick : i ≠ .timeBaseTick) (e : exec i s = .next t) :
    t.pace.due.ringCap = none := by
  by_cases under : i = .dividerUnderflow
  · subst under
    injection e with e
    rw [← e, settleStall_pace, setPace_pace]
    unfold underflow
    split <;> exact untaken
  by_cases up : i = .trunAssertion
  · subst up
    rw [exec_trunAssertion_eq] at e
    injection e with e
    rw [← e, settleStall_pace]
    split <;> exact untaken
  by_cases down : i = .trunDrop
  · subst down
    rw [exec_trunDrop_eq] at e
    injection e with e
    rw [← e, settleStall_pace, transportFault_eq]
    split
    · split <;> exact untaken
    · exact untaken
  by_cases power : ∃ straps, i = .powerOnReset straps
  · obtain ⟨straps, rfl⟩ := power
    rw [exec_powerOnReset] at e
    injection e with e
    rw [← e]
    rfl
  · obtain ⟨_, _, _, same | taken⟩ := paceStands_spanKeeps.exec i s t (paceStands_refl s.pace) under up down tick
      (fun straps h => power ⟨straps, h⟩) e
    · exact same.trans untaken
    · exact taken

/-- R52: RUNNING counters hold what they hold through every step but an underflow and a power-on. -/
theorem counters_stand {i : Instr} {s t : State} {l : LoadedLevel} (running : s.pace.counters = some l) (under : i ≠ .dividerUnderflow)
    (power : ∀ straps, i ≠ .powerOnReset straps) (e : exec i s = .next t) : t.pace.counters = some l := by
  by_cases up : i = .trunAssertion
  · subst up
    rw [exec_trunAssertion_eq] at e
    injection e with e
    rw [← e, settleStall_pace]
    split <;> exact running
  by_cases down : i = .trunDrop
  · subst down
    rw [exec_trunDrop_eq] at e
    injection e with e
    rw [← e, settleStall_pace, transportFault_eq]
    split
    · split <;> exact running
    · exact running
  by_cases tick : i = .timeBaseTick
  · subst tick
    obtain ⟨q, ⟨holds, _⟩, counters, _⟩ := exec_timeBaseTick_pace e
    exact counters.trans (holds l running)
  · obtain ⟨holds, _⟩ := paceStands_spanKeeps.exec i s t (paceStands_refl s.pace) under up down tick power e
    exact holds l running

/-- Settles O24. -/
theorem ringCapAndUnderflow : Obligations.RingCapAndUnderflow := by
  refine ⟨fun s => ⟨earliestNeeded_isEarliestNeeded s, fun before c after queue unfinished live ended => ?_, fun ended => ?_,
      fun le => ?_, fun le => ?_⟩,
    ⟨fun s p read moves plan waits => ?_, fun s h => ?_, fun i s t => ringCap_none⟩, fun s => ⟨fun l running => ?_, fun stopped => ?_⟩,
    fun i s t l => counters_stand⟩
  · rw [protectBoundary, oldestUnfinished_eq_some queue unfinished live ended]
  · rw [protectBoundary, oldestUnfinished_eq_none ended]
  · rw [occupancy]
    omega
  · rw [occupancy]
    omega
  · simp only [exec, execRingCapEvaluation, takeRingCapEvaluation_of_waiting moves plan waits, evaluateRingCap, newRingCap_eq]
    rfl
  · simp only [exec, execRingCapEvaluation, takeRingCapEvaluation_of_not h]
    rfl
  · simp only [exec, execDividerUnderflow, underflow_running _ _ running]
    rfl
  · simp only [exec, execDividerUnderflow, underflow_stopped _ stopped]
    rfl

end Sys2Proof.Machine
end

section
/-! O28, O29, O30, O31: the configuration commands. Each is its owner's refusals in order, then one change of one block. -/

namespace Sys2Proof.Machine

/-! ## FORMAT_SET (R72) -/

theorem formatInRange_iff (f : Format) :
    formatInRange f = true ↔ trackingRanges f.tracking ∧ pathRanges f.conformance f.repair := by
  simp [formatInRange, trackingInRange, conformanceInRange, repairInRange, trackingRanges, pathRanges, and_assoc]

theorem geometryFits_iff (f : ConformanceFields) (p : MemoryPlan) : geometryFits f p = true ↔ geometryHolds f p := by
  simp [geometryFits, geometryHolds]

theorem geometryAccepted_iff (s : State) (f : Format) :
    geometryAccepted s f = true ↔ ∀ p, s.frameMemory.plan = some p → geometryHolds f.conformance p := by
  unfold geometryAccepted
  cases s.frameMemory.plan <;> simp [geometryFits_iff]

theorem reelUsesFormat_iff (s : State) (n : Fin 8) :
    reelUsesFormat s n = true ↔ s.reel.state ≠ .noReel ∧ s.reel.identity.map (·.format) = some n := by
  unfold reelUsesFormat
  cases s.reel.identity <;> simp

theorem carryOut_formatSet {a : FormatSetArgs} {f : Format} (read : formatOf a = some f) (s : State) :
    carryOut (.formatSet a) s = answered (formatSetOwner a.number.toNat f s) := by
  simp only [carryOut, withOperand, read]

theorem formatSetOwner_of_eq {n : Nat} {i : Fin 8} (named : n = i.val) (f : Format) (s : State) :
    formatSetOwner n f s =
      if reelUsesFormat s i = true then refuse .badState s
      else if (!formatInRange f) = true then refuse .badArg s
      else if (!geometryAccepted s f) = true then refuse .badArg s
      else (⟨.ok, []⟩, { s with formats := s.formats.set i (some f) }) := by
  rw [formatSetOwner, indexOf_of_eq named]

/-- Settles O28. -/
theorem formatSetAnswers : Obligations.FormatSetAnswers := by
  intro s a f read
  have carries := carryOut_formatSet read
  refine ⟨fun outside => refusedWith_of_owner nofun carries fun x => ?_, fun n named => ?_⟩
  · rw [formatSetOwner, indexOf_of_le outside]
  have owner (x : Interpreter) := formatSetOwner_of_eq named f (setInterpreter x s)
  refine ⟨fun used => refusedWith_of_owner nofun carries fun x => (owner x).trans (if_pos ((reelUsesFormat_iff _ n).mpr used)),
    fun unused => ?_⟩
  have unused : ¬reelUsesFormat s n = true := by
    rw [reelUsesFormat_iff]
    tauto
  refine ⟨fun outside => refusedWith_of_owner nofun carries fun x => ?_, fun ranges => ?_⟩
  · exact (owner x).trans ((if_neg unused).trans (if_pos (by simp [Bool.eq_false_iff.mpr (mt (formatInRange_iff f).mp outside)])))
  have ranged : ¬(!formatInRange f) = true := by simp [(formatInRange_iff f).mpr ranges]
  refine ⟨fun ⟨p, plan, misfit⟩ => refusedWith_of_owner nofun carries fun x => ?_,
    fun fits => answersWith_of_owner nofun rfl carries fun x => ?_⟩
  · have refused : geometryAccepted s f = false :=
      Bool.eq_false_iff.mpr fun accepted => misfit ((geometryAccepted_iff s f).mp accepted p plan)
    exact (owner x).trans ((if_neg unused).trans ((if_neg ranged).trans (if_pos (congrArg (!·) refused))))
  · have accepted : ¬(!geometryAccepted s f) = true := by simp [(geometryAccepted_iff s f).mpr fits]
    exact (owner x).trans ((if_neg unused).trans ((if_neg ranged).trans (if_neg accepted)))

/-! ## MEMORY_PLAN (R59) -/

theorem referenceBytes_eq : referenceBytes = 4096 * 4096 * 8 := rfl

theorem planInRange_iff (size : Nat) (p : MemoryPlan) : planInRange size p = true ↔ planRanges size p := by
  simp only [planInRange, planRanges, Bool.and_eq_true, decide_eq_true_eq, beq_iff_eq, and_assoc]
  rfl

theorem windowsMeet_iff {b1 n1 b2 n2 : Nat} (pos1 : 0 < n1) (pos2 : 0 < n2) :
    windowsMeet b1 n1 b2 n2 = true ↔ ∃ a, (b1 ≤ a ∧ a < b1 + n1) ∧ b2 ≤ a ∧ a < b2 + n2 := by
  simp only [windowsMeet, Bool.and_eq_true, decide_eq_true_eq]
  constructor
  · rintro ⟨below, above⟩
    exact ⟨max b1 b2, by omega, by omega⟩
  · rintro ⟨a, first, second⟩
    omega

/-- R59, check 4: windows of some size meet in a byte. -/
theorem planOverlaps_iff {p : MemoryPlan} (ring : 0 < ringBytes p) : planOverlaps p = true ↔ ∃ b, inTwoWindows p b := by
  have pos : 0 < referenceBytes := by decide
  simp only [planOverlaps, Bool.or_eq_true, windowsMeet_iff ring pos, windowsMeet_iff pos pos, or_assoc, ← exists_or]
  rfl

theorem ringBytes_pos {size : Nat} {p : MemoryPlan} (ranges : planRanges size p) : 0 < ringBytes p := by
  obtain ⟨width, -, -, slots, -⟩ := ranges
  have := Nat.mul_pos (Nat.lt_of_lt_of_le (by decide : 0 < 1024) slots) (Nat.lt_of_lt_of_le (by decide : 0 < 1024) width)
  unfold ringBytes
  omega

/-- R59, check 5: format `n` is stored and does not fit. -/
def misfits (formats : Vector (Option Format) 8) (p : MemoryPlan) (n : Nat) : Bool :=
  match (formats[n]?).join with
  | some f => !geometryFits f.conformance p
  | none => false

theorem misfits_iff (formats : Vector (Option Format) 8) (p : MemoryPlan) (n : Fin 8) :
    misfits formats p n.val = true ↔ ∃ f, formats[n] = some f ∧ ¬geometryHolds f.conformance p := by
  unfold misfits
  rw [Vector.getElem?_eq_getElem n.isLt, Fin.getElem_fin]
  cases formats[n.val] <;> simp [← geometryFits_iff]

theorem firstMisfit_eq_some {formats : Vector (Option Format) 8} {p : MemoryPlan} {n : Fin 8} (misfit : misfits formats p n.val = true)
    (first : ∀ m : Fin 8, m < n → misfits formats p m.val = false) : firstMisfit formats p = some n.val := by
  refine List.find?_range_eq_some.mpr ⟨misfit, List.mem_range.mpr n.isLt, fun m below => ?_⟩
  rw [Bool.not_eq_true']
  exact first ⟨m, below.trans n.isLt⟩ below

theorem firstMisfit_eq_none {formats : Vector (Option Format) 8} {p : MemoryPlan} (fit : ∀ n : Fin 8, misfits formats p n.val = false) :
    firstMisfit formats p = none :=
  List.find?_range_eq_none.mpr fun n below => congrArg (!·) (fit ⟨n, below⟩)

theorem misfits_eq_false {formats : Vector (Option Format) 8} {p : MemoryPlan} {n : Fin 8}
    (fits : ∀ f, formats[n] = some f → geometryHolds f.conformance p) : misfits formats p n.val = false := by
  rw [Bool.eq_false_iff, ne_eq, misfits_iff]
  rintro ⟨f, stored, misfit⟩
  exact misfit (fits f stored)

/-- R59: MEMORY_PLAN past its first four checks. -/
theorem memoryPlanOwner_of_lawful {p : MemoryPlan} {s : State} (ready : s.frameMemory.ready = true) (closed : s.reel.state = .noReel)
    (ranges : planRanges s.frameMemory.size p) (apart : ∀ b, ¬inTwoWindows p b) :
    memoryPlanOwner p s =
      match firstMisfit s.formats p with
      | some n => (⟨.badArg, [word n]⟩, s)
      | none => (⟨.ok, twoWords s.frameMemory.size ++ [word (ringBytes p), word referenceBytes]⟩, acceptPlan p s) := by
  have overlaps : planOverlaps p = false :=
    Bool.eq_false_iff.mpr fun meets => by
      obtain ⟨b, two⟩ := (planOverlaps_iff (ringBytes_pos ranges)).mp meets
      exact apart b two
  simp [memoryPlanOwner, ready, closed, (planInRange_iff _ p).mpr ranges, overlaps] <;>
    rfl

/-- Settles O29. -/
theorem memoryPlanAnswers : Obligations.MemoryPlanAnswers := by
  intro s a
  have carries (u : State) : carryOut (.memoryPlan a) u = answered (memoryPlanOwner (planOf a) u) := rfl
  refine ⟨fun unready => refusedWith_of_owner nofun carries fun x => ?_, fun ready => ⟨fun moving =>
    refusedWith_of_owner nofun carries fun x => ?_, fun closed => ⟨fun outside => refusedWith_of_owner nofun carries fun x => ?_,
    fun ranges => ⟨fun meets => refusedWith_of_owner nofun carries fun x => ?_, fun apart =>
    ⟨fun n ⟨f, stored, misfit⟩ first => answersWith_of_owner nofun rfl carries fun x => ?_, fun fits =>
      answersWith_of_owner nofun rfl carries fun x => ?_⟩⟩⟩⟩⟩
  · simp [memoryPlanOwner, unready]
  · simp [memoryPlanOwner, ready, moving]
  · have refused : planInRange s.frameMemory.size (planOf a) = false := Bool.eq_false_iff.mpr (mt (planInRange_iff _ _).mp outside)
    simp [memoryPlanOwner, ready, closed, refused]
  · have overlaps := (planOverlaps_iff (ringBytes_pos ranges)).mpr meets
    simp [memoryPlanOwner, ready, closed, (planInRange_iff _ _).mpr ranges, overlaps]
  · rw [memoryPlanOwner_of_lawful (s := setInterpreter x s) ready closed ranges apart, setInterpreter_formats,
      firstMisfit_eq_some ((misfits_iff _ _ n).mpr ⟨f, stored, misfit⟩) fun m below => misfits_eq_false (first m below)]
  · rw [memoryPlanOwner_of_lawful (s := setInterpreter x s) ready closed ranges apart, setInterpreter_formats,
      firstMisfit_eq_none fun n => misfits_eq_false (fits n)]
    rfl

/-! ## FRAMING_NUDGE (R41) -/

theorem framingNudge_refusedWith {d : Word} {s : State} {status : ReplyStatus}
    (refused : nudgeTracker d.toNat s.tracker = (status, s.tracker)) : refusedWith (.framingNudge d) s status := by
  refine refusedWith_of_owner nofun (fun _ => rfl) fun x => ?_
  rw [framingNudgeOwner, setInterpreter_tracker, refused]
  rfl

theorem nudgeTracker_of_barred {d : Nat} {t : Tracker} {f : TrackingFields} (set : t.fields = some f)
    (barred : f.k = 1 ∨ t.mode = .idle ∨ t.mode = .search ∨ t.nudge ≠ none) : nudgeTracker d t = (.badState, t) := by
  simp only [nudgeTracker, set]
  by_cases one : f.k = 1
  · rw [if_pos one]
  · rw [if_neg one, if_pos (by simpa [one, Option.isSome_iff_ne_none] using barred)]

theorem nudgeTracker_of_free {d : Nat} {t : Tracker} {f : TrackingFields} (set : t.fields = some f) (several : f.k ≠ 1)
    (mode : t.mode = .locked ∨ t.mode = .coasting) (free : t.nudge = none) :
    nudgeTracker d t =
      if d < 1 ∨ f.k - 1 < d then (.badArg, t)
      else (.ok, { t with nudge := some d, countdown := t.countdown.map (· + d) }) := by
  have still : ¬(t.mode = .idle ∨ t.mode = .search ∨ t.nudge.isSome = true) := by
    obtain mode | mode := mode <;> simp [mode, free]
  simp only [nudgeTracker, set, if_neg several, if_neg still]

/-- Settles O31. -/
theorem framingNudgeAnswers : Obligations.FramingNudgeAnswers := by
  refine ⟨fun s d unset => framingNudge_refusedWith ?_,
    fun s d f set => ⟨fun barred => framingNudge_refusedWith (nudgeTracker_of_barred set barred), fun several mode free =>
      ⟨fun outside => framingNudge_refusedWith ?_, fun low high => answersWith_of_owner nofun rfl (fun _ => rfl) fun x => ?_⟩⟩⟩
  · rw [nudgeTracker, unset]
  · have outside : d.toNat < 1 ∨ f.k - 1 < d.toNat := by
      obtain zero | above := outside
      · exact .inl (by simp [zero])
      · omega
    rw [nudgeTracker_of_free set several mode free, if_pos outside]
  · rw [framingNudgeOwner, setInterpreter_tracker, nudgeTracker_of_free set several mode free, if_neg (by omega)]
    rfl

end Sys2Proof.Machine
end

section
/-! O30: the commands of the Pace Generator. -/

namespace Sys2Proof.Machine

/-! ## PACE_TABLE_SET (R47) -/

theorem levelsInRange_iff (t : Vector (Option PaceLevel) 7) :
    levelsInRange t.toList = true ↔
      ∀ (i : Fin 7) (l : PaceLevel), t[i] = some l → l.p ≤ 255 ∧ 1 ≤ l.q ∧ l.q ≤ 65535 := by
  simp only [levelsInRange, List.all_eq_true, List.mem_filterMap, id, Bool.and_eq_true, decide_eq_true_eq, and_assoc,
    Vector.mem_toList_iff, Vector.mem_iff_getElem]
  constructor
  · intro h i l set
    exact h l ⟨some l, ⟨i.val, i.isLt, set⟩, rfl⟩
  · rintro h l ⟨x, ⟨i, below, set⟩, rfl⟩
    exact h ⟨i, below⟩ l set

theorem ratesRise_iff (t : Vector (Option PaceLevel) 7) :
    ratesRise t.toList = true ↔
      ∀ (i j : Fin 7) (x y : PaceLevel), i < j → t[i] = some x → t[j] = some y → (y.p + 1) * (y.q + 1) ≤ (x.p + 1) * (x.q + 1) := by
  rw [ratesRise, decide_eq_true_eq, List.pairwise_filterMap, List.pairwise_iff_getElem]
  simp only [Vector.length_toList, Vector.getElem_toList, id]
  constructor
  · intro h i j x y below first second
    exact h i.val j.val i.isLt j.isLt below x first y second
  · intro h i j hi hj below x first y second
    exact h ⟨i, hi⟩ ⟨j, hj⟩ x y below first second

theorem watermarksInRange_iff (high low : Nat) :
    watermarksInRange high low = true ↔ 50 ≤ high ∧ high ≤ 95 ∧ 10 ≤ low ∧ low + 10 ≤ high := by
  simp only [watermarksInRange, Bool.and_eq_true, decide_eq_true_eq]
  omega

theorem isSetLevel_iff (p : Pace) (n : Nat) :
    isSetLevel p n = true ↔ ∃ (i : Fin 7) (l : PaceLevel), n = i.val + 1 ∧ p.table[i] = some l := by
  unfold isSetLevel paceEntry
  constructor
  · intro set
    split at set
    · rename_i positive
      by_cases below : n - 1 < 7
      · rw [Vector.getElem?_eq_getElem below, Option.join_some, Option.isSome_iff_exists] at set
        obtain ⟨l, set⟩ := set
        exact ⟨⟨n - 1, below⟩, l, by simp only; omega, set⟩
      · rw [Vector.getElem?_eq_none (by omega)] at set
        nomatch set
    · nomatch set
  · rintro ⟨i, l, rfl, set⟩
    rw [Fin.getElem_fin] at set
    simp [set]

/-- The checks of R47 on a table and its watermarks. -/
def paceTableFits (t : Vector (Option PaceLevel) 7) (high low : Nat) : Prop :=
  levelsInRange t.toList = true ∧ watermarksInRange high low = true ∧ ratesRise t.toList = true

section
variable {t : Vector (Option PaceLevel) 7} {high low : Nat} {s : State}

theorem paceTableOwner_of_moving (moving : s.reel.state ≠ .noReel) : paceTableOwner t high low s = refuse .badState s := by
  simp [paceTableOwner, moving]

theorem paceTableOwner_of_misfit (closed : s.reel.state = .noReel) (misfit : ¬paceTableFits t high low) :
    paceTableOwner t high low s = refuse .badArg s := by
  unfold paceTableFits at misfit
  unfold paceTableOwner
  rw [if_neg (by simp [closed])]
  split
  · rfl
  · rename_i ranged
    rw [if_pos]
    simp only [Bool.not_eq_true', Bool.not_eq_false, Bool.and_eq_true] at ranged ⊢
    exact Bool.eq_false_iff.mpr fun rise => misfit ⟨ranged.1, ranged.2, rise⟩

theorem formEffective_setPace (closed : s.reel.state = .noReel) (p : Pace) :
    formEffective (setPace p s) = setPace { p with effective := 0, spinUp := none } s := formEffective_noReel (setPace p s) closed

/-- R47, R51: an accepted table; with no reel the effective level is 0. -/
theorem paceTableOwner_of_fits (closed : s.reel.state = .noReel) (fits : paceTableFits t high low) :
    let p := { s.pace with table := t, high := high, low := low }
    paceTableOwner t high low s =
      if s.pace.requested = 0 ∨ isSetLevel p s.pace.requested = true then
        (⟨.ok, [word s.pace.requested]⟩, setPace { p with effective := 0, spinUp := none } s)
      else (⟨.adjusted, [0#32]⟩, setPace { p with requested := 0, effective := 0, spinUp := none } s) := by
  obtain ⟨ranged, marks, rise⟩ := fits
  simp only [paceTableOwner]
  rw [if_neg (by simp [closed]), if_neg (by simp [ranged, marks]), if_neg (by simp [rise]),
    formEffective_setPace closed, formEffective_setPace closed]
  rfl

end

/-- R47: what the row PACE_TABLE_SET answers. -/
theorem paceTableSet_answers (s : State) (a : PaceTableArgs) (t : Vector (Option PaceLevel) 7) (read : paceLevelsOf a = some t) :
    (s.reel.state ≠ .noReel → refusedWith (.paceTableSet a) s .badState)
    ∧ (s.reel.state = .noReel →
        let p := { s.pace with table := t, high := a.high.toNat, low := a.low.toNat }
        let standing := s.pace.requested = 0 ∨ isSetLevel p s.pace.requested = true
        (¬paceTableFits t a.high.toNat a.low.toNat → refusedWith (.paceTableSet a) s .badArg)
        ∧ (paceTableFits t a.high.toNat a.low.toNat ∧ standing →
            answersWith (.paceTableSet a) s .ok [word s.pace.requested]
              { s with pace := { p with effective := 0, spinUp := none } })
        ∧ (paceTableFits t a.high.toNat a.low.toNat ∧ ¬standing →
            answersWith (.paceTableSet a) s .adjusted [0#32]
              { s with pace := { p with requested := 0, effective := 0, spinUp := none } })) := by
  have carries (u : State) : carryOut (.paceTableSet a) u = answered (paceTableOwner t a.high.toNat a.low.toNat u) := by
    simp only [carryOut, withOperand, read]
  refine ⟨fun moving => refusedWith_of_owner nofun carries fun x => paceTableOwner_of_moving moving, fun closed =>
    ⟨fun misfit => refusedWith_of_owner nofun carries fun x => paceTableOwner_of_misfit closed misfit,
      fun ⟨fits, standing⟩ => answersWith_of_owner nofun rfl carries fun x => ?_,
      fun ⟨fits, unset⟩ => answersWith_of_owner nofun rfl carries fun x => ?_⟩⟩
  · exact (paceTableOwner_of_fits (s := setInterpreter x s) closed fits).trans (if_pos standing)
  · exact (paceTableOwner_of_fits (s := setInterpreter x s) closed fits).trans (if_neg unset)

/-! ## PACE_REQUEST (R48) -/

theorem isSetLevel_of_eq {p : Pace} {n : Nat} {i : Fin 7} (named : n = i.val + 1) : isSetLevel p n = (p.table[i]).isSome := by
  subst named
  simp [isSetLevel, paceEntry]

theorem requestLevel_zero (p : Pace) : requestLevel 0 p = (0, .ok) := rfl

theorem requestLevel_of_set {p : Pace} {n : Nat} (positive : 0 < n) (set : isSetLevel p (min n 7) = true) :
    requestLevel n p = (min n 7, if 7 < n then .adjusted else .ok) := by
  have nonzero : ¬clampLevel n = 0 := by
    unfold clampLevel
    omega
  rw [requestLevel, if_neg nonzero, clampLevel, if_pos set]

theorem requestLevel_of_unset {p : Pace} {n : Nat} (positive : 0 < n) (unset : isSetLevel p (min n 7) = false) :
    requestLevel n p = (p.requested, .badState) := by
  have nonzero : ¬clampLevel n = 0 := by
    unfold clampLevel
    omega
  rw [requestLevel, if_neg nonzero, clampLevel, if_neg (by simp [unset])]

/-- R48: what the Pace Generator makes of a level, the row answers. -/
theorem paceRequest_answersWith {s : State} {level : Word} {n : Nat} {status : ReplyStatus} (byte : level.toNat ≤ 255)
    (request : requestLevel level.toNat s.pace = (n, status)) :
    answersWith (.paceRequest level) s status [word n]
      (formEffective { s with pace := { s.pace with faultLatch := false, requested := n } }) := by
  have carries (u : State) : carryOut (.paceRequest level) u = answered (paceRequestOwner level.toNat u) := by
    simp only [carryOut, withOperand, paceLevelArg, if_pos byte]
  refine answersWith_of_owner nofun rfl carries fun x => ?_
  simp only [paceRequestOwner, setInterpreter_pace, request]
  rfl

theorem paceRequest_refusedWith {level : Word} (above : 255 < level.toNat) (s : State) : refusedWith (.paceRequest level) s .badArg :=
  refusedWith_of_owner nofun (fun u => by simp only [carryOut, withOperand, paceLevelArg, if_neg (Nat.not_le_of_lt above)])
    (owner := badArg) fun _ => rfl

/-! ## TIMING_SET (R56) -/

theorem newTimeout_word (limit old : Nat) (w : Word) :
    newTimeout limit old w.toNat = if w = 0#32 then old else if limit < w.toNat then limit else w.toNat := by
  have zero : w.toNat = 0 ↔ w = 0#32 := by
    rw [← BitVec.toNat_inj]
    rfl
  simp only [newTimeout, zero]
  split
  · rfl
  · split <;> omega

/-- Settles O30. -/
theorem paceCommandsAnswer : Obligations.PaceCommandsAnswer := by
  refine ⟨fun s a t read => ?_, fun s level => ⟨?_, fun i l named set => ?_, fun i named unset => ?_, fun above byte set => ?_,
    fun above byte unset => ?_, fun above => paceRequest_refusedWith above s⟩, fun s spinUp silence stall a b c ha hb hc => ?_⟩
  · have answers := paceTableSet_answers s a t read
    simpa only [paceTableFits, levelsInRange_iff, watermarksInRange_iff, ratesRise_iff, isSetLevel_iff, and_assoc] using answers
  · rintro rfl
    exact paceRequest_answersWith (by decide) (requestLevel_zero s.pace)
  · have small : level.toNat ≤ 7 := by omega
    have present : isSetLevel s.pace (min level.toNat 7) = true := by
      rw [Nat.min_eq_left small, isSetLevel_of_eq named, set]
      rfl
    have request := requestLevel_of_set (by omega) present
    rw [Nat.min_eq_left small, if_neg (by omega)] at request
    simpa [word] using paceRequest_answersWith (by omega) request
  · have absent : isSetLevel s.pace (min level.toNat 7) = false := by
      rw [Nat.min_eq_left (by omega), isSetLevel_of_eq named, unset]
      rfl
    exact paceRequest_answersWith (by omega) (requestLevel_of_unset (by omega) absent)
  · have present : isSetLevel s.pace (min level.toNat 7) = true := by
      rw [Nat.min_eq_right above.le, isSetLevel_of_eq (n := 7) (i := 6) rfl, Option.isSome_iff_ne_none]
      exact set
    have request := requestLevel_of_set (by omega) present
    rw [Nat.min_eq_right above.le, if_pos above] at request
    exact paceRequest_answersWith byte request
  · have absent : isSetLevel s.pace (min level.toNat 7) = false := by
      rw [Nat.min_eq_right above.le, isSetLevel_of_eq (n := 7) (i := 6) rfl]
      exact congrArg Option.isSome unset
    exact paceRequest_answersWith byte (requestLevel_of_unset (by omega) absent)
  · refine answersWith_of_owner nofun rfl (fun _ => rfl) fun x => ?_
    simp only [timingSetOwner, setInterpreter_pace, newTimeout_word, ha, hb, hc]
    rfl

end Sys2Proof.Machine
end

section
/-! O32, O34, O37: LUT_LOAD, SET_COMMIT and the shelving tables. -/

namespace Sys2Proof.Machine

/-! ## LUT_LOAD (R113) -/

theorem loadCount_word (count : Word) : loadCount count.toNat = if count = 0#32 then 512 else count.toNat := by
  have zero : count.toNat = 0 ↔ count = 0#32 := by
    rw [← BitVec.toNat_inj]
    rfl
  simp only [loadCount, zero]

theorem loadRun_length (n : Nat) (data : List Half) : (loadRun n data).length = n := by
  simp only [loadRun, List.length_append, List.length_take, List.length_replicate]
  omega

/-- R113: entry `k` of a run is data entry `k` while the list holds one, and its last entry after. -/
theorem loadRun_getElem {n k : Nat} (data : List Half) (below : k < n) :
    (loadRun n data)[k]'((loadRun_length n data).symm ▸ below) = data.getD k (data.getLastD 0#16) := by
  by_cases held : k < data.length
  · simp only [loadRun]
    rw [List.getElem_append_left (by simpa using And.intro below held), List.getElem_take,
      List.getD_eq_getElem _ _ held]
  · simp only [loadRun]
    rw [List.getElem_append_right (by simp only [List.length_take]; omega), List.getElem_replicate,
      List.getD_eq_default _ _ (Nat.le_of_not_lt held)]

/-- R113: what the checks of LUT_LOAD refuse. -/
def lutLoadBad (first count : Nat) (data : List Half) : Prop :=
  4095 < first ∨ 512 < count ∨ data = [] ∨ loadCount count < data.length

theorem lutLoadOwner_of_outside {set lut first count : Nat} {data : List Half} (s : State)
    (outside : 4 ≤ set ∨ 6 ≤ lut ∨ lutLoadBad first count data) : lutLoadOwner set lut first count data s = refuse .badArg s := by
  unfold lutLoadOwner
  split
  · rename_i i l named lutNamed
    refine if_pos ?_
    obtain above | above | bad := outside
    · rw [indexOf_of_le above] at named
      nomatch named
    · rw [indexOf_of_le above] at lutNamed
      nomatch lutNamed
    · exact bad
  · rfl

theorem lutLoadOwner_of_eq {set lut first count : Nat} {data : List Half} {i : Fin 4} {l : Fin 6} (s : State) (named : set = i.val)
    (lutNamed : lut = l.val) (good : ¬lutLoadBad first count data) :
    lutLoadOwner set lut first count data s =
      if s.grading.sets[i].state = .inUse then refuse .setBusy s
      else
        let n := min (loadCount count) (4096 - first)
        let x := writeLut l first (loadRun n data) s.grading.sets[i]
        (⟨if n < loadCount count then .adjusted else .ok, [word n, word (chunkFlags x.luts[l])]⟩, setGradeSet i x s) := by
  rw [lutLoadOwner, indexOf_of_eq named, indexOf_of_eq lutNamed]
  exact if_neg good

theorem writeLut_luts_other (first : Nat) (run : List Half) (x : GradeSet) {l m : Fin 6} (other : m ≠ l) :
    (writeLut l first run x).luts[m] = x.luts[m] := by
  simp only [writeLut, Fin.getElem_fin]
  exact Vector.getElem_set_ne _ _ fun same => other (Fin.ext same.symm)

theorem writeLut_luts_same (first : Nat) (run : List Half) (x : GradeSet) (l : Fin 6) :
    (writeLut l first run x).luts[l] = tableSetRun x.luts[l] first run := by
  simp [writeLut]

/-- Settles O32. -/
theorem lutLoadAnswers : Obligations.LutLoadAnswers := by
  intro s set lut first count data
  rw [← loadCount_word]
  have carries (u : State) : carryOut (.lutLoad set lut first count data) u =
      answered (lutLoadOwner set.toNat lut.toNat first.toNat count.toNat data u) := rfl
  have bad_iff : (4 ≤ set.toNat ∨ 6 ≤ lut.toNat ∨ 4096 ≤ first.toNat ∨ 512 < count.toNat ∨ data = [] ∨
      loadCount count.toNat < data.length) ↔ 4 ≤ set.toNat ∨ 6 ≤ lut.toNat ∨ lutLoadBad first.toNat count.toNat data := Iff.rfl
  refine ⟨fun bad => refusedWith_of_owner nofun carries fun x => lutLoadOwner_of_outside _ (bad_iff.mp bad),
    fun i l good named lutNamed => ?_⟩
  have good : ¬lutLoadBad first.toNat count.toNat data := fun bad => good (bad_iff.mpr (.inr (.inr bad)))
  have owner (x : Interpreter) := lutLoadOwner_of_eq (setInterpreter x s) named lutNamed good
  refine ⟨fun used => refusedWith_of_owner nofun carries fun x => (owner x).trans (if_pos used), fun unused => ?_⟩
  refine ⟨writeLut l first.toNat (loadRun (min (loadCount count.toNat) (4096 - first.toNat)) data) s.grading.sets[i],
    answersWith_of_owner nofun rfl carries fun x => (owner x).trans (if_neg unused), rfl, rfl,
    fun m other => writeLut_luts_other _ _ _ other, fun k outside => ?_, fun k below => ?_⟩
  · rw [writeLut_luts_same, tableGet_setRun_outside]
    rwa [loadRun_length]
  · have held := (loadRun_length (min (loadCount count.toNat) (4096 - first.toNat)) data).symm ▸ below
    rw [writeLut_luts_same, tableGet_setRun_inside _ _ _ _ held, loadRun_getElem data below]

/-! ## The chunk flags (R112) -/

/-- The flags are the bits of a number. -/
theorem chunkFlags_eq_ofBits (lut : List (Nat × Half)) : chunkFlags lut = Nat.ofBits (fun c : Fin 8 => chunkCovered lut c.val) := by
  have bits : ∀ b0 b1 b2 b3 b4 b5 b6 b7 : Bool,
      flagBit 0 b0 + (flagBit 1 b1 + (flagBit 2 b2 + (flagBit 3 b3 + (flagBit 4 b4 + (flagBit 5 b5 + (flagBit 6 b6 +
        (flagBit 7 b7 + 0))))))) = Nat.ofBits (fun c : Fin 8 => #v[b0, b1, b2, b3, b4, b5, b6, b7][c]) := by decide +kernel
  refine (bits _ _ _ _ _ _ _ _).trans (congrArg Nat.ofBits ?_)
  funext c
  fin_cases c <;> rfl

theorem testBit_chunkFlags (lut : List (Nat × Half)) (c : Nat) :
    (chunkFlags lut).testBit c = true ↔ c < 8 ∧ chunkCovered lut c = true := by
  rw [chunkFlags_eq_ofBits]
  by_cases below : c < 8
  · simp [Nat.testBit_ofBits_lt _ _ below, below]
  · simp [Nat.testBit_ofBits_ge _ _ (Nat.le_of_not_lt below), below]

theorem tableGet_ne_none_iff {α : Type} (m : List (Nat × α)) (k : Nat) : tableGet m k ≠ none ↔ k ∈ m.map (·.1) := by
  simp [tableGet]

/-- Among rising keys, 512 of a chunk are all of it. -/
theorem chunkCovered_iff {lut : List (Nat × Half)} (rise : keysRise lut) (c : Nat) :
    chunkCovered lut c = true ↔ ∀ k, 512 * c ≤ k → k < 512 * c + 512 → tableGet lut k ≠ none := by
  set keys := (lut.filter (fun e => e.1 / 512 == c)).map (·.1) with keysDef
  have mem_keys (k : Nat) : k ∈ keys ↔ k ∈ lut.map (·.1) ∧ 512 * c ≤ k ∧ k < 512 * c + 512 := by
    simp only [keysDef, List.mem_map, List.mem_filter, beq_iff_eq]
    constructor
    · rintro ⟨e, ⟨mem, chunk⟩, rfl⟩
      exact ⟨⟨e, mem, rfl⟩, by omega, by omega⟩
    · rintro ⟨⟨e, mem, rfl⟩, low, high⟩
      exact ⟨e, ⟨mem, by omega⟩, rfl⟩
  have nodup : keys.Nodup := List.pairwise_map.mpr ((rise.filter _).imp Nat.ne_of_lt)
  have inChunk : keys ⊆ List.range' (512 * c) 512 := fun k mem =>
    List.mem_range'_1.mpr ⟨((mem_keys k).mp mem).2.1, ((mem_keys k).mp mem).2.2⟩
  have short := (nodup.subperm inChunk).length_le
  rw [List.length_range'] at short
  have count : chunkCovered lut c = true ↔ 512 ≤ keys.length := by
    rw [chunkCovered, beq_iff_eq, ← List.length_map (f := (·.1)), ← keysDef]
    omega
  rw [count]
  constructor
  · intro long k low high
    have all := (nodup.subperm inChunk).perm_of_length_le (by rwa [List.length_range'])
    have mem := all.symm.subset (List.mem_range'_1.mpr ⟨low, high⟩)
    exact (tableGet_ne_none_iff lut k).mpr ((mem_keys k).mp mem).1
  · intro present
    have all : List.range' (512 * c) 512 ⊆ keys := fun k mem => by
      obtain ⟨low, high⟩ := List.mem_range'_1.mp mem
      exact (mem_keys k).mpr ⟨(tableGet_ne_none_iff lut k).mp (present k low high), low, high⟩
    have distinct : (List.range' (512 * c) 512).Nodup := List.nodup_range' _
    simpa using (distinct.subperm all).length_le

theorem chunkFlags_eq_255_iff (lut : List (Nat × Half)) : chunkFlags lut = 255 ↔ ∀ c < 8, chunkCovered lut c = true := by
  constructor
  · intro full c below
    have bit : (chunkFlags lut).testBit c = true := by
      rw [full]
      interval_cases c <;> rfl
    exact ((testBit_chunkFlags lut c).mp bit).2
  · intro covered
    have bits : (fun c : Fin 8 => chunkCovered lut c.val) = fun _ => true := funext fun c => covered c.val c.isLt
    rw [chunkFlags_eq_ofBits, bits]
    rfl

/-! ## SET_COMMIT (R116) -/

theorem chunkNumbers_eq : chunkNumbers = List.range 8 := rfl

theorem isComplete_iff (x : GradeSet) :
    isComplete x = true ↔ (∀ l : Fin 6, chunkFlags x.luts[l] = 255) ∧ x.matrix ≠ none := by
  simp only [isComplete, Bool.and_eq_true, List.all_eq_true, chunkNumbers_eq, List.mem_range, ← chunkFlags_eq_255_iff,
    Vector.mem_toList_iff, Vector.mem_iff_getElem, Option.isSome_iff_ne_none]
  refine and_congr_left fun _ => ⟨fun h l => h _ ⟨l.val, l.isLt, rfl⟩, ?_⟩
  rintro h lut ⟨i, below, rfl⟩
  exact h ⟨i, below⟩

theorem toList_six {α : Type} (v : Vector α 6) : v.toList = [v[0], v[1], v[2], v[3], v[4], v[5]] := by
  refine List.ext_getElem (by simp) fun i h _ => ?_
  rw [Vector.length_toList] at h
  interval_cases i <;> simp

theorem missingWords_eq (x : GradeSet) :
    missingWords x =
      [word (255 - chunkFlags x.luts[0]), word (255 - chunkFlags x.luts[1]), word (255 - chunkFlags x.luts[2]),
        word (255 - chunkFlags x.luts[3]), word (255 - chunkFlags x.luts[4]), word (255 - chunkFlags x.luts[5]),
        if x.matrix = none then 1#32 else 0#32] := by
  rw [missingWords, toList_six]
  cases x.matrix <;> rfl

section
variable {set : Nat} {i : Fin 4} {s : State} (named : set = i.val)
include named

theorem setCommitOwner_of_complete (loading : s.grading.sets[i].state = .loading) (complete : isComplete s.grading.sets[i] = true) :
    setCommitOwner set s =
      (⟨.ok, [Config.stateCode .setReady]⟩, setGradeSet i { s.grading.sets[i] with state := .ready } s) := by
  simp only [setCommitOwner, indexOf_of_eq named, loading, complete, if_true]

theorem setCommitOwner_of_incomplete
    (incomplete : s.grading.sets[i].state = .loading ∧ ¬isComplete s.grading.sets[i] = true ∨ s.grading.sets[i].state = .empty) :
    setCommitOwner set s = (⟨.incompleteSet, missingWords s.grading.sets[i]⟩, s) := by
  obtain ⟨loading, incomplete⟩ | empty := incomplete
  · simp only [setCommitOwner, indexOf_of_eq named, loading]
    exact if_neg incomplete
  · simp only [setCommitOwner, indexOf_of_eq named, empty]

theorem setCommitOwner_of_ready (ready : s.grading.sets[i].state = .ready) :
    setCommitOwner set s = (⟨.ok, [Config.stateCode .setReady]⟩, s) := by
  simp only [setCommitOwner, indexOf_of_eq named, ready, reportedSet]

theorem setCommitOwner_of_inUse (used : s.grading.sets[i].state = .inUse) :
    setCommitOwner set s = (⟨.ok, [Config.stateCode .setInUse]⟩, s) := by
  simp only [setCommitOwner, indexOf_of_eq named, used, reportedSet]

end

/-- Settles O34. -/
theorem setCommitAnswers : Obligations.SetCommitAnswers := by
  refine ⟨fun s set => ?_, fun lut c rise _ => ?_⟩
  · have carries (u : State) : carryOut (.setCommit set) u = answered (setCommitOwner set.toNat u) := rfl
    refine ⟨fun outside => refusedWith_of_owner nofun carries fun x => ?_, fun i named => ?_⟩
    · rw [setCommitOwner, indexOf_of_le outside]
    simp only [← isComplete_iff, ← missingWords_eq]
    exact ⟨fun loading complete => answersWith_of_owner nofun rfl carries fun x =>
        setCommitOwner_of_complete (s := setInterpreter x s) named loading complete,
      fun incomplete => answersWith_of_owner nofun rfl carries fun x =>
        setCommitOwner_of_incomplete (s := setInterpreter x s) named incomplete,
      fun ready => answersWith_of_owner nofun rfl carries fun x => setCommitOwner_of_ready (s := setInterpreter x s) named ready,
      fun used => answersWith_of_owner nofun rfl carries fun x => setCommitOwner_of_inUse (s := setInterpreter x s) named used⟩
  · rw [testBit_chunkFlags, chunkCovered_iff rise]

/-! ## The shelving tables (R145, R146) -/

theorem onOffOf_of_two_le {w : Word} (above : 2 ≤ w.toNat) : onOffOf w = none := by
  rw [onOffOf, if_neg, if_neg] <;> rintro rfl <;> exact absurd above (by decide)

/-- R167: an operand that cannot belong, and one that the owner refuses BAD_ARG, are refused alike. -/
theorem withOperand_badArg {α : Type} {x : Option α} {owner : α → State → Carried} {s : State}
    (refuses : ∀ v, x = some v → owner v s = refuse .badArg s) : withOperand x owner s = refuse .badArg s := by
  cases x with
  | none => rfl
  | some v => exact refuses v rfl

theorem comparisonOf_of_le {w : Word} (le : w.toNat ≤ 1) :
    comparisonOf w = some (if w = 0#32 then .atLeast else .atMost) := by
  unfold comparisonOf
  split
  · rfl
  · rename_i nonzero
    have one : w = 1#32 := by
      rw [← BitVec.toNat_inj] at nonzero ⊢
      simp only [BitVec.toNat_ofNat] at nonzero ⊢
      omega
    rw [if_pos one]

theorem comparisonOf_of_lt {w : Word} (above : 1 < w.toNat) : comparisonOf w = none := by
  rw [comparisonOf, if_neg, if_neg] <;> rintro rfl <;> exact absurd above (by decide)

theorem rowInRange_some_iff (r : ShelvingRow) :
    rowInRange (some r) = true ↔ 1 ≤ r.metric ∧ r.metric ≤ 12 ∧ 1 ≤ r.cls ∧ r.cls ≤ 5 := by
  simp [rowInRange, and_assoc]

theorem entryInRange_some_iff (e : ClassEntry) : entryInRange (some e) = true ↔ 1 ≤ e.interval ∧ e.interval ≤ 240 := by
  simp [entryInRange]

theorem shelvingRowOwner_of_eq {row : Nat} {i : Fin 16} (named : row = i.val) (r : Option ShelvingRow) (s : State) :
    shelvingRowOwner row r s =
      if rowInRange r = true then (⟨.ok, []⟩, setReel { s.reel with shelving := s.reel.shelving.set i r } s)
      else refuse .badArg s := by
  rw [shelvingRowOwner, indexOf_of_eq named]

theorem classSetOwner_of_eq {cls : Nat} {i : Fin 5} (named : cls = i.val + 1) (e : Option ClassEntry) (s : State) :
    classSetOwner cls e s =
      if entryInRange e = true then (⟨.ok, []⟩, setReel { s.reel with classes := s.reel.classes.set i e } s)
      else refuse .badArg s := by
  subst named
  rw [classSetOwner, if_neg (Nat.succ_ne_zero _), indexOf_of_eq (i := i) (Nat.add_sub_cancel _ _)]

theorem shelvingRowOf_of_two_le {a : ShelvingRowArgs} (above : 2 ≤ a.presence.toNat) : shelvingRowOf a = none := by
  rw [shelvingRowOf, presenceOf, onOffOf_of_two_le above]

theorem shelvingRowOf_of_present {a : ShelvingRowArgs} (present : a.presence = 1#32) :
    shelvingRowOf a = (comparisonOf a.comparison).map fun c => some ⟨a.metric.toNat, c, a.threshold.toNat, a.cls.toNat⟩ := by
  rw [shelvingRowOf, present]
  cases comparisonOf a.comparison <;> rfl

theorem classEntryOf_of_two_le {a : ClassSetArgs} (above : 2 ≤ a.presence.toNat) : classEntryOf a = none := by
  rw [classEntryOf, presenceOf, onOffOf_of_two_le above]

theorem classEntryOf_of_present {a : ClassSetArgs} (present : a.presence = 1#32) :
    classEntryOf a =
      if a.zone.toNat ≤ 255 ∧ a.flags.toNat < 16 then some (some ⟨a.zone.toNat, a.interval.toNat, handlingOf a.flags⟩)
      else none := by
  rw [classEntryOf, present]
  rfl

/-- R145: what the row SHELVING_ROW_SET answers. -/
theorem shelvingRowSet_answers (s : State) (a : ShelvingRowArgs) :
    (16 ≤ a.row.toNat ∨ 2 ≤ a.presence.toNat → refusedWith (.shelvingRowSet a) s .badArg)
    ∧ ∀ i : Fin 16, a.row.toNat = i.val →
        (a.presence = 0#32 →
          answersWith (.shelvingRowSet a) s .ok []
            { s with reel := { s.reel with shelving := s.reel.shelving.set i none } })
        ∧ (a.presence = 1#32 →
            let fits := 1 ≤ a.metric.toNat ∧ a.metric.toNat ≤ 12 ∧ a.comparison.toNat ≤ 1 ∧ 1 ≤ a.cls.toNat ∧ a.cls.toNat ≤ 5
            (¬fits → refusedWith (.shelvingRowSet a) s .badArg)
            ∧ (fits →
                answersWith (.shelvingRowSet a) s .ok []
                  { s with
                    reel :=
                      { s.reel with
                        shelving := s.reel.shelving.set i (some
                          ⟨a.metric.toNat, if a.comparison = 0#32 then .atLeast else .atMost, a.threshold.toNat,
                            a.cls.toNat⟩) } })) := by
  have carries (u : State) : carryOut (.shelvingRowSet a) u =
      answered (withOperand (shelvingRowOf a) (shelvingRowOwner a.row.toNat) u) := rfl
  refine ⟨fun outside => refusedWith_of_owner nofun carries fun x => withOperand_badArg fun r read => ?_,
    fun i named => ⟨fun unset => answersWith_of_owner nofun rfl carries fun x => ?_, fun present => ⟨fun misfit =>
      refusedWith_of_owner nofun carries fun x => withOperand_badArg fun r read => ?_,
      fun fits => answersWith_of_owner nofun rfl carries fun x => ?_⟩⟩⟩
  · obtain above | above := outside
    · rw [shelvingRowOwner, indexOf_of_le above]
    · rw [shelvingRowOf_of_two_le above] at read
      nomatch read
  · rw [shelvingRowOf, unset]
    exact (shelvingRowOwner_of_eq named none _).trans (if_pos rfl)
  · rw [shelvingRowOwner_of_eq named]
    refine if_neg fun inRange => ?_
    rw [shelvingRowOf_of_present present] at read
    by_cases le : a.comparison.toNat ≤ 1
    · rw [comparisonOf_of_le le] at read
      injection read with read
      rw [← read, rowInRange_some_iff] at inRange
      tauto
    · rw [comparisonOf_of_lt (Nat.lt_of_not_le le)] at read
      nomatch read
  · obtain ⟨low, high, comparison, clsLow, clsHigh⟩ := fits
    rw [shelvingRowOf_of_present present, comparisonOf_of_le comparison]
    exact (shelvingRowOwner_of_eq named _ _).trans (if_pos ((rowInRange_some_iff _).mpr ⟨low, high, clsLow, clsHigh⟩))

/-- R146: what the row CLASS_SET answers. -/
theorem classSet_answers (s : State) (a : ClassSetArgs) :
    (a.cls = 0#32 ∨ 6 ≤ a.cls.toNat ∨ 2 ≤ a.presence.toNat → refusedWith (.classSet a) s .badArg)
    ∧ ∀ i : Fin 5, a.cls.toNat = i.val + 1 →
        (a.presence = 0#32 →
          answersWith (.classSet a) s .ok [] { s with reel := { s.reel with classes := s.reel.classes.set i none } })
        ∧ (a.presence = 1#32 →
            let fits := a.zone.toNat ≤ 255 ∧ 1 ≤ a.interval.toNat ∧ a.interval.toNat ≤ 240 ∧ a.flags.toNat < 16
            (¬fits → refusedWith (.classSet a) s .badArg)
            ∧ (fits →
                answersWith (.classSet a) s .ok []
                  { s with
                    reel :=
                      { s.reel with
                        classes := s.reel.classes.set i (some ⟨a.zone.toNat, a.interval.toNat, handlingOf a.flags⟩) } })) := by
  have carries (u : State) : carryOut (.classSet a) u = answered (withOperand (classEntryOf a) (classSetOwner a.cls.toNat) u) := rfl
  refine ⟨fun outside => refusedWith_of_owner nofun carries fun x => withOperand_badArg fun r read => ?_,
    fun i named => ⟨fun unset => answersWith_of_owner nofun rfl carries fun x => ?_, fun present => ⟨fun misfit =>
      refusedWith_of_owner nofun carries fun x => withOperand_badArg fun r read => ?_,
      fun fits => answersWith_of_owner nofun rfl carries fun x => ?_⟩⟩⟩
  · obtain zero | above | above := outside
    · rw [classSetOwner, if_pos (by simp [zero])]
    · rw [classSetOwner, if_neg (by omega), indexOf_of_le (by omega)]
    · rw [classEntryOf_of_two_le above] at read
      nomatch read
  · rw [classEntryOf, unset]
    exact (classSetOwner_of_eq named none _).trans (if_pos rfl)
  · rw [classSetOwner_of_eq named]
    refine if_neg fun inRange => ?_
    rw [classEntryOf_of_present present] at read
    split at read
    · injection read with read
      rw [← read, entryInRange_some_iff] at inRange
      tauto
    · nomatch read
  · obtain ⟨zone, low, high, flags⟩ := fits
    rw [classEntryOf_of_present present, if_pos ⟨zone, flags⟩]
    exact (classSetOwner_of_eq named _ _).trans (if_pos ((entryInRange_some_iff _).mpr ⟨low, high⟩))

/-- Settles O37. -/
theorem shelvingCommandsAnswer : Obligations.ShelvingCommandsAnswer := ⟨shelvingRowSet_answers, classSet_answers⟩

end Sys2Proof.Machine
end

section
/-! O44: the Notice Unit, with NOTICE_ACK, NOTICE_ENABLE and the ATTN pin. -/

namespace Sys2Proof.Machine

/-! ## The unit (R160, R164) -/

theorem attn_iff (u : NoticeUnit) :
    attn u = true ↔ ∃ c, (noticeOf u c).latch = .raised ∨ ∃ k, (noticeOf u c).latch = .pending k := by
  have unarmed (l : Latch) : (l != .armed) = true ↔ l = .raised ∨ ∃ k, l = .pending k := by cases l <;> simp
  simp only [attn, List.any_eq_true, mem_noticeClasses, true_and, unarmed]

theorem occur_eq (n : NoticeState) :
    occur n = if n.enabled = true ∧ n.latch = .armed then ⟨true, 0, .pending (min (n.count + 1) 65535)⟩
      else { n with count := min (n.count + 1) 65535 } := by
  obtain ⟨enabled, count, latch⟩ := n
  unfold occur buildNotice
  split
  · rename_i on
    obtain ⟨rfl, -⟩ := on
    rfl
  · rfl

/-! ## The classes a number names -/

theorem classOfNumber_classNumber (c : NoticeClass) : classOfNumber (classNumber c) = some c := by cases c <;> rfl

theorem classNumber_mem (c : NoticeClass) : 1 ≤ classNumber c ∧ classNumber c ≤ 10 := by cases c <;> decide

theorem classOfNumber_eq_none {n : Nat} (outside : n = 0 ∨ 11 ≤ n) : classOfNumber n = none := by
  rw [classOfNumber, List.find?_eq_none]
  intro c _ same
  have := classNumber_mem c
  have := eq_of_beq same
  omega

theorem word_classNumber_toNat (c : NoticeClass) : (word (classNumber c)).toNat = classNumber c := by cases c <;> rfl

theorem toNat_outside {w : Word} (outside : w = 0#32 ∨ 11 ≤ w.toNat) : w.toNat = 0 ∨ 11 ≤ w.toNat :=
  outside.imp_left fun zero => congrArg BitVec.toNat zero

/-! ## NOTICE_ACK (R162) -/

theorem acknowledge_eq (n : NoticeState) :
    acknowledge n = (match n.latch with
      | .raised => if 0 < n.count ∧ n.enabled = true then ⟨true, 0, .pending n.count⟩ else { n with latch := .armed }
      | _ => n) := by
  obtain ⟨enabled, count, latch⟩ := n
  cases latch with
  | raised =>
    simp only [acknowledge, buildNotice]
    split
    · rename_i on
      obtain ⟨-, rfl⟩ := on
      rfl
    · rfl
  | armed => rfl
  | pending k => rfl

theorem noticeAckOwner_of_outside {w : Word} (s : State) (outside : w = 0#32 ∨ 11 ≤ w.toNat) :
    noticeAckOwner w.toNat s = refuse .badArg s := by
  rw [noticeAckOwner, classOfNumber_eq_none (toNat_outside outside)]

theorem noticeAckOwner_classNumber (c : NoticeClass) (s : State) :
    noticeAckOwner (word (classNumber c)).toNat s =
      (⟨.ok, [Config.stateCode (reportedLatch (acknowledge (noticeOf s.notices c)).latch),
        word (acknowledge (noticeOf s.notices c)).count]⟩,
        { s with notices := setNotice s.notices c (acknowledge (noticeOf s.notices c)) }) := by
  rw [noticeAckOwner, word_classNumber_toNat, classOfNumber_classNumber]

/-! ## NOTICE_ENABLE (R163) -/

theorem enableClass_eq (on : Bool) (n : NoticeState) :
    enableClass on n = if on = true ∧ n.latch = .armed ∧ 0 < n.count then ⟨true, 0, .pending n.count⟩
      else { n with enabled := on } := by
  unfold enableClass buildNotice
  split
  · rename_i built
    obtain ⟨rfl, -⟩ := built
    rfl
  · rfl

/-- The ten classes are set apart from each other. -/
theorem noticeOf_enableAll (on : Bool) (u : NoticeUnit) (c : NoticeClass) :
    noticeOf (enableAll on noticeClasses u) c = enableClass on (noticeOf u c) := by cases c <;> rfl

theorem namedClasses_classNumber (c : NoticeClass) : namedClasses (word (classNumber c)).toNat = [c] := by cases c <;> rfl

theorem noticeEnableOwner_of_outside {w : Word} (on : Bool) (s : State) (outside : (w = 0#32 ∨ 11 ≤ w.toNat) ∧ w ≠ 255#32) :
    noticeEnableOwner w.toNat on s = refuse .badArg s := by
  obtain ⟨outside, all⟩ := outside
  have all : w.toNat ≠ 255 := fun same => all (BitVec.eq_of_toNat_eq same)
  rw [noticeEnableOwner, namedClasses, if_neg all, classOfNumber_eq_none (toNat_outside outside)]
  rfl

theorem noticeEnableOwner_classNumber (c : NoticeClass) (on : Bool) (s : State) :
    noticeEnableOwner (word (classNumber c)).toNat on s =
      let u := setNotice s.notices c (enableClass on (noticeOf s.notices c))
      (⟨.ok, enableWords u⟩, { s with notices := u }) := by
  rw [noticeEnableOwner, namedClasses_classNumber]
  rfl

theorem onOffOf_bit (on : Bool) : onOffOf (if on then 1#32 else 0#32) = some on := by cases on <;> rfl

theorem markWord_eq_oneIf (b : Bool) : markWord b = oneIf b := by cases b <;> rfl

theorem enableWords_eq (u : NoticeUnit) :
    enableWords u = [u.lockLost, u.framesLost, u.ringOverflow, u.intakeError, u.gradeMiss, u.scratchFull, u.ticketReady,
      u.transportFault, u.deliveryStall, u.clamp].map (fun n => oneIf n.enabled) := by
  simp only [enableWords, markWord_eq_oneIf]
  rfl

/-- Settles O44. -/
theorem noticesAnswer : Obligations.NoticesAnswer := by
  refine ⟨attn_iff, fun c s => ?_, fun s w outside => refusedWith_of_owner nofun (fun _ => rfl) fun x =>
    noticeAckOwner_of_outside _ outside, fun s c m read => ?_, fun s w v bad => ?_, fun s on => ⟨fun c => ⟨_, ?_, rfl⟩, ?_⟩⟩
  · rw [raise_notices, occur_eq]
  · replace read : m = acknowledge (noticeOf s.notices c) := read.trans (acknowledge_eq _).symm
    subst read
    exact answersWith_of_owner nofun rfl (fun _ => rfl) fun x => noticeAckOwner_classNumber c _
  · refine refusedWith_of_owner nofun (fun _ => rfl) fun x => withOperand_badArg fun on read => ?_
    obtain outside | above := bad
    · exact noticeEnableOwner_of_outside on _ outside
    · rw [onOffOf_of_two_le above] at read
      nomatch read
  · beta_reduce
    rw [← enableClass_eq]
    refine answersWith_of_owner nofun rfl (fun _ => rfl) fun x => ?_
    rw [onOffOf_bit, ← enableWords_eq]
    exact noticeEnableOwner_classNumber c on _
  · refine ⟨enableAll on noticeClasses s.notices, answersWith_of_owner nofun rfl (fun _ => rfl) fun x => ?_, fun c => ?_⟩
    · beta_reduce
      rw [onOffOf_bit, ← enableWords_eq]
      rfl
    · rw [noticeOf_enableAll, enableClass_eq]

end Sys2Proof.Machine
end

section
/-! O43: the records of STATUS_QUERY are their items. -/

namespace Sys2Proof.Machine

/-! ## The forms of an item (R167) -/

theorem optionalWord_eq (x : Option Nat) : optionalWord x = itemOr x := by cases x <;> rfl

theorem optionalPosition_eq (x : Option Nat) : optionalPosition x = positionOr x := by cases x <;> rfl

theorem twoWords_eq (n : Nat) : twoWords n = twoWordItem n := rfl

/-! ## TRACKER -/

theorem trackerRecord_eq (s : State) : trackerRecord s = trackerItems s := by
  simp only [trackerRecord, optionalWord_eq, optionalPosition_eq]
  rfl

/-! ## RING -/

theorem paceWords_eq (p : Pace) : paceWords p = paceItems p := by
  have counters : (if p.counters.isSome then ReportedState.countersRunning else .countersStopped) =
      if p.counters = none then .countersStopped else .countersRunning := by cases p.counters <;> rfl
  have spinUp : (if p.spinUp.isSome then ReportedState.spinUpRunning else .spinUpStopped) =
      if p.spinUp = none then .spinUpStopped else .spinUpRunning := by cases p.spinUp <;> rfl
  simp only [paceWords, counters, spinUp, optionalWord_eq, markWord_eq_oneIf]
  rfl

theorem conformanceWords_eq (c : Conformance) : conformanceWords c = conformanceItems c := by
  have listed (l : List NeededLine) : optionalList (l.map (·.line)) =
      if l = [] then [0#32, 0#32] else word l.length :: l.map (fun n => word n.line) ++ [1#32] := by
    cases l with
    | nil => rfl
    | cons n l => simp [optionalList]
  have held : optionalWord (heldNumber c.held) = (match c.held with
      | .initial => [0#32, 0#32]
      | .line n _ => [word n, 1#32]) := by cases c.held <;> rfl
  unfold conformanceWords conformanceItems
  rw [held]
  cases c.mode with
  | idle => rfl
  | gathering job =>
    simp only [awaitedLines, listed, optionalWord_eq]
    rfl
  | offering job line => rfl

theorem ringRecord_eq (s : State) : ringRecord s = ringItems s := by
  have plan (p : Option MemoryPlan) : planWords p = (match p with
      | some p => [word p.wIn, word p.r, word p.ringBase, word p.baseA, word p.baseB]
      | none => [0#32, 0#32, 0#32, 0#32, 0#32]) := by cases p <;> rfl
  have oldest : oldestUnfinished s = s.contexts.find? (fun c => c.finished == false && c.aborted == false) := by
    simp only [oldestUnfinished, beq_false]
  simp only [ringRecord, twoWords_eq, optionalWord_eq, paceWords_eq, conformanceWords_eq, plan, oldest]
  rfl

/-! ## REEL_RECORD -/

theorem recordWords_eq (r : ReelRecord) : recordWords r = reelRecordItems r := by
  simp only [recordWords, reelRecordItems, twoWords_eq, optionalWord_eq, List.map_cons, List.map_nil, List.flatMap_cons,
    List.flatMap_nil, List.append_nil, List.append_assoc]

theorem wordAt_drop (bs : List Byte) (i : Nat) : wordAt (bs.drop 4) i = wordAt bs (i + 1) := by
  have place (k : Nat) : 4 + k = k + 4 := Nat.add_comm 4 k
  simp only [wordAt, halfAt, byteAt, List.getD_eq_getElem?_getD, List.getElem?_drop, place, Nat.mul_add_one, Nat.add_right_comm _ 4]

theorem wordsOf_eq (n : Nat) (bs : List Byte) : wordsOf n bs = (List.range n).map (wordAt bs) := by
  induction n generalizing bs with
  | zero => rfl
  | succ n ih =>
    simp only [wordsOf, ih, List.range_succ_eq_map, List.map_cons, List.map_map, funext (wordAt_drop bs)]
    rfl

theorem identityWords_eq (x : ReelIdentity) :
    identityWords x =
      word x.accession.length :: (List.range 6).map (fun i => wordAt (x.accession ++ List.replicate (24 - x.accession.length) 0#8) i)
        ++ [word x.reelNumber, word x.format.val, word x.initialSet.val] ++ itemOr x.shrinkHint ++ itemOr x.previousClass
        ++ itemOr x.paceLevel := by
  simp only [identityWords, optionalWord_eq, wordsOf_eq]
  rfl

theorem word_handlingBits (h : HandlingFlags) :
    word (handlingBits h) = oneIf h.coldStorage + 2#32 * oneIf h.isolate + 4#32 * oneIf h.holdForDuplication
      + 8#32 * oneIf h.noProjection := by
  obtain ⟨a, b, c, d⟩ := h
  revert a b c d
  decide

theorem reelRecordWords_eq (r : ReelController) : reelRecordWords r = reelItems r := by
  have state : reportedReel r.state = (match r.state with
      | .noReel => .reelNoReel
      | .opened => .reelOpen
      | .closing => .reelClosing
      | .ticketWait => .reelTicketWait) := rfl
  have identity : optionalWords 16 identityWords r.identity = (match r.identity with
      | some x =>
        word x.accession.length
            :: (List.range 6).map (fun i => wordAt (x.accession ++ List.replicate (24 - x.accession.length) 0#8) i)
          ++ [word x.reelNumber, word x.format.val, word x.initialSet.val] ++ itemOr x.shrinkHint ++ itemOr x.previousClass
          ++ itemOr x.paceLevel ++ [1#32]
      | none => List.replicate 17 0#32) := by
    cases r.identity with
    | none => rfl
    | some x => exact congrArg (· ++ [1#32]) (identityWords_eq x)
  have metrics : optionalWords 12 (fun m => m.map word) r.lastMetrics = (match r.lastMetrics with
      | some m => m.map word ++ [1#32]
      | none => List.replicate 13 0#32) := by cases r.lastMetrics <;> rfl
  have held : markWord r.held.isSome = oneIf (decide (r.held ≠ none)) := by cases r.held <;> rfl
  have rows : rowWords = fun x => (match x with
      | some y => [word y.metric, if y.comparison = .atLeast then 0#32 else 1#32, word y.threshold, word y.cls]
      | none => [0#32, 0#32, 0#32, 0#32]) := by
    funext x
    cases x with
    | none => rfl
    | some y =>
      obtain ⟨metric, comparison, threshold, cls⟩ := y
      cases comparison <;> rfl
  have entries : entryWords = fun x => (match x with
      | some y =>
        [word y.zone, word y.interval,
          oneIf y.flags.coldStorage + 2#32 * oneIf y.flags.isolate + 4#32 * oneIf y.flags.holdForDuplication
            + 8#32 * oneIf y.flags.noProjection]
      | none => [0#32, 0#32, 0#32]) := by
    funext x
    cases x with
    | none => rfl
    | some y => simp only [entryWords, List.map_cons, List.map_nil, word_handlingBits]
  unfold reelRecordWords reelItems
  rw [recordWords_eq, identity, metrics, held, rows, entries]
  rfl

/-! ## SCRATCH_TABLE -/

theorem scratchWords_eq (e : ScratchEntry) : scratchWords e = scratchItems e := by
  obtain ⟨slot, left, width, origin, confirm, miss, tracked⟩ := e
  cases origin with
  | loaded => rfl
  | learned state n => cases state <;> rfl

theorem validityWords_eq (v : Validity) : validityWords v = validityItems v := by cases v <;> rfl

theorem scratchRecord_eq (r : Repair) : scratchRecord r = repairItems r := by
  have written : optionalWords 1 (fun x => [codeWord (reportedBuffer x)]) r.lastWritten = (match r.lastWritten with
      | none => [0#32, 0#32]
      | some .a => [Config.stateCode .bufferA, 1#32]
      | some .b => [Config.stateCode .bufferB, 1#32]) := by
    cases r.lastWritten with
    | none => rfl
    | some buffer => cases buffer <;> rfl
  have inHand : [codeWord (reportedRepair r.mode)] ++ optionalWord ((repairPosition r.mode).map (·.1))
      ++ optionalWord ((repairPosition r.mode).map (·.2)) = (match r.mode with
      | .waiting => [Config.stateCode .repairWaiting, 0#32, 0#32, 0#32, 0#32]
      | .fetching x => [Config.stateCode .repairFetching, word x.line.frame, 1#32, word x.line.j, 1#32]
      | .passing x => [Config.stateCode .repairPassing, word x.frame, 1#32, word x.j, 1#32]) := by cases r.mode <;> rfl
  refine Eq.trans ?_ (congrArg₂ (fun last hand => word r.scratches.length :: r.scratches.flatMap scratchItems
    ++ validityItems r.recordA ++ validityItems r.recordB ++ last ++ hand ++ [word r.scratchesTracked]) written inHand)
  rw [scratchRecord, funext scratchWords_eq, validityWords_eq, validityWords_eq]
  simp only [List.append_assoc]

/-! ## GRADE_SETS -/

theorem chunkFlags_lt (lut : List (Nat × Half)) : chunkFlags lut < 256 := by
  rw [chunkFlags_eq_ofBits]
  exact Nat.ofBits_lt_two_pow _

theorem twoWords_allChunkFlags (x : GradeSet) :
    twoWords (allChunkFlags x) =
      [word (chunkFlags x.luts[0] + 2 ^ 8 * chunkFlags x.luts[1] + 2 ^ 16 * chunkFlags x.luts[2] + 2 ^ 24 * chunkFlags x.luts[3]),
        word (chunkFlags x.luts[4] + 2 ^ 8 * chunkFlags x.luts[5])] := by
  have below (l : Fin 6) := chunkFlags_lt x.luts[l]
  have lowest := below 0
  have second := below 1
  have third := below 2
  have fourth := below 3
  simp only [Fin.getElem_fin, Fin.coe_ofNat_eq_mod, Nat.zero_mod, Nat.reduceMod] at lowest second third fourth
  rw [allChunkFlags, toList_six]
  simp only [List.foldr_cons, List.foldr_nil, twoWords, word, List.cons.injEq, and_true]
  constructor
  · refine BitVec.eq_of_toNat_eq ?_
    simp only [BitVec.toNat_ofNat]
    omega
  · congr 1
    omega

theorem gradeSetRecord_eq (g : Grading) : gradeSetRecord g = gradingItems g := by
  have sets : setWords = fun x =>
      [Config.stateCode (match x.state with
          | .empty => .setEmpty
          | .loading => .setLoading
          | .ready => .setReady
          | .inUse => .setInUse),
        word (chunkFlags x.luts[0] + 2 ^ 8 * chunkFlags x.luts[1] + 2 ^ 16 * chunkFlags x.luts[2] + 2 ^ 24 * chunkFlags x.luts[3]),
        word (chunkFlags x.luts[4] + 2 ^ 8 * chunkFlags x.luts[5]), oneIf (decide (x.matrix ≠ none))] := by
    funext x
    have matrix : markWord x.matrix.isSome = oneIf (decide (x.matrix ≠ none)) := by cases x.matrix <;> rfl
    rw [setWords, twoWords_allChunkFlags, matrix]
    rfl
  have dissolve : optionalWords 3 (fun d => [word d.target.val, word d.d, word d.k]) g.dissolve = (match g.dissolve with
      | some d => [word d.target.val, word d.d, word d.k, 1#32]
      | none => [0#32, 0#32, 0#32, 0#32]) := by cases g.dissolve <;> rfl
  have inHand : [codeWord (if gradingPosition g.mode = none then .gradingWaiting else .gradingPlacing)]
      ++ optionalWord ((gradingPosition g.mode).map (·.1)) ++ optionalWord ((gradingPosition g.mode).map (·.2)) = (match g.mode with
      | .waiting => [Config.stateCode .gradingWaiting, 0#32, 0#32, 0#32, 0#32]
      | .placing x => [Config.stateCode .gradingPlacing, word x.frame, 1#32, word x.j, 1#32]) := by cases g.mode <;> rfl
  refine Eq.trans ?_ (congrArg₂ (fun d hand => g.sets.toList.flatMap setWords ++ itemOr (g.current.map (·.val)) ++ d ++ hand)
    dissolve inHand |>.trans (congrArg (fun f => g.sets.toList.flatMap f ++ itemOr (g.current.map (·.val)) ++ _ ++ _) sets))
  rw [gradeSetRecord, optionalWord_eq (g.current.map _)]
  simp only [List.append_assoc]

/-! ## NOTICES -/

theorem noticeRecord_eq (u : NoticeUnit) : noticeRecord u = noticeItems u := by
  have attention : markWord (attn u) = if ∃ n ∈ noticeClasses.map (noticeOf u), n.latch ≠ .armed then 1#32 else 0#32 := by
    simp only [markWord_eq_oneIf, oneIf, attn, List.any_eq_true, List.mem_map, exists_exists_and_eq_and, bne_iff_ne]
  simp only [noticeRecord, attention, noticeWords, markWord_eq_oneIf]
  rfl

/-! ## COUNTERS -/

theorem counterRecord_started (i : Fin 8) (q : QueuedCommand) (s : State) :
    counterRecord (startedIn i q s) = counterItems i s := by
  have free : isFree = fun y => y == .free := by
    funext y
    cases y <;> rfl
  have claimed : isClaimed = fun y => y == .claimed := by
    funext y
    cases y <;> rfl
  have reserved : (if s.interpreter.reserved.isSome then ReportedState.reservedFilled else .reservedFree) =
      if s.interpreter.reserved = none then .reservedFree else .reservedFilled := by cases s.interpreter.reserved <;> rfl
  rw [counterItems, ← free, ← claimed, ← reserved]
  rfl

/-! ## The query (R157) -/

/-- A selector of Table 10-3 answers its record, if that does not read the interpreter's block. -/
theorem answersWith_statusQuery {w : Word} {x : StatusSelector} {s : State} {items : List Word} (named : statusSelectorOf w = some x)
    (record : ∀ y, statusRecord x (setInterpreter y s) = items) : answersWith (.statusQuery w) s .ok items s := by
  refine answersWith_of_owner nofun rfl (fun _ => rfl) fun y => ?_
  rw [named]
  exact congrArg (fun d => (Answer.mk .ok d, setInterpreter y s)) (record y)

theorem statusSelectorOf_of_outside {w : Word} (outside : w = 0#32 ∨ 10 ≤ w.toNat) : statusSelectorOf w = none := by
  have outside : w.toNat = 0 ∨ 10 ≤ w.toNat := outside.imp_left fun zero => congrArg BitVec.toNat zero
  unfold statusSelectorOf
  split <;> first | omega | rfl

/-- LE 25: the COUNTERS record counts the query itself. -/
theorem exec_statusQuery_counters {s : State} {i : Fin 8} (tag : Half) (ready : readyForCommand s i) :
    exec (.statusQuery tag 9#32) s = .next (answeredIn i 0x30#16 tag .ok (counterItems i s) s) := by
  have carried := arriveCommand_answered i tag (.statusQuery 9#32) ⟨.ok, counterItems i s⟩ s (startedIn i ⟨0x30#16, tag, .statusQuery 9#32⟩ s)
    ready (congrArg (fun d => (some (Answer.mk .ok d), startedIn i ⟨0x30#16, tag, .statusQuery 9#32⟩ s)) (counterRecord_started i _ s))
  exact carried

/-- Settles O43. -/
theorem statusQueryAnswers : Obligations.StatusQueryAnswers :=
  ⟨fun _ => answersWith_statusQuery rfl fun _ => rfl, fun s =>
    ⟨answersWith_statusQuery rfl fun y => trackerRecord_eq (setInterpreter y s),
      answersWith_statusQuery rfl fun y => ringRecord_eq (setInterpreter y s),
      answersWith_statusQuery rfl fun _ => reelRecordWords_eq s.reel,
      answersWith_statusQuery rfl fun _ => scratchRecord_eq s.repair,
      answersWith_statusQuery rfl fun _ => rfl,
      answersWith_statusQuery rfl fun _ => gradeSetRecord_eq s.grading,
      answersWith_statusQuery rfl fun _ => noticeRecord_eq s.notices,
      fun tag _ ready => exec_statusQuery_counters tag ready,
      fun _ outside => refusedWith_of_owner nofun (fun _ => rfl) fun _ => by rw [statusSelectorOf_of_outside outside]; rfl⟩⟩

end Sys2Proof.Machine
end

section
/-! O39, O38: REEL_CLOSE and REEL_OPEN. -/

namespace Sys2Proof.Machine

/-! ## REEL_CLOSE (R136) -/

theorem startDrain_of_last {s : State} {c : FrameContext} (newest : s.contexts.getLast? = some c) :
    startDrain s = setIntake { s.intake with mode := .draining, drainTarget := some c.lastNeeded, silence := some 0 } s := by
  rw [startDrain, newest]

theorem formedLevel_of_unrequested {s : State} (unrequested : s.pace.requested = 0) : formedLevel s = 0 := by
  have least := formedLevel_le_leastLevel s
  have none : leastLevel s = 0 := by
    unfold leastLevel
    split <;> simp [unrequested]
  omega

/-- R49, R51, R53: with no level requested the effective level is 0. -/
theorem formEffective_of_unrequested {s : State} (unrequested : s.pace.requested = 0) :
    formEffective s = { s with pace := { s.pace with effective := 0, spinUp := none } } := by
  rw [formEffective_changes, formedLevel_of_unrequested unrequested]
  rfl

theorem startDrain_of_empty {s : State} (empty : s.contexts = []) :
    startDrain s =
      { s with
        intake := { s.intake with mode := .closed, drainTarget := none, silence := none },
        pace := { s.pace with requested := 0, effective := 0, spinUp := none } } := by
  rw [startDrain, List.getLast?_eq_none_iff.mpr empty]
  exact formEffective_of_unrequested rfl

/-- R51 to R53: what the Pace Generator holds after a level is formed. -/
theorem withLevel_eq (level : Nat) (p : Pace) :
    withLevel level p =
      if (withLevel level p).effective = 0 then { p with effective := 0, spinUp := none }
      else if p.effective = 0 ∧ p.counters = none then
        { p with
          effective := (withLevel level p).effective, counters := loadedWith p (withLevel level p).effective,
          spinUp := if p.trun = true then none else some 0 }
      else { p with effective := (withLevel level p).effective } := by
  rw [withLevel_effective]
  simp only [withLevel, loadCounters_eq]

/-- R136: a close that starts changes nothing but the path of lines to the Tracker, the reel state and the level. -/
theorem exec_reelClose_opened {s : State} {i : Fin 8} (tag : Half) (ready : readyForCommand s i) (opened : s.reel.state = .opened) :
    exec (.reelClose tag) s = .next (settleStall (startClose (startedIn i ⟨0x23#16, tag, .reelClose⟩ s))) :=
  arriveCommand_unanswered i tag .reelClose s _ ready (if_pos opened)

/-- R136: the newest context's last needed line is the drain target. -/
theorem startClose_of_last {s : State} {c : FrameContext} (newest : s.contexts.getLast? = some c) :
    (startClose s).intake = { s.intake with mode := .draining, drainTarget := some c.lastNeeded, silence := some 0 }
      ∧ ∃ level, (startClose s).pace = withLevel level s.pace := by
  rw [startClose,
    startDrain_of_last (s := { s with reel := { s.reel with state := .closing }, tracker := s.tracker.idled }) newest]
  exact ⟨rfl, _, rfl⟩

/-- R136, R49: with no context the drain ends at once. -/
theorem startClose_of_empty {s : State} (empty : s.contexts = []) :
    (startClose s).intake = { s.intake with mode := .closed, drainTarget := none, silence := none }
      ∧ (startClose s).pace = { s.pace with requested := 0, effective := 0, spinUp := none } := by
  rw [startClose,
    startDrain_of_empty (s := { s with reel := { s.reel with state := .closing }, tracker := s.tracker.idled }) empty,
    formEffective_of_unrequested rfl]
  exact ⟨rfl, rfl⟩

theorem levelInv_settled (s : State) : levelInv (settleStall (formEffective s)) :=
  levelInv_congr (levelInv_formEffective s) (by rw [settleStall_changes]; rfl)

/-- Settles O39. -/
theorem reelCloseStarts : Obligations.ReelCloseStarts := by
  intro s
  refine ⟨fun notOpen => refusedWith_of nofun fun x => if_neg notOpen, fun tag i ready opened => ?_⟩
  obtain ⟨_, _, _, _, left⟩ := startClose_changes (startedIn i ⟨0x23#16, tag, .reelClose⟩ s)
  refine ⟨_, exec_reelClose_opened tag ready opened, ?_⟩
  simp only [settleStall_pending, settleStall_formats, settleStall_intake, settleStall_tracker, settleStall_contexts, settleStall_pace,
    settleStall_frameMemory, settleStall_conformance, settleStall_repair, settleStall_grading, settleStall_reel,
    settleStall_interpreter, settleStall_notices]
  refine ⟨by rw [left]; rfl, by rw [left]; rfl, by rw [left]; rfl, fun c newest => ?_, fun empty => ?_, levelInv_settled _,
    by rw [left]; rfl, by rw [left]; rfl, by rw [left]; rfl, by rw [left]; rfl, by rw [left]; rfl, by rw [left]; rfl, by rw [left]; rfl,
    by rw [left]; rfl, ?_⟩
  · obtain ⟨intake, level, pace⟩ := startClose_of_last (s := startedIn i ⟨0x23#16, tag, .reelClose⟩ s) newest
    exact ⟨intake, by rw [pace]; exact withLevel_eq level s.pace⟩
  · exact startClose_of_empty (s := startedIn i ⟨0x23#16, tag, .reelClose⟩ s) empty
  · rw [settleStall_changes, left]
    rfl

/-! ## REEL_OPEN (R134, R135) -/

theorem previousClassInRange_iff (x : Option Nat) : previousClassInRange x = true ↔ ∀ c, x = some c → 1 ≤ c ∧ c ≤ 5 := by
  cases x <;> simp [previousClassInRange]

theorem trackingShrink_eq (h : Nat) : trackingShrink h = if h < 49152 then 49152 else if 81920 < h then 81920 else h := by
  unfold trackingShrink clampNat
  split
  · rfl
  · split <;> rfl

/-- R34: S starts from the hint, brought into the tracking range. -/
theorem opening_tracker (f : TrackingFields) (hint : Option Nat) :
    Tracker.opening f hint =
      { Tracker.powerOn with
        mode := .search, fields := some f,
        shrink := match hint with
          | some h => if h < 49152 then 49152 else if 81920 < h then 81920 else h
          | none => 65536 } := by
  cases hint with
  | none => rfl
  | some h => simp only [Tracker.opening, trackingShrink_eq]

/-- R134, check 1: the ranges of a request, its two indexes left out. -/
def requestRanges (r : ReelRequest) : Prop :=
  1 ≤ r.accessionLength ∧ r.accessionLength ≤ 24 ∧ (∀ b ∈ r.accession, 0x20 ≤ b.toNat ∧ b.toNat ≤ 0x7E) ∧ 1 ≤ r.reelNumber
    ∧ r.reelNumber ≤ 255 ∧ ∀ c, r.previousClass = some c → 1 ≤ c ∧ c ≤ 5

theorem checkRequest_ranges (r : ReelRequest) :
    (1 ≤ r.accessionLength ∧ r.accessionLength ≤ 24 ∧ r.accession.all isAccessionChar ∧ 1 ≤ r.reelNumber ∧ r.reelNumber ≤ 255
      ∧ previousClassInRange r.previousClass) ↔ requestRanges r := by
  simp [requestRanges, previousClassInRange_iff, isAccessionChar]

theorem checkRequest_of_outside {r : ReelRequest} (outside : ¬(requestRanges r ∧ r.format < 8 ∧ r.initialSet < 4)) :
    checkRequest r = none := by
  unfold checkRequest
  split
  · rename_i ranges
    have ranges := (checkRequest_ranges r).mp ranges
    by_cases format : r.format < 8
    · have set : ¬r.initialSet < 4 := fun set => outside ⟨ranges, format, set⟩
      rw [indexOf_of_le (Nat.le_of_not_lt set)]
      split <;> simp_all
    · rw [indexOf_of_le (Nat.le_of_not_lt format)]
  · rfl

theorem checkRequest_of_inside {r : ReelRequest} {f : Fin 8} {i : Fin 4} (ranges : requestRanges r) (format : r.format = f.val)
    (set : r.initialSet = i.val) : checkRequest r = some (f, i) := by
  rw [checkRequest, if_pos ((checkRequest_ranges r).mpr ranges), indexOf_of_eq format, indexOf_of_eq set]

theorem withLevel_frame (level : Nat) (p : Pace) :
    withLevel level p =
      { p with
        effective := (withLevel level p).effective, counters := (withLevel level p).counters,
        spinUp := (withLevel level p).spinUp } := by
  unfold withLevel
  split
  · rfl
  · split <;> rfl

theorem withLevel_zero (p : Pace) : withLevel 0 p = { p with effective := 0, spinUp := none } := rfl

/-- R52, R53: a rise from 0 with the counters STOPPED starts them, and the spin-up timer with them. -/
theorem withLevel_rise {level : Nat} {p : Pace} (positive : 1 ≤ level) (stopped : p.effective = 0 ∧ p.counters = none) :
    withLevel level p =
      { p with
        effective := level, counters := loadedWith p level, spinUp := if p.trun = true then none else some 0 } := by
  rw [withLevel, if_neg (by omega), if_pos stopped, loadCounters_eq]

theorem withLevel_running_of_pos {level : Nat} {p : Pace} (positive : 1 ≤ level) (running : ¬(p.effective = 0 ∧ p.counters = none)) :
    withLevel level p = { p with effective := level } := by
  rw [withLevel, if_neg (by omega), if_neg running]

theorem loadedWith_ne_none {p : Pace} {level : Nat} (set : isSetLevel p level = true) : loadedWith p level ≠ none := by
  rw [← loadCounters_eq, loadCounters]
  rw [isSetLevel, Option.isSome_iff_exists] at set
  obtain ⟨entry, held⟩ := set
  simp [held]

section
variable {r : ReelRequest} {f : Fin 8} {i : Fin 4} {s : State}

theorem reelOpenOwner_busy (checked : checkRequest r = some (f, i)) (busy : s.reel.state ≠ .noReel ∨ s.contexts ≠ []) :
    reelOpenOwner r s = refuse .badState s := by
  rw [reelOpenOwner, checked]
  exact if_pos busy

theorem reelOpenOwner_missing (checked : checkRequest r = some (f, i)) (closed : s.reel.state = .noReel) (empty : s.contexts = [])
    (missing : s.frameMemory.plan = none ∨ s.formats[f] = none ∨ s.grading.sets[i].state ≠ .ready) :
    reelOpenOwner r s = refuse .notConfigured s := by
  rw [reelOpenOwner, checked]
  refine (if_neg (by simp [closed, empty])).trans ?_
  split
  · rename_i plan stored ready
    obtain absent | absent | absent := missing
    · nomatch plan.symm.trans absent
    · nomatch stored.symm.trans absent
    · exact absurd ready absent
  · rfl

theorem reelOpenOwner_accepted {p : MemoryPlan} {x : Format} (checked : checkRequest r = some (f, i))
    (closed : s.reel.state = .noReel) (empty : s.contexts = []) (plan : s.frameMemory.plan = some p) (stored : s.formats[f] = some x)
    (ready : s.grading.sets[i].state = .ready) :
    reelOpenOwner r s =
      (⟨.ok, [word (s.reel.sequence + 1#16).toNat]⟩, openReel (identityOf r f i) x p s) := by
  rw [reelOpenOwner, checked]
  refine (if_neg (by simp [closed, empty])).trans ?_
  split
  · rename_i plan' stored' _
    cases plan.symm.trans plan'
    cases stored.symm.trans stored'
    rfl
  · rename_i other
    exact absurd ready (other _ _ plan stored)

end

theorem opening_sets (f : ConformanceFields) (i k : Fin 4) (g : Grading) :
    (g.opening f i).sets[k] =
      { g.sets[k] with state := if k = i then .inUse else if g.sets[k].state = .inUse then .ready else g.sets[k].state } := by
  refine (settleSets_follow _ k).trans ?_
  simp [eq_comm]

/-- R51 to R53, R135: the Pace Generator at REEL_OPEN. -/
theorem openReel_pace (x : ReelIdentity) (f : Format) (p : MemoryPlan) (s : State) :
    ∃ level, (level = 0 ∨ isSetLevel s.pace level = true)
      ∧ (openReel x f p s).pace = withLevel level (s.pace.opening x.paceLevel) := by
  have formed : ∃ u, openReel x f p s = formEffective u ∧ u.pace = s.pace.opening x.paceLevel := ⟨_, rfl, rfl⟩
  obtain ⟨u, formed, pace⟩ := formed
  have set := formedLevel_zero_or_set u
  rw [pace] at set
  exact ⟨formedLevel u, set, by rw [formed, formEffective_pace, pace]⟩

/-- Settles O38. -/
theorem reelOpenAnswers : Obligations.ReelOpenAnswers := by
  intro s a r read
  have carries (u : State) : carryOut (.reelOpen a) u = answered (reelOpenOwner r u) := by
    simp only [carryOut, withOperand, read]
  refine ⟨fun misfit => refusedWith_of_owner nofun carries fun x => ?_, fun f i fits format set => ⟨fun busy =>
    refusedWith_of_owner nofun carries fun x => ?_, fun closed empty => ⟨fun missing =>
    refusedWith_of_owner nofun carries fun x => ?_, fun p x plan stored ready =>
    ⟨openReel (identityOf r f i) x p s, answersWith_of_owner nofun rfl carries fun y => ?_, ?_⟩⟩⟩⟩
  · rw [reelOpenOwner, checkRequest_of_outside fun inside => misfit ?_]
    obtain ⟨⟨low, high, chars, first, last, previous⟩, format, set⟩ := inside
    exact ⟨low, high, chars, first, last, format, set, previous⟩
  all_goals
    obtain ⟨low, high, chars, first, last, -, -, previous⟩ := id fits
    have checked := checkRequest_of_inside ⟨low, high, chars, first, last, previous⟩ format set
  · exact reelOpenOwner_busy checked busy
  · exact reelOpenOwner_missing checked closed empty missing
  · exact reelOpenOwner_accepted (s := setInterpreter y s) checked closed empty plan stored ready
  · obtain ⟨level, set, pace⟩ : ∃ level, (level = 0 ∨ isSetLevel s.pace level = true) ∧
        (openReel (identityOf r f i) x p s).pace = withLevel level (s.pace.opening r.paceLevel) := openReel_pace _ x p s
    have effective : (openReel (identityOf r f i) x p s).pace.effective = level := by rw [pace, withLevel_effective]
    refine ⟨rfl, rfl, empty, rfl, rfl, rfl, rfl, rfl, ?_, ?_, levelInv_formEffective _, fun zero => ?_, fun positive =>
      ⟨fun stopped => ?_, fun running => ?_⟩, rfl, rfl, rfl, rfl, fun k => opening_sets x.conformance i k s.grading⟩
    · exact opening_tracker x.tracking r.shrinkHint
    · rw [pace, withLevel_frame]
      rfl
    · rw [pace, effective.symm.trans zero]
      exact ⟨rfl, rfl⟩
    · rw [effective] at positive ⊢
      rw [pace, withLevel_rise positive (p := s.pace.opening r.paceLevel) stopped]
      exact ⟨rfl, loadedWith_ne_none (set.resolve_left (by omega)), rfl⟩
    · rw [effective] at positive
      rw [pace, withLevel_running_of_pos positive (p := s.pace.opening r.paceLevel) (not_and_or.mpr running)]
      exact ⟨rfl, rfl⟩

end Sys2Proof.Machine
end

section
/-! O41, O40: REEL_ABORT and SOFT_RESET. -/

namespace Sys2Proof.Machine

/-! ## Requests withdrawn (R68) -/

theorem countOf_withdrawCount (s : State) (q r : Requester) (p : PerRequester) :
    countOf (withdrawCount s q p) r = if r = q ∧ presented s q = true then 0 else countOf p r := by
  unfold withdrawCount
  by_cases asks : presented s q = true
  · rw [if_pos asks]
    cases q <;> cases r <;> simp [setCount, countOf, asks]
  · rw [if_neg asks, if_neg (fun both => asks both.2)]

theorem agingWithdrawn_withdrawEngines (s : State) : agingWithdrawn s (withdrawEngines (emptyStaging s)) := by
  intro r
  cases r <;> simp [withdrawEngines, countOf_withdrawCount, presented, emptyStaging] <;> rfl

/-! ## The abort's record and ticket (R140, R143, R148) -/

theorem abortRecord_of_identity {s : State} {x : ReelIdentity} (identity : s.reel.identity = some x) :
    abortRecord s =
      ({ s with
        reel :=
          { s.reel with
            record := recordAtEnd s s.reel.record, lastMetrics := some (metricsOf (recordAtEnd s s.reel.record)),
            tickets := if 4 ≤ s.reel.tickets.length then s.reel.tickets
              else s.reel.tickets ++ [ticketOfAbort s x (recordAtEnd s s.reel.record)] },
        notices := if 4 ≤ s.reel.tickets.length then s.notices
          else setNotice s.notices .ticketReady (occur s.notices.ticketReady) },
        decide (4 ≤ s.reel.tickets.length)) := by
  simp only [abortRecord, identity]
  by_cases full : 4 ≤ s.reel.tickets.length
  · simp only [if_neg (Nat.not_lt.mpr full), full, decide_true]
    rfl
  · simp only [if_pos (Nat.lt_of_not_le full), full, decide_false]
    rfl

/-- R139, R140, R143, R148: the abort of a reel, once its contexts `cs` and its packets `packets` stand and the record `record` counts
its frames. -/
theorem abortRecord_abortBlocks {s : State} {x : ReelIdentity} (identity : s.reel.identity = some x) (cs : List FrameContext)
    (packets : List FramePacket) (record : ReelRecord) :
    ∃ aging, (∀ r, countOf aging r = if presented s r = true then 0 else countOf s.frameMemory.aging r) ∧
      abortRecord (abortBlocks
        { s with contexts := cs, delivery := { s.delivery with queue := packets }, reel := { s.reel with record := record } }) =
      ({ s with
        contexts := cs, delivery := { s.delivery with queue := packets },
        intake := { s.intake with mode := .closed, drainTarget := none, silence := none, staging := [] },
        tracker := s.tracker.idled, pace := { s.pace with requested := 0, effective := 0, spinUp := none },
        frameMemory := { s.frameMemory with aging := aging, channel := discardTransfer s.frameMemory.channel },
        conformance := { s.conformance with mode := .idle, window := [], readRequest := none }, repair := s.repair.abort,
        grading := s.grading.abort, interpreter := answerHead ⟨.aborted, []⟩ s.interpreter,
        reel :=
          { s.reel with
            state := .noReel, held := none, record := recordAtEnd s record,
            lastMetrics := some (metricsOf (recordAtEnd s record)),
            tickets := if 4 ≤ s.reel.tickets.length then s.reel.tickets
              else s.reel.tickets ++ [ticketOfAbort s x (recordAtEnd s record)] },
        notices := if 4 ≤ s.reel.tickets.length then s.notices
          else setNotice s.notices .ticketReady (occur s.notices.ticketReady) },
        decide (4 ≤ s.reel.tickets.length)) := by
  set disposed : State :=
    { s with contexts := cs, delivery := { s.delivery with queue := packets }, reel := { s.reel with record := record } }
  obtain ⟨aging, left⟩ := abortBlocks_changes disposed
  have withdrawn : agingWithdrawn disposed (abortBlocks disposed) := agingWithdrawn_withdrawEngines disposed
  rw [left] at withdrawn
  refine ⟨aging, fun r => (withdrawn r).trans (by cases r <;> rfl), ?_⟩
  rw [left]
  exact abortRecord_of_identity identity

/-! ## SOFT_RESET (R155) -/

theorem countOf_softResetBlocks (s : State) : agingWithdrawn s (softResetBlocks s) := agingWithdrawn_withdrawEngines s

theorem sendingPackets_eq (d : DeliveryPort) :
    sendingPackets d = if d.transmission.map (·.source) = some .framePacket then d.queue.take 1 else [] := by
  unfold sendingPackets
  cases d.transmission with
  | none => rfl
  | some t => simp

/-- R155, step 3: every block after the soft reset; only the aging counts are left unsaid. -/
theorem softResetBlocks_changes (s : State) :
    softResetBlocks s =
      { s with
        contexts := [],
        delivery :=
          { s.delivery with queue := sendingPackets s.delivery, stall := none, transmission := detach s.delivery.transmission },
        intake :=
          { s.intake with
            mode := .closed, expected := none, endMark := none, drainTarget := none, silence := none, staging := [] },
        tracker := { s.tracker.idled with qTop := none, lastCut := none },
        pace := { s.pace with requested := 0, ringCap := 7, faultLatch := false, effective := 0, spinUp := none },
        frameMemory :=
          { s.frameMemory with
            slots := [], fillLine := 0, aging := (softResetBlocks s).frameMemory.aging,
            channel := staleTransfer (discardTransfer s.frameMemory.channel) },
        conformance := { s.conformance with mode := .idle, window := [], held := .initial, readRequest := none },
        repair := s.repair.softReset, grading := s.grading.abort, reel := { s.reel with state := .noReel, held := none },
        notices := s.notices.softReset } :=
  formEffective_noReel _ rfl

theorem attn_softReset (u : NoticeUnit) : attn u.softReset = false := by
  rw [Bool.eq_false_iff, ne_eq, attn_iff]
  rintro ⟨c, raised | ⟨k, pending⟩⟩
  · rw [softReset_noticeOf] at raised
    nomatch raised
  · rw [softReset_noticeOf] at pending
    nomatch pending

/-- R155, step 3: the values of the blocks, the reply of the command apart. -/
theorem softResetValues_softResetBlocks (s : State) (y : Interpreter) :
    softResetValues s (settleStall (setInterpreter y (softResetBlocks s))) := by
  have aged := countOf_softResetBlocks s
  set aging := (softResetBlocks s).frameMemory.aging
  rw [settleStall_eq, softResetBlocks_changes]
  refine ⟨rfl, rfl, rfl, ?_, fun c => softReset_noticeOf s.notices c, attn_softReset s.notices, rfl, rfl, rfl, ?_, aged, rfl, rfl, rfl,
    releaseSets_sets s.grading⟩
  · rw [sendingPackets_eq]
    rfl
  · cases s.frameMemory.channel with
    | none => rfl
    | some transfer => cases transfer <;> rfl

theorem occur_enabled (n : NoticeState) : (occur n).enabled = n.enabled := by
  rw [occur_eq]
  split
  · rename_i on
    exact on.1.symm
  · rfl

theorem noticeOf_setNotice_same (u : NoticeUnit) (c : NoticeClass) (n : NoticeState) : noticeOf (setNotice u c n) c = n := by
  cases c <;> rfl

theorem noticeOf_setNotice_other (u : NoticeUnit) {c d : NoticeClass} (n : NoticeState) (other : d ≠ c) :
    noticeOf (setNotice u c n) d = noticeOf u d := by
  cases c <;> cases d <;> first | rfl | exact absurd rfl other

theorem setNotice_occur_enabled (u : NoticeUnit) (c d : NoticeClass) :
    (noticeOf (setNotice u c (occur (noticeOf u c))) d).enabled = (noticeOf u d).enabled := by
  by_cases same : d = c
  · rw [same, noticeOf_setNotice_same, occur_enabled]
  · rw [noticeOf_setNotice_other _ _ same]

/-- R155, step 1: the blocks after a reset are those that a reset without a reel leaves; the abort has touched nothing else. -/
theorem softResetValues_of_aborted {s t : State} {aging : PerRequester} {reel : ReelController} {y : Interpreter} {notices : NoticeUnit}
    (aged : ∀ r, countOf aging r = if presented s r = true then 0 else countOf s.frameMemory.aging r)
    (enables : ∀ c, (noticeOf notices c).enabled = (noticeOf s.notices c).enabled)
    (values : softResetValues
      { s with
        contexts := [], delivery := { s.delivery with queue := sendingPackets s.delivery },
        intake := { s.intake with mode := .closed, drainTarget := none, silence := none, staging := [] },
        tracker := s.tracker.idled, pace := { s.pace with requested := 0, effective := 0, spinUp := none },
        frameMemory := { s.frameMemory with aging := aging, channel := discardTransfer s.frameMemory.channel },
        conformance := { s.conformance with mode := .idle, window := [], readRequest := none }, repair := s.repair.abort,
        grading := s.grading.abort, interpreter := y, reel := reel, notices := notices } t) : softResetValues s t := by
  obtain ⟨pending, formats, contexts, delivery, latches, attention, intake, tracker, pace, memory, withdrawn, conformance, repair, grading,
    sets⟩ := values
  refine ⟨pending, formats, contexts, delivery.trans ?_, fun c => (latches c).trans (by rw [enables]), attention, intake, tracker, pace,
    memory.trans ?_, fun r => (withdrawn r).trans ?_, conformance, repair, grading, fun k => (sets k).trans ?_⟩
  · simp only [sendingPackets_eq]
    split
    · rw [List.take_take]
      rfl
    · rfl
  · cases s.frameMemory.channel with
    | none => rfl
    | some transfer => cases transfer <;> rfl
  · refine (if_neg ?_).trans (aged r)
    cases r <;> simp [presented, Repair.abort]
  · rw [show s.grading.abort.sets[k] = _ from releaseSets_sets s.grading k]
    cases s.grading.sets[k] with
    | mk state luts matrix => cases state <;> rfl

theorem answerHead_of_idle {x : Interpreter} (a : Answer) (idle : x.inFlight = none) : answerHead a x = x := by
  simp [answerHead, idle]

theorem answerHead_of_inFlight {x : Interpreter} {q : QueuedCommand} {rest : List QueuedCommand} {j : Fin 8} (a : Answer)
    (head : x.queue = q :: rest) (inFlight : x.inFlight = some j) :
    answerHead a x =
      { x with
        queue := rest, inFlight := none, ordinary := x.ordinary.set j (.filled ⟨q.code, q.tag, a.status, a.data⟩),
        fillOrder := x.fillOrder ++ [.ordinary j] } := by
  simp [answerHead, head, inFlight, fillOrdinary]

/-- R155: the reset carried out, after the abort that its first step performs. -/
theorem exec_softReset {s u : State} {dropped : Bool} {n : Nat} (tag : Half) (first : softResetAbort s = ⟨n, dropped, u⟩) :
    exec (.softReset tag) s =
      .next (settleStall (setInterpreter
        (replyImmediate ⟨0x3F#16, tag, .ok, [word u.interpreter.queue.length, if dropped then 1#32 else 0#32]⟩
          { u.interpreter with queue := [], inFlight := none }) (softResetBlocks u))) := by
  have runs : exec (.softReset tag) s = done (runSoftReset tag s) := rfl
  have blocks (y : Interpreter) : softResetBlocks (setInterpreter y u) = setInterpreter y (softResetBlocks u) := rfl
  simp only [runs, runSoftReset, first, blocks, markWord_eq_oneIf, answerImmediate, setInterpreter_setInterpreter,
    setInterpreter_interpreter]
  rfl

theorem softResetBlocks_reel (s : State) : (softResetBlocks s).reel = { s.reel with state := .noReel, held := none } := rfl

theorem forgetCommands_of_idle {x : Interpreter} (idle : x.inFlight = none) :
    ({ x with queue := [], inFlight := none } : Interpreter) = { x with queue := [] } :=
  congrArg (fun f => Interpreter.mk [] f _ _ _ _ _) idle.symm

/-- Settles O41. -/
theorem softResetCarriedOut : Obligations.SoftResetCarriedOut := by
  refine ⟨fun s tag closed => ?_, fun s tag x y n reelOpen identity inFlight => ?_⟩
  · refine ⟨_, exec_softReset tag (if_pos closed), settleStall_interpreter _, ?_, softResetValues_softResetBlocks s _⟩
    rw [settleStall_reel, setInterpreter_reel, softResetBlocks_reel, ← closed]
  · obtain ⟨aging, aged, aborted⟩ := abortRecord_abortBlocks identity [] (sendingPackets s.delivery)
      { s.reel.record with framesAborted := satAdd s.reel.record.framesAborted s.contexts.length }
    have first : softResetAbort s = ⟨s.contexts.length, _, _⟩ := (if_neg reelOpen).trans
      (congrArg (fun r : State × Bool => Aborted.mk s.contexts.length r.2 r.1) aborted)
    refine ⟨_, exec_softReset tag first, (settleStall_interpreter _).trans ?_, ?_,
      softResetValues_of_aborted aged (fun c => ?_) (softResetValues_softResetBlocks _ _)⟩
    · obtain ⟨idle, rfl, rfl⟩ | ⟨q, rest, j, head, held, rfl, rfl⟩ := inFlight
      · rw [answerHead_of_idle _ idle, forgetCommands_of_idle idle]
        simp only [decide_eq_true_eq]
        rfl
      · rw [answerHead_of_inFlight _ head held]
        simp only [decide_eq_true_eq]
        rfl
    · rw [settleStall_reel, setInterpreter_reel, softResetBlocks_reel]
    · split
      · rfl
      · exact setNotice_occur_enabled _ _ c

end Sys2Proof.Machine
end

section
/-! What a command does when it is carried out does not read the Command Interpreter's block or the stall timer, but for the COUNTERS
record of STATUS_QUERY (R152, R159). -/

namespace Sys2Proof.Machine

/-- A state with another interpreter's block and another count of the stall timer. -/
def refit (y : Interpreter) (k : Option Nat) (s : State) : State :=
  { s with interpreter := y, delivery := { s.delivery with stall := k } }

/-- An owner neither reads nor changes the interpreter's block and the stall timer. -/
def Oblivious (owner : State → Carried) : Prop :=
  ∀ y k s, owner (refit y k s) = ((owner s).1, refit y k (owner s).2)

namespace Oblivious

theorem refuse (status : ReplyStatus) : Oblivious (refuse status) := fun _ _ _ => rfl

theorem ite {P : State → Prop} [∀ s, Decidable (P s)] {f g : State → Carried} (same : ∀ y k s, P (refit y k s) ↔ P s)
    (yes : Oblivious f) (no : Oblivious g) : Oblivious (fun s => if P s then f s else g s) := by
  intro y k s
  by_cases holds : P s
  · simp only [if_pos ((same y k s).mpr holds), if_pos holds]
    exact yes y k s
  · simp only [if_neg (mt (same y k s).mp holds), if_neg holds]
    exact no y k s

theorem withOperand {α : Type} (x : Option α) {owner : α → State → Carried} (each : ∀ v, Oblivious (owner v)) :
    Oblivious (withOperand x owner) := by
  cases x with
  | none => exact refuse .badArg
  | some v => exact each v

end Oblivious

theorem formatSetOwner_oblivious (n : Nat) (f : Format) : Oblivious (formatSetOwner n f) := by
  unfold formatSetOwner
  cases indexOf 8 n with
  | none => exact .refuse _
  | some i =>
    exact .ite (fun _ _ _ => Iff.rfl) (.refuse _) (.ite (fun _ _ _ => Iff.rfl) (.refuse _)
      (.ite (fun _ _ _ => Iff.rfl) (.refuse _) fun _ _ _ => rfl))

theorem memoryPlanOwner_oblivious (p : MemoryPlan) : Oblivious (memoryPlanOwner p) := by
  unfold memoryPlanOwner
  refine .ite (fun _ _ _ => Iff.rfl) (.refuse _) (.ite (fun _ _ _ => Iff.rfl) (.refuse _)
    (.ite (fun _ _ _ => Iff.rfl) (.refuse _) (.ite (fun _ _ _ => Iff.rfl) (.refuse _) ?_)))
  intro y k s
  beta_reduce
  rw [show (refit y k s).formats = s.formats from rfl]
  cases firstMisfit s.formats p with
  | none => rfl
  | some n => rfl

theorem paceTableOwner_oblivious (t : Vector (Option PaceLevel) 7) (high low : Nat) : Oblivious (paceTableOwner t high low) := by
  unfold paceTableOwner
  exact .ite (fun _ _ _ => Iff.rfl) (.refuse _) (.ite (fun _ _ _ => Iff.rfl) (.refuse _) (.ite (fun _ _ _ => Iff.rfl) (.refuse _)
    (.ite (fun _ _ _ => Iff.rfl) (fun _ _ _ => rfl) fun _ _ _ => rfl)))

theorem lutLoadOwner_oblivious (set lut first count : Nat) (data : List Half) : Oblivious (lutLoadOwner set lut first count data) := by
  unfold lutLoadOwner
  cases indexOf 4 set with
  | none => exact .refuse _
  | some i =>
    cases indexOf 6 lut with
    | none => exact .refuse _
    | some l => exact .ite (fun _ _ _ => Iff.rfl) (.refuse _) (.ite (fun _ _ _ => Iff.rfl) (.refuse _) fun _ _ _ => rfl)

theorem matrixLoadOwner_oblivious (set : Nat) (m : Matrix) : Oblivious (matrixLoadOwner set m) := by
  unfold matrixLoadOwner
  cases indexOf 4 set with
  | none => exact .refuse _
  | some i => exact .ite (fun _ _ _ => Iff.rfl) (.refuse _) fun _ _ _ => rfl

theorem setClearOwner_oblivious (set : Nat) : Oblivious (setClearOwner set) := by
  unfold setClearOwner
  cases indexOf 4 set with
  | none => exact .refuse _
  | some i => exact .ite (fun _ _ _ => Iff.rfl) (.refuse _) fun _ _ _ => rfl

theorem setCommitOwner_oblivious (set : Nat) : Oblivious (setCommitOwner set) := by
  unfold setCommitOwner
  cases indexOf 4 set with
  | none => exact .refuse _
  | some i =>
    intro y k s
    dsimp only
    rw [show (refit y k s).grading = s.grading from rfl]
    cases s.grading.sets[i].state with
    | loading => by_cases complete : isComplete s.grading.sets[i] = true <;> simp only [complete] <;> rfl
    | empty => rfl
    | ready => rfl
    | inUse => rfl

theorem cueAddOwner_oblivious (kind : CueKind) (set d trigger : Nat) : Oblivious (cueAddOwner kind set d trigger) := by
  unfold cueAddOwner
  cases indexOf 4 set with
  | none => exact .refuse _
  | some i =>
    refine .ite (fun _ _ _ => Iff.rfl) (.refuse _) (.ite (fun _ _ _ => Iff.rfl) (.refuse _) ?_)
    cases kind with
    | frame => exact .ite (fun _ _ _ => Iff.rfl) (.refuse _) (.ite (fun _ _ _ => Iff.rfl) (.refuse _) fun _ _ _ => rfl)
    | splice => exact .ite (fun _ _ _ => Iff.rfl) (.refuse _) fun _ _ _ => rfl

theorem scratchLoadOwner_oblivious (xs : List ScratchSpan) : Oblivious (scratchLoadOwner xs) := by
  unfold scratchLoadOwner
  exact .ite (fun _ _ _ => Iff.rfl) (.refuse _) (.ite (fun _ _ _ => Iff.rfl) (.refuse _)
    (.ite (fun _ _ _ => Iff.rfl) (.refuse _) fun _ _ _ => rfl))

theorem shelvingRowOwner_oblivious (row : Nat) (r : Option ShelvingRow) : Oblivious (shelvingRowOwner row r) := by
  unfold shelvingRowOwner
  cases indexOf 16 row with
  | none => exact .refuse _
  | some i => exact .ite (fun _ _ _ => Iff.rfl) (fun _ _ _ => rfl) (.refuse _)

theorem classSetOwner_oblivious (cls : Nat) (e : Option ClassEntry) : Oblivious (classSetOwner cls e) := by
  unfold classSetOwner
  refine .ite (fun _ _ _ => Iff.rfl) (.refuse _) ?_
  cases indexOf 5 (cls - 1) with
  | none => exact .refuse _
  | some i => exact .ite (fun _ _ _ => Iff.rfl) (fun _ _ _ => rfl) (.refuse _)

theorem reelOpenOwner_oblivious (r : ReelRequest) : Oblivious (reelOpenOwner r) := by
  unfold reelOpenOwner
  cases checkRequest r with
  | none => exact .refuse _
  | some pair =>
    obtain ⟨f, i⟩ := pair
    refine .ite (fun _ _ _ => Iff.rfl) (.refuse _) ?_
    intro y k s
    beta_reduce
    rw [show (refit y k s).frameMemory = s.frameMemory from rfl, show (refit y k s).formats = s.formats from rfl,
      show (refit y k s).grading = s.grading from rfl]
    cases s.frameMemory.plan with
    | none => rfl
    | some p =>
      cases s.formats[f] with
      | none => rfl
      | some x => cases s.grading.sets[i].state <;> rfl

theorem noticeAckOwner_oblivious (cls : Nat) : Oblivious (noticeAckOwner cls) := by
  unfold noticeAckOwner
  cases classOfNumber cls with
  | none => exact .refuse _
  | some c => exact fun _ _ _ => rfl

theorem noticeEnableOwner_oblivious (cls : Nat) (on : Bool) : Oblivious (noticeEnableOwner cls on) := by
  unfold noticeEnableOwner
  cases namedClasses cls with
  | nil => exact .refuse _
  | cons c cs => exact fun _ _ _ => rfl

/-- A record of STATUS_QUERY but COUNTERS reads no other block than its owner's. -/
theorem statusRecord_refit {x : StatusSelector} (other : x ≠ .counters) (y : Interpreter) (k : Option Nat) (s : State) :
    statusRecord x (refit y k s) = statusRecord x s := by
  cases x with
  | counters => exact absurd rfl other
  | _ => rfl

theorem counters_of_statusSelectorOf {w : Word} (named : statusSelectorOf w = some .counters) : w = 9#32 := by
  refine BitVec.eq_of_toNat_eq ?_
  unfold statusSelectorOf at named
  split at named <;> first | assumption | nomatch named

theorem startClose_refit (y : Interpreter) (k : Option Nat) (s : State) : startClose (refit y k s) = refit y k (startClose s) := by
  rw [startClose, startClose, startDrain, startDrain]
  cases newest : s.contexts.getLast? <;> simp only [newest, refit] <;> rfl

/-- R152: what a command does and answers depends on no command behind it and on no reply, but for the COUNTERS record. -/
theorem carryOut_refit {c : Command} (other : c ≠ .statusQuery 9#32) (y : Interpreter) (k : Option Nat) (s : State) :
    carryOut c (refit y k s) = ((carryOut c s).1, refit y k (carryOut c s).2) := by
  have of_owner {owner : State → Carried} (oblivious : Oblivious owner) :
      answered (owner (refit y k s)) = ((answered (owner s)).1, refit y k (answered (owner s)).2) := by
    rw [oblivious]
    rfl
  cases c with
  | formatSet a => exact of_owner (.withOperand _ fun v => formatSetOwner_oblivious _ v)
  | memoryPlan a => exact of_owner (memoryPlanOwner_oblivious _)
  | paceTableSet a => exact of_owner (.withOperand _ fun v => paceTableOwner_oblivious v _ _)
  | paceRequest l => exact of_owner (.withOperand _ fun v _ _ _ => rfl)
  | timingSet x y z => exact of_owner fun _ _ _ => rfl
  | framingNudge d => exact of_owner fun _ _ _ => rfl
  | lutLoad a b c d e => exact of_owner (lutLoadOwner_oblivious _ _ _ _ _)
  | matrixLoad a => exact of_owner (.withOperand _ fun v => matrixLoadOwner_oblivious _ v)
  | setClear a => exact of_owner (setClearOwner_oblivious _)
  | setCommit a => exact of_owner (setCommitOwner_oblivious _)
  | cueAdd kind a d t => exact of_owner (.withOperand _ fun v => cueAddOwner_oblivious v _ _ _)
  | cueClear w => exact of_owner (.withOperand _ fun v _ _ _ => rfl)
  | scratchLoad xs => exact of_owner (.withOperand _ fun v => scratchLoadOwner_oblivious v)
  | scratchClear w => exact of_owner (.withOperand _ fun v _ _ _ => rfl)
  | shelvingRowSet a => exact of_owner (.withOperand _ fun v => shelvingRowOwner_oblivious _ v)
  | classSet a => exact of_owner (.withOperand _ fun v => classSetOwner_oblivious _ v)
  | reelOpen a => exact of_owner (.withOperand _ fun v => reelOpenOwner_oblivious v)
  | reelClose =>
    simp only [carryOut, reelCloseOwner]
    by_cases opened : s.reel.state = .opened
    · rw [if_pos opened, if_pos (show (refit y k s).reel.state = .opened from opened), startClose_refit]
    · rw [if_neg opened, if_neg (show (refit y k s).reel.state ≠ .opened from opened)]
  | noticeEnable a b => exact of_owner (.withOperand _ fun v => noticeEnableOwner_oblivious _ v)
  | noticeAck a => exact of_owner (noticeAckOwner_oblivious _)
  | statusQuery a =>
    simp only [carryOut]
    cases named : statusSelectorOf a with
    | none => rfl
    | some x =>
      have record := statusRecord_refit (x := x) (fun counters => ?_) y k s
      · simp only [Machine.withOperand, record]
        rfl
      · subst counters
        exact other (congrArg Command.statusQuery (counters_of_statusSelectorOf named))
  | wrongLength => rfl
  | unknown => rfl

end Sys2Proof.Machine
end

section
/-! O12, O13: a command is read back from its bytes, and a CONTROL packet runs the command it carries. -/

namespace Sys2Proof

/-! ## Words of a run -/

theorem wordAt_nil (i : Nat) : wordAt [] i = 0#32 := by simp [wordAt, halfAt, byteAt]

theorem bytesOfWords_cons (w : Word) (ws : List Word) : bytesOfWords (w :: ws) = wordBytes w ++ bytesOfWords ws := rfl

theorem wordBytes_eq (w : Word) : wordBytes w = bytesOfWords [w] := by simp [bytesOfWords]

theorem wordAt_bytesOfWords (ws : List Word) (i : Nat) : wordAt (bytesOfWords ws) i = ws.getD i 0#32 := by
  induction ws generalizing i with
  | nil => exact wordAt_nil i
  | cons w ws ih =>
    rw [bytesOfWords_cons]
    cases i with
    | zero => exact wordAt_wordBytes w _
    | succ i => exact (wordAt_cons w _ i).trans (ih i)

/-- Reading past a run of whole words. -/
theorem wordAt_append_words {a : List Byte} {n : Nat} (b : List Byte) (k : Nat) (words : a.length = 4 * n) :
    wordAt (a ++ b) (n + k) = wordAt b k := by
  unfold wordAt
  rw [halfAt_append_right _ _ _ (by omega), halfAt_append_right _ _ _ (by omega)]
  congr 2 <;> omega

/-! ## Commands read back (Table 12-9) -/

theorem ofLength_of_length {n : Nat} {args : List Byte} (c : Command) (length : args.length = n) : ofLength n args c = c :=
  if_pos length

theorem lutLoadAt_argBytes (set lut first count : Word) {data : List Half} (some : 1 ≤ data.length) :
    lutLoadAt (argBytesOf (.lutLoad set lut first count data)) = .lutLoad set lut first count data := by
  have head : (bytesOfWords [set, lut, first, count]).length = 16 := bytesOfWords_length _
  have length : (argBytesOf (.lutLoad set lut first count data)).length = 16 + 2 * data.length := by
    rw [argBytesOf, List.length_append, head, halfBytes_flatMap_length]
  have word (i : Nat) (below : i < 4) :
      wordAt (argBytesOf (.lutLoad set lut first count data)) i = [set, lut, first, count].getD i 0#32 := by
    rw [argBytesOf, wordAt_append_left _ _ _ (by omega), wordAt_bytesOfWords]
  have entries : halvesOf data.length ((argBytesOf (.lutLoad set lut first count data)).drop 16) = data := by
    rw [argBytesOf, List.drop_left' head]
    simpa using halvesOf_halfBytes data []
  rw [lutLoadAt, if_pos (by omega), length, show (16 + 2 * data.length - 16) / 2 = data.length by omega, entries, word 0 (by decide),
    word 1 (by decide), word 2 (by decide), word 3 (by decide)]
  rfl

theorem scratchLoadAt_argBytes {items : List Word} (few : items.length ≤ 254) :
    scratchLoadAt (argBytesOf (.scratchLoad items)) = .scratchLoad items := by
  have count : (wordAt (argBytesOf (.scratchLoad items)) 0).toNat = items.length := by
    rw [argBytesOf, wordAt_wordBytes, BitVec.toNat_ofNat]
    omega
  have length : (argBytesOf (.scratchLoad items)).length = 4 + 4 * items.length := by
    rw [argBytesOf, List.length_append, wordBytes_length, bytesOfWords_length]
  rw [scratchLoadAt, count, if_pos (by omega), argBytesOf, List.drop_left' (wordBytes_length _)]
  simpa using wordsOf_bytesOfWords items []

theorem reelOpenArgsAt_argBytes {a : ReelOpenArgs} (whole : a.accession.length = 24) :
    (argBytesOf (.reelOpen a)).length = 56 ∧ reelOpenArgsAt (argBytesOf (.reelOpen a)) = a := by
  set tail := [a.reelNumber, a.format, a.initialSet, a.presence, a.shrinkHint, a.previousClass, a.paceLevel] with tailDef
  have bytes : argBytesOf (.reelOpen a) = wordBytes a.accessionLength ++ (a.accession ++ bytesOfWords tail) := List.append_assoc ..
  have bytes' : argBytesOf (.reelOpen a) = (wordBytes a.accessionLength ++ a.accession) ++ bytesOfWords tail := rfl
  have length : (wordBytes a.accessionLength ++ a.accession).length = 4 * 7 := by
    rw [List.length_append, wordBytes_length, whole]
  have word (k : Nat) : wordAt (argBytesOf (.reelOpen a)) (7 + k) = tail.getD k 0#32 := by
    rw [bytes', wordAt_append_words _ k length, wordAt_bytesOfWords]
  have accession : ((argBytesOf (.reelOpen a)).drop 4).take 24 = a.accession := by
    rw [bytes, List.drop_left' (wordBytes_length _), List.take_left' whole]
  constructor
  · rw [bytes', List.length_append, length, bytesOfWords_length]
    rfl
  · rw [reelOpenArgsAt, accession, word 0, word 1, word 2, word 3, word 4, word 5, word 6, bytes, wordAt_wordBytes]
    rfl

namespace Machine

/-- Settles O12. -/
theorem commandsReadBack : Obligations.CommandsReadBack := by
  intro c good
  have words (c : Command) (ws : List Word) (n : Nat) (length : 4 * ws.length = n) : ofLength n (bytesOfWords ws) c = c :=
    ofLength_of_length c ((bytesOfWords_length ws).trans length)
  cases c with
  | lutLoad set lut first count data =>
    simp only [Command.wellFormed, Bool.and_eq_true, decide_eq_true_eq] at good
    exact lutLoadAt_argBytes set lut first count good.1
  | scratchLoad items => exact scratchLoadAt_argBytes (of_decide_eq_true good)
  | reelOpen a =>
    obtain ⟨length, args⟩ := reelOpenArgsAt_argBytes (beq_iff_eq.mp good)
    exact (ofLength_of_length _ length).trans (congrArg Command.reelOpen args)
  | reelClose => rfl
  | wrongLength => nomatch good
  | unknown => nomatch good
  | _ =>
    simp only [argBytesOf, wordBytes_eq]
    refine (words _ _ _ rfl).trans ?_
    simp only [formatSetArgsAt, wordAt_bytesOfWords]
    rfl

/-! ## CONTROL packets (R4, R150, R154) -/

/-- R4: a good CONTROL packet brings its code, tag and argument bytes to the interpreter. -/
theorem exec_controlRun {args : List Byte} (code tag : Half) (s : State) (fits : args.length ≤ 1020) :
    exec (.controlPacket (controlRun code tag args)) s = done (arrivePacket code tag args s) := by
  have length : (controlPayload code tag args).length = 4 + args.length := by
    simp only [controlPayload, List.length_append, halfBytes_length]
  have codeAt : halfAt (controlPayload code tag args) 0 = code := by
    rw [controlPayload, List.append_assoc, halfAt_halfBytes]
  have tagAt : halfAt (controlPayload code tag args) 2 = tag := by
    rw [controlPayload, List.append_assoc, halfAt_append_right _ _ _ (by rw [halfBytes_length]), halfBytes_length, Nat.sub_self,
      halfAt_halfBytes]
  have argsAt : (controlPayload code tag args).drop 4 = args := by
    rw [controlPayload, List.drop_left' (by simp only [List.length_append, halfBytes_length])]
  have arrives : arrivalOf (controlRun code tag args) = .control (some (controlPayload code tag args)) :=
    arrivalOf_control _ (by omega)
  rw [exec_controlPacket_eq s arrives, done, receiveControl, if_neg (by omega), codeAt, tagAt, argsAt]

theorem isImmediate_codeOf (c : Command) : isImmediate (codeOf c) = false := by cases c <;> rfl

theorem isImmediate_of_ne {code : Half} (abort : code ≠ 0x24#16) (reset : code ≠ 0x3F#16) : isImmediate code = false := by
  simp [isImmediate, reelAbortCode, softResetCode, abort, reset]

theorem arrivePacket_queued {code : Half} (tag : Half) (args : List Byte) (s : State) (queued : isImmediate code = false) :
    arrivePacket code tag args s = arrive ⟨code, tag, commandOf code args⟩ s := by
  rw [arrivePacket, queued]
  rfl

theorem argBytesOf_length {c : Command} (good : c.wellFormed = true) : (argBytesOf c).length ≤ 1020 := by
  have words (ws : List Word) (few : ws.length ≤ 255) : (bytesOfWords ws).length ≤ 1020 := by
    rw [bytesOfWords_length]
    omega
  cases c with
  | lutLoad set lut first count data =>
    simp only [Command.wellFormed, Bool.and_eq_true, decide_eq_true_eq] at good
    rw [argBytesOf, List.length_append, bytesOfWords_length, halfBytes_flatMap_length]
    simp only [List.length_cons, List.length_nil]
    omega
  | scratchLoad items =>
    have few : items.length ≤ 254 := of_decide_eq_true good
    rw [argBytesOf, List.length_append, wordBytes_length, bytesOfWords_length]
    omega
  | reelOpen a => exact (reelOpenArgsAt_argBytes (beq_iff_eq.mp good)).1.trans_le (by decide)
  | reelClose => exact Nat.zero_le _
  | wrongLength => nomatch good
  | unknown => nomatch good
  | _ =>
    simp only [argBytesOf, wordBytes_eq]
    exact words _ (Nat.le_of_ble_eq_true rfl)

/-- R150: the packet of a command that can be stated is the arrival of that command. -/
theorem exec_commandPacket {c : Command} (tag : Half) (s : State) (good : c.wellFormed = true) :
    exec (.controlPacket (controlRun (codeOf c) tag (argBytesOf c))) s = done (arriveCommand tag c s) := by
  rw [exec_controlRun _ _ _ (argBytesOf_length good), arrivePacket_queued _ _ _ (isImmediate_codeOf c), commandsReadBack c good]
  rfl

theorem ne_wrongLength_of_wellFormed {c : Command} (good : c.wellFormed = true) : c ≠ .wrongLength := by
  rintro rfl
  nomatch good

/-- R151, R152: a command other than REEL_CLOSE that starts at its arrival is answered in its slot. -/
theorem arriveCommand_isAnswered {c : Command} {s : State} {i : Fin 8} (tag : Half) (other : c ≠ .reelClose)
    (ready : readyForCommand s i) :
    ∃ status data u, done (arriveCommand tag c s) = .next (answeredIn i (codeOf c) tag status data u)
      ∧ u.interpreter = s.interpreter ∧ u.pending = s.pending := by
  obtain ⟨answered, -⟩ := carryOut_effect c (startedIn i ⟨codeOf c, tag, c⟩ s) other
  obtain ⟨a, answer⟩ := Option.isSome_iff_exists.mp answered
  refine ⟨_, _, _, arriveCommand_answered i tag c a s _ ready (Prod.ext answer rfl), rfl, ?_⟩
  exact pending_carryOut c _ rfl

/-- Settles O13. -/
theorem controlPacketRunsItsCommand : Obligations.ControlPacketRunsItsCommand := by
  refine ⟨fun c tag s good => ?_, fun tag s => exec_controlRun _ _ _ (Nat.zero_le _), fun tag s => exec_controlRun _ _ _ (Nat.zero_le _),
    fun code tag args s fits abort reset unknown => ?_, fun run s => ⟨_, rfl⟩, fun c tag i s good other ready => ?_⟩
  · rw [exec_commandPacket tag s good, exec_rowOf c tag s (ne_wrongLength_of_wellFormed good)]
  · rw [exec_controlRun _ _ _ fits, arrivePacket_queued _ _ _ (isImmediate_of_ne abort reset), unknown]
    rfl
  · rw [exec_commandPacket tag s good]
    exact arriveCommand_isAnswered tag other ready

end Machine

end Sys2Proof
end

section
/-! O42, O40: arrivals at the Command Queue, and REEL_ABORT. -/

namespace Sys2Proof.Machine

/-! ## Arrivals (R150, R152) -/

theorem readyForCommand_iff (s : State) (i : Fin 8) :
    readyForCommand s i ↔ s.interpreter.queue = [] ∧ s.interpreter.inFlight = none ∧ freeSlot s.interpreter = some i := Iff.rfl

/-- R150, R152: a command that finds the interpreter ready starts at once, alone. -/
theorem arrive_headStarted {s : State} {i : Fin 8} (q : QueuedCommand) (ready : readyForCommand s i) :
    arrive q s = headStarted i q [] s := by
  rw [arrive_ready i q s ready, runHead_headStarted i q [] _ rfl]
  rfl

/-- R150: a command that cannot start joins the tail of a queue that has room. -/
theorem arrive_joins {s : State} (q : QueuedCommand) (room : s.interpreter.queue.length < 8)
    (waits : s.interpreter.queue ≠ [] ∨ s.interpreter.inFlight ≠ none ∨ freeSlot s.interpreter = none) :
    arrive q s = { s with interpreter := { s.interpreter with queue := s.interpreter.queue ++ [q] } } := by
  rw [arrive, if_pos room]
  split
  · rename_i empty
    exact headsStart_stopped (runQueue_starts _) (.inr (waits.resolve_left (not_not.mpr empty)))
  · rfl

theorem arrive_busy {s : State} {i : Fin 8} (q : QueuedCommand) (full : 8 ≤ s.interpreter.queue.length)
    (free : freeSlot s.interpreter = some i) :
    arrive q s = setInterpreter (fillOrdinary i ⟨q.code, q.tag, .busy, []⟩ s.interpreter) s := by
  rw [arrive, if_neg (by omega), free]

theorem arrive_dropped {s : State} (q : QueuedCommand) (full : 8 ≤ s.interpreter.queue.length) (none : freeSlot s.interpreter = none) :
    arrive q s = { s with interpreter := { s.interpreter with dropped := satAdd s.interpreter.dropped 1 } } := by
  rw [arrive, if_neg (by omega), none]
  rfl

/-! ## A head with commands behind it (R152, R159) -/

theorem headStarted_answered {i : Fin 8} {q : QueuedCommand} {rest : List QueuedCommand} {s t : State} {a : Answer}
    (carried : carryOut q.command
      { s with
        interpreter :=
          { s.interpreter with queue := q :: rest, inFlight := some i, ordinary := s.interpreter.ordinary.set i .claimed } } =
      (some a, t)) :
    headStarted i q rest s =
      { t with
        interpreter :=
          { s.interpreter with
            queue := rest, inFlight := none, ordinary := s.interpreter.ordinary.set i (.filled ⟨q.code, q.tag, a.status, a.data⟩),
            fillOrder := s.interpreter.fillOrder ++ [.ordinary i] } } := by
  unfold headStarted
  dsimp only
  rw [carried]

theorem headStarted_unanswered {i : Fin 8} {q : QueuedCommand} {rest : List QueuedCommand} {s t : State}
    (carried : carryOut q.command
      { s with
        interpreter :=
          { s.interpreter with queue := q :: rest, inFlight := some i, ordinary := s.interpreter.ordinary.set i .claimed } } =
      (none, t)) : headStarted i q rest s = t := by
  unfold headStarted
  dsimp only
  rw [carried]

theorem delivery_ownerEffect {s t : State} (e : OwnerEffect s t) : t.delivery = s.delivery := by cases e <;> rfl

theorem carryOut_delivery (c : Command) (s : State) : (carryOut c s).2.delivery = s.delivery := by
  refine carryOut_keeps (P := fun t => t.delivery = s.delivery) (fun _ _ kept e => (delivery_ownerEffect e).trans kept)
    (fun t kept _ => ?_) c s rfl
  obtain ⟨_, _, _, _, left⟩ := startClose_changes t
  rw [left]
  exact kept

/-- R152: the commands behind a head that starts wait behind it; nothing else depends on them. -/
theorem headStarted_rest {i : Fin 8} {q : QueuedCommand} (rest : List QueuedCommand) (s : State) (other : q.command ≠ .statusQuery 9#32) :
    headStarted i q rest s =
      { headStarted i q [] s with
        interpreter :=
          { (headStarted i q [] s).interpreter with queue := (headStarted i q [] s).interpreter.queue ++ rest } } := by
  set claimed : Interpreter :=
    { s.interpreter with queue := [q], inFlight := some i, ordinary := s.interpreter.ordinary.set i .claimed } with claimedDef
  have behind := carryOut_refit other { claimed with queue := q :: rest } s.delivery.stall { s with interpreter := claimed }
  have delivery := carryOut_delivery q.command { s with interpreter := claimed }
  have interpreter := carryOut_interpreter q.command { s with interpreter := claimed }
  rcases carried : carryOut q.command { s with interpreter := claimed } with ⟨answer, t⟩
  rw [carried] at behind delivery interpreter
  have kept : refit { claimed with queue := q :: rest } s.delivery.stall t =
      setInterpreter { claimed with queue := q :: rest } t := by
    rw [refit, show s.delivery.stall = t.delivery.stall by rw [delivery]]
    rfl
  cases answer with
  | some a =>
    rw [headStarted_answered carried, headStarted_answered behind, kept]
    rfl
  | none =>
    rw [headStarted_unanswered carried, headStarted_unanswered behind, kept, interpreter]
    rfl

/-- LE 25, R159: the COUNTERS record counts the commands behind the query. -/
theorem counterRecord_behind (i : Fin 8) (q : QueuedCommand) (rest : List QueuedCommand) (s : State) :
    counterRecord
      { s with
        interpreter :=
          { s.interpreter with queue := q :: rest, inFlight := some i, ordinary := s.interpreter.ordinary.set i .claimed } } =
      (counterItems i s).set 20 (word (rest.length + 1)) := by
  rw [← counterRecord_started i q s]
  rfl

theorem headStarted_counters {i : Fin 8} {q : QueuedCommand} (rest : List QueuedCommand) (s : State)
    (query : q.command = .statusQuery 9#32) :
    headStarted i q rest s =
      { s with
        interpreter :=
          { s.interpreter with
            queue := rest, inFlight := none,
            ordinary := s.interpreter.ordinary.set i
              (.filled ⟨q.code, q.tag, .ok, (counterItems i s).set 20 (word (rest.length + 1))⟩),
            fillOrder := s.interpreter.fillOrder ++ [.ordinary i] } } := by
  rw [← counterRecord_behind i q rest s]
  have carried (u : State) : carryOut q.command u = (some ⟨.ok, counterRecord u⟩, u) := by rw [query]; rfl
  exact headStarted_answered (carried _)

/-! ## Values that cannot belong (R167, LE 9) -/

theorem polarityOf_of_two_le {w : Word} (above : 2 ≤ w.toNat) : polarityOf w = none := by
  rw [polarityOf, if_neg, if_neg] <;> rintro rfl <;> exact absurd above (by decide)

theorem formatOf_eq_none {a : FormatSetArgs} (bad : 2 ≤ a.polarity.toNat ∨ 2 ≤ a.irMode.toNat) : formatOf a = none := by
  unfold formatOf
  obtain above | above := bad
  · rw [polarityOf_of_two_le above]
  · rw [onOffOf_of_two_le above]
    cases polarityOf a.polarity <;> rfl

theorem paceLevelOf_eq_none {w : Word} (bad : w.getLsbD 31 = true ∧ ∃ k, 24 ≤ k ∧ k ≤ 30 ∧ w.getLsbD k = true) :
    paceLevelOf w = none := by
  obtain ⟨set, k, low, high, bit⟩ := bad
  rw [paceLevelOf, if_pos set, if_neg]
  intro clear
  have zero := congrArg (BitVec.getLsbD · (k - 24)) clear
  simp only [BitVec.getLsbD_extractLsb', show 24 + (k - 24) = k by omega, bit, BitVec.getLsbD_zero] at zero
  simp at zero
  omega

theorem paceLevelsOf_eq_none {a : PaceTableArgs}
    (bad : ∃ w ∈ [a.level1, a.level2, a.level3, a.level4, a.level5, a.level6, a.level7],
      w.getLsbD 31 = true ∧ ∃ k, 24 ≤ k ∧ k ≤ 30 ∧ w.getLsbD k = true) : paceLevelsOf a = none := by
  obtain ⟨w, level, bad⟩ := bad
  have unread := paceLevelOf_eq_none bad
  unfold paceLevelsOf
  split
  · rename_i l1 l2 l3 l4 l5 l6 l7
    simp only [List.mem_cons, List.not_mem_nil, or_false] at level
    rcases level with rfl | rfl | rfl | rfl | rfl | rfl | rfl <;> simp_all
  · rfl

theorem signedHalfOf_eq_none {w : Word} (bad : w.toInt < -32768 ∨ 32767 < w.toInt) : signedHalfOf w = none :=
  if_neg (by omega)

theorem matrixOf_eq_none {a : MatrixLoadArgs}
    (bad : ∃ w ∈ [a.rr, a.rg, a.rb, a.gr, a.gg, a.gb, a.br, a.bg, a.bb, a.offR, a.offG, a.offB],
      w.toInt < -32768 ∨ 32767 < w.toInt) : matrixOf a = none := by
  obtain ⟨w, value, bad⟩ := bad
  have unread := signedHalfOf_eq_none bad
  rw [Option.eq_none_iff_forall_ne_some]
  intro m read
  simp only [matrixOf, bind, Option.bind_eq_some_iff, pure] at read
  obtain ⟨_, h1, _, h2, _, h3, _, h4, _, h5, _, h6, _, h7, _, h8, _, h9, _, h10, _, h11, _, h12, -⟩ := read
  simp only [List.mem_cons, List.not_mem_nil, or_false] at value
  rcases value with rfl | rfl | rfl | rfl | rfl | rfl | rfl | rfl | rfl | rfl | rfl | rfl <;> simp_all

theorem scratchSpanOf_eq_none {w : Word} (bad : 2 ^ 24 ≤ w.toNat) : scratchSpanOf w = none := by
  refine if_neg fun clear => ?_
  have zero := congrArg BitVec.toNat clear
  simp only [BitVec.extractLsb'_toNat, BitVec.toNat_ofNat, Nat.shiftRight_eq_div_pow] at zero
  omega

theorem scratchSpansOf_eq_none {items : List Word} (bad : ∃ w ∈ items, 2 ^ 24 ≤ w.toNat) : scratchSpansOf items = none := by
  obtain ⟨w, item, bad⟩ := bad
  have unread := scratchSpanOf_eq_none bad
  rw [scratchSpansOf]
  induction items with
  | nil => nomatch item
  | cons x items ih =>
    rw [List.mapM_cons]
    obtain rfl | item := List.mem_cons.mp item
    · rw [unread]
      rfl
    · rw [ih item]
      cases scratchSpanOf x <;> rfl

theorem reelRequestOf_eq_none {a : ReelOpenArgs}
    (bad : 8 ≤ a.presence.toNat ∨
      ∃ k, a.accessionLength.toNat ≤ k ∧ k < a.accession.length ∧ a.accession.getD k 0#8 ≠ 0#8) : reelRequestOf a = none := by
  refine if_neg ?_
  rintro ⟨whole, few, rest⟩
  obtain above | ⟨k, past, below, byte⟩ := bad
  · omega
  · rw [List.getD_eq_getElem _ _ below] at byte
    refine byte (eq_of_beq (List.all_eq_true.mp rest _ (List.mem_drop_iff_getElem.mpr ⟨k - a.accessionLength.toNat, by omega, ?_⟩)))
    simp only [Nat.add_sub_cancel' past]

/-! ## Replies of immediate commands (R154) -/

/-- LE 23: the FREE slot taken is the lowest-numbered. -/
theorem freeSlot_eq_some_iff (x : Interpreter) (i : Fin 8) :
    freeSlot x = some i ↔ x.ordinary[i] = .free ∧ ∀ j : Fin 8, j < i → x.ordinary[j] ≠ .free := by
  have free (slot : ReplySlot) : isFree slot = true ↔ slot = .free := by cases slot <;> simp [isFree]
  have numbers : slotNumbers = List.finRange 8 := rfl
  rw [freeSlot, numbers, List.find?_eq_some_iff_getElem]
  simp only [free, List.getElem_finRange, Bool.not_eq_true', ← Bool.not_eq_true]
  refine and_congr_right fun _ => ⟨?_, fun least => ⟨i.val, ?_, ?_, ?_⟩⟩
  · rintro ⟨k, below, rfl, least⟩ j before
    exact least j.val before
  · simp
  · rfl
  · exact fun j before => least ⟨j, by omega⟩ before

theorem replyImmediate_of_reserved_free {x : Interpreter} (r : Reply) (free : x.reserved = none) :
    replyImmediate r x = { x with reserved := some r, fillOrder := x.fillOrder ++ [.reserved] } := by
  rw [replyImmediate, free]
  rfl

theorem replyImmediate_of_free {x : Interpreter} {i : Fin 8} (r : Reply) (held : x.reserved ≠ none) (free : freeSlot x = some i) :
    replyImmediate r x =
      { x with ordinary := x.ordinary.set i (.filled r), fillOrder := x.fillOrder ++ [.ordinary i] } := by
  obtain ⟨reply, held⟩ := Option.ne_none_iff_exists'.mp held
  simp only [replyImmediate, held, free, fillOrdinary]

theorem replyImmediate_of_full {x : Interpreter} (r : Reply) (held : x.reserved ≠ none) (full : freeSlot x = none) :
    replyImmediate r x = { x with unanswered := satAdd x.unanswered 1 } := by
  obtain ⟨reply, held⟩ := Option.ne_none_iff_exists'.mp held
  rw [replyImmediate, held, full]

theorem arriveImmediate_of_args {code tag : Half} {args : List Byte} (s : State) (some : args ≠ []) :
    arriveImmediate code tag args s = { s with interpreter := replyImmediate ⟨code, tag, .badArg, []⟩ s.interpreter } := if_pos some

/-! ## Wrong lengths (R156) -/

/-- The codes of commands of fixed length, each with the number of its argument bytes (Table 12-9). -/
def fixedLengths : List (Half × Nat) :=
  [(0x01#16, 76), (0x02#16, 20), (0x03#16, 36), (0x04#16, 4), (0x05#16, 12), (0x06#16, 4), (0x11#16, 52),
    (0x12#16, 4), (0x13#16, 4), (0x14#16, 16), (0x15#16, 4), (0x19#16, 4), (0x20#16, 24), (0x21#16, 20),
    (0x22#16, 56), (0x23#16, 0), (0x28#16, 8), (0x29#16, 4), (0x30#16, 4)]

/-- Every command of fixed length is read by `ofLength` with the length of Table 12-9. -/
theorem commandOf_of_fixedLength {code : Half} {n : Nat} {args : List Byte} (listed : (code, n) ∈ fixedLengths)
    (other : args.length ≠ n) : commandOf code args = .wrongLength := by
  have wrong (c : Command) : ofLength n args c = .wrongLength := if_neg other
  simp only [fixedLengths, List.mem_cons, Prod.mk.injEq, List.not_mem_nil, or_false] at listed
  rcases listed with ⟨rfl, rfl⟩ | ⟨rfl, rfl⟩ | ⟨rfl, rfl⟩ | ⟨rfl, rfl⟩ | ⟨rfl, rfl⟩ | ⟨rfl, rfl⟩ | ⟨rfl, rfl⟩ | ⟨rfl, rfl⟩ | ⟨rfl, rfl⟩ |
    ⟨rfl, rfl⟩ | ⟨rfl, rfl⟩ | ⟨rfl, rfl⟩ | ⟨rfl, rfl⟩ | ⟨rfl, rfl⟩ | ⟨rfl, rfl⟩ | ⟨rfl, rfl⟩ | ⟨rfl, rfl⟩ | ⟨rfl, rfl⟩ | ⟨rfl, rfl⟩
  all_goals exact wrong _

theorem commandOf_of_wrongLength {code : Half} {args : List Byte}
    (bad : (∃ n, (code, n) ∈ fixedLengths ∧ args.length ≠ n) ∨ (code = 0x10#16 ∧ (args.length ≤ 16 ∨ args.length % 2 = 1))
      ∨ (code = 0x18#16 ∧ (args.length < 4 ∨ args.length ≠ 4 + 4 * (wordAt args 0).toNat))) :
    commandOf code args = .wrongLength := by
  obtain ⟨n, listed, other⟩ | ⟨rfl, bad⟩ | ⟨rfl, bad⟩ := bad
  · exact commandOf_of_fixedLength listed other
  · exact if_neg (by omega)
  · exact if_neg (by omega)

theorem isImmediate_of_wrongLength {code : Half} {args : List Byte} (wrong : commandOf code args = .wrongLength) :
    isImmediate code = false := by
  refine isImmediate_of_ne ?_ ?_ <;> rintro rfl <;> nomatch wrong

/-- R156: a head that the interpreter answers itself, or whose owner refuses it. -/
theorem headStarted_refused {i : Fin 8} {q : QueuedCommand} {s : State} {status : ReplyStatus} (ready : readyForCommand s i)
    (refuses : ∀ u, carryOut q.command u = (some ⟨status, []⟩, u)) :
    settleStall (headStarted i q [] s) = answeredIn i q.code q.tag status [] s := by
  obtain ⟨queue, inFlight, -⟩ := ready
  rw [headStarted_answered (refuses _), answeredIn]
  have left : ({ s.interpreter with
      queue := [], inFlight := none, ordinary := s.interpreter.ordinary.set i (.filled ⟨q.code, q.tag, status, []⟩),
      fillOrder := s.interpreter.fillOrder ++ [.ordinary i] } : Interpreter) =
        fillOrdinary i ⟨q.code, q.tag, status, []⟩ s.interpreter :=
    congrArg₂ (fun commands flight => Interpreter.mk commands flight _ _ _ _ _) queue.symm inFlight.symm
  exact congrArg (fun x => settleStall (setInterpreter x s)) left

/-- Settles O42. -/
theorem commandArrivals : Obligations.CommandArrivals := by
  refine ⟨fun s code tag args i ready abort reset fits => ?_, fun s i q rest => ⟨headStarted_rest rest s, headStarted_counters rest s⟩,
    fun s c tag readable => ⟨fun room waits => ?_, fun full => ⟨fun i free => ?_, fun none => ?_⟩⟩,
    ⟨fun s tag code i ready => ?_, fun s => ⟨fun a bad => ?_, fun a bad => ?_, fun a bad => ?_, fun items bad => ?_, fun a bad => ?_⟩⟩,
    fun s code tag args i ready fits bad => ?_,
    fun x r => ⟨freeSlot_eq_some_iff x, replyImmediate_of_reserved_free r, fun held =>
      ⟨fun i => replyImmediate_of_free r held, replyImmediate_of_full r held⟩⟩,
    fun s code tag args immediate given fits => ?_⟩
  · rw [exec_controlRun _ _ _ fits, arrivePacket_queued _ _ _ (isImmediate_of_ne abort reset), arrive_headStarted _ ready]
    rfl
  · rw [exec_rowOf c tag s readable, arriveCommand, arrive_joins _ room waits]
    rfl
  · rw [exec_rowOf c tag s readable, arriveCommand, arrive_busy _ full free]
    rfl
  · rw [exec_rowOf c tag s readable, arriveCommand, arrive_dropped _ full none]
    rfl
  · change done (arrive _ s) = _
    rw [arrive_headStarted _ ready, done, headStarted_refused ready fun _ => rfl]
  · exact refusedWith_of nofun fun x => by rw [carryOut, formatOf_eq_none bad]; rfl
  · exact refusedWith_of nofun fun x => by rw [carryOut, paceLevelsOf_eq_none bad]; rfl
  · exact refusedWith_of nofun fun x => by rw [carryOut, matrixOf_eq_none bad]; rfl
  · exact refusedWith_of nofun fun x => by rw [carryOut, scratchSpansOf_eq_none bad]; rfl
  · exact refusedWith_of nofun fun x => by rw [carryOut, reelRequestOf_eq_none bad]; rfl
  · have wrong := commandOf_of_wrongLength bad
    rw [exec_controlRun _ _ _ fits, arrivePacket_queued _ _ _ (isImmediate_of_wrongLength wrong), arrive_headStarted _ ready, done, wrong,
      headStarted_refused ready fun _ => rfl]
  · have immediate : isImmediate code = true := by obtain rfl | rfl := immediate <;> rfl
    rw [exec_controlRun _ _ _ fits, arrivePacket, if_pos immediate, arriveImmediate_of_args s given]
    rfl

end Sys2Proof.Machine
end

section
/-! O40: REEL_ABORT. -/

namespace Sys2Proof.Machine

/-! ## What is in transmission (R139) -/

theorem tailInTransmission_eq_some_iff (d : DeliveryPort) (n : Nat) :
    tailInTransmission d = some n ↔
      ∃ run k more, d.transmission = some ⟨.framePacket, run, false⟩ ∧ d.queue = .tail k :: more ∧ k.frame = n := by
  unfold tailInTransmission
  constructor
  · intro sent
    split at sent
    · rename_i t c more inFlight queue
      obtain ⟨source, run, detached⟩ := t
      split at sent
      · rename_i whole
        obtain ⟨rfl, rfl⟩ := whole
        exact ⟨run, c, more, inFlight, queue, Option.some.inj sent⟩
      · nomatch sent
    · nomatch sent
  · rintro ⟨run, k, more, inFlight, queue, rfl⟩
    simp [inFlight, queue]

theorem abortContexts_cons (tail : Option Nat) (c : FrameContext) (rest : List FrameContext) :
    abortContexts tail (c :: rest) =
      if some c.frame = tail then [c] else if c.opened then [{ c with aborted := true }] else [] := rfl

theorem abortedFrames_cons (tail : Option Nat) (c : FrameContext) (rest : List FrameContext) :
    abortedFrames tail (c :: rest) = if some c.frame = tail then rest.length else rest.length + 1 := rfl

/-- R139: the contexts that an abort leaves and the frames it counts, by what is in transmission. -/
theorem disposed_contexts {s : State} {cs : List FrameContext} {n : Nat} {sent : FrameContext → Prop}
    (sent_iff : ∀ c, sent c ↔ tailInTransmission s.delivery = some c.frame)
    (disposed : (s.contexts = [] ∧ n = 0 ∧ cs = [])
      ∨ ∃ c rest, s.contexts = c :: rest
          ∧ ((sent c ∧ n = rest.length ∧ cs = [c])
            ∨ (¬sent c ∧ n = rest.length + 1 ∧ cs = if c.opened = true then [{ c with aborted := true }] else []))) :
    abortContexts (tailInTransmission s.delivery) s.contexts = cs ∧ abortedFrames (tailInTransmission s.delivery) s.contexts = n := by
  obtain ⟨empty, rfl, rfl⟩ | ⟨c, rest, contexts, ⟨tail, rfl, rfl⟩ | ⟨tail, rfl, rfl⟩⟩ := disposed
  · rw [empty]
    exact ⟨rfl, rfl⟩
  · have head : some c.frame = tailInTransmission s.delivery := ((sent_iff c).mp tail).symm
    rw [contexts, abortContexts_cons, abortedFrames_cons, if_pos head, if_pos head]
    exact ⟨rfl, rfl⟩
  · have head : ¬some c.frame = tailInTransmission s.delivery := fun same => tail ((sent_iff c).mpr same.symm)
    rw [contexts, abortContexts_cons, abortedFrames_cons, if_neg head, if_neg head]
    exact ⟨rfl, rfl⟩

theorem exec_reelAbort_noReel {s : State} (tag : Half) (closed : s.reel.state = .noReel) :
    exec (.reelAbort tag) s =
      .next (settleStall { s with interpreter := replyImmediate ⟨0x24#16, tag, .badState, []⟩ s.interpreter }) := by
  change done (runReelAbort tag s) = _
  rw [runReelAbort, if_pos closed]
  rfl

/-- R140, R152, R154: the abort, its reply, and then the starts of the commands behind the close. -/
theorem exec_reelAbort {s : State} {r : Aborted} (tag : Half) (reelOpen : s.reel.state ≠ .noReel) (aborted : abortReel s = r) :
    exec (.reelAbort tag) s =
      done (runQueue (setInterpreter
        (replyImmediate ⟨0x24#16, tag, .ok, [word r.frames, if r.dropped then 1#32 else 0#32]⟩ r.state.interpreter) r.state)) := by
  change done (runReelAbort tag s) = _
  rw [runReelAbort, if_neg reelOpen, aborted]
  dsimp only
  rw [markWord_eq_oneIf]
  rfl

theorem abortReel_eq {s : State} {x : ReelIdentity} (identity : s.reel.identity = some x) {cs : List FrameContext} {n : Nat}
    (contexts : abortContexts (tailInTransmission s.delivery) s.contexts = cs)
    (frames : abortedFrames (tailInTransmission s.delivery) s.contexts = n) :
    ∃ u aging, (∀ r, countOf aging r = if presented s r = true then 0 else countOf s.frameMemory.aging r)
      ∧ abortReel s = ⟨n, decide (4 ≤ s.reel.tickets.length), u⟩
      ∧ u =
        { s with
          contexts := cs, delivery := { s.delivery with queue := sendingPackets s.delivery ++ abortedTails cs },
          intake := { s.intake with mode := .closed, drainTarget := none, silence := none, staging := [] },
          tracker := s.tracker.idled, pace := { s.pace with requested := 0, effective := 0, spinUp := none },
          frameMemory := { s.frameMemory with aging := aging, channel := discardTransfer s.frameMemory.channel },
          conformance := { s.conformance with mode := .idle, window := [], readRequest := none }, repair := s.repair.abort,
          grading := s.grading.abort, interpreter := answerHead ⟨.aborted, []⟩ s.interpreter,
          reel :=
            let record := recordAtEnd s { s.reel.record with framesAborted := satAdd s.reel.record.framesAborted n }
            { s.reel with
              state := .noReel, held := none, record := record, lastMetrics := some (metricsOf record),
              tickets := if 4 ≤ s.reel.tickets.length then s.reel.tickets else s.reel.tickets ++ [ticketOfAbort s x record] },
          notices := if 4 ≤ s.reel.tickets.length then s.notices
            else setNotice s.notices .ticketReady (occur s.notices.ticketReady) } := by
  obtain ⟨aging, aged, aborted⟩ := abortRecord_abortBlocks identity cs (sendingPackets s.delivery ++ abortedTails cs)
    { s.reel.record with framesAborted := satAdd s.reel.record.framesAborted n }
  subst contexts frames
  exact ⟨_, aging, aged, congrArg (fun r : State × Bool => Aborted.mk _ r.2 r.1) aborted, rfl⟩

/-! ## An abort and the interpreter's block -/

theorem abortRecord_setInterpreter (y : Interpreter) (s : State) :
    abortRecord (setInterpreter y s) = (setInterpreter y (abortRecord s).1, (abortRecord s).2) := by
  cases identity : s.reel.identity with
  | none => simp only [abortRecord, setInterpreter_reel, identity]; rfl
  | some x =>
    rw [abortRecord_of_identity identity, abortRecord_of_identity (s := setInterpreter y s) identity]
    rfl

theorem abortReel_setInterpreter (y : Interpreter) (s : State) :
    abortReel (setInterpreter y s) =
      { abortReel s with state := setInterpreter (answerHead ⟨.aborted, []⟩ y) (abortReel s).state } := by
  have blocks (v : State) : abortBlocks (setInterpreter y v) = setInterpreter (answerHead ⟨.aborted, []⟩ y) (abortBlocks v) := rfl
  have record := abortRecord_setInterpreter (answerHead ⟨.aborted, []⟩ y) (abortBlocks (disposePlain (countAborted
    (abortedFrames (tailInTransmission s.delivery) s.contexts) s)))
  rw [← blocks] at record
  exact congrArg (fun r : State × Bool => Aborted.mk _ r.2 r.1) record

theorem replyImmediate_setQueue (r : Reply) (l : List QueuedCommand) (x : Interpreter) :
    replyImmediate r { x with queue := l } = { replyImmediate r x with queue := l } := by
  by_cases reserved : x.reserved = none
  · rw [replyImmediate_of_reserved_free r reserved, replyImmediate_of_reserved_free (x := { x with queue := l }) r reserved]
  · cases slot : freeSlot x with
    | some i => rw [replyImmediate_of_free r reserved slot, replyImmediate_of_free (x := { x with queue := l }) r reserved slot]
    | none => rw [replyImmediate_of_full r reserved slot, replyImmediate_of_full (x := { x with queue := l }) r reserved slot]

/-! ## Heads that start and the stall timer -/

/-- A state with another count of the stall timer. -/
def withStall (k : Option Nat) (s : State) : State := { s with delivery := { s.delivery with stall := k } }

theorem packetWaiting_withStall (k : Option Nat) (s : State) : packetWaiting (withStall k s) = packetWaiting s := rfl

theorem headStarted_withStall (i : Fin 8) (q : QueuedCommand) (rest : List QueuedCommand) (k : Option Nat) (s : State) :
    headStarted i q rest (withStall k s) = withStall k (headStarted i q rest s) := by
  by_cases query : q.command = .statusQuery 9#32
  · rw [headStarted_counters rest _ query, headStarted_counters rest _ query]
    rfl
  · set claimed : Interpreter :=
      { s.interpreter with queue := q :: rest, inFlight := some i, ordinary := s.interpreter.ordinary.set i .claimed }
    have interpreter := carryOut_interpreter q.command { s with interpreter := claimed }
    have stalled := carryOut_refit query claimed k { s with interpreter := claimed }
    rcases carried : carryOut q.command { s with interpreter := claimed } with ⟨answer, t⟩
    rw [carried] at interpreter stalled
    cases answer with
    | some a =>
      rw [headStarted_answered carried, headStarted_answered (s := withStall k s) stalled]
      rfl
    | none =>
      rw [headStarted_unanswered carried, headStarted_unanswered (s := withStall k s) stalled]
      change refit claimed k t = withStall k t
      rw [show claimed = t.interpreter from interpreter.symm]
      rfl

theorem runCommands_withStall (n : Nat) (k : Option Nat) (s : State) :
    runCommands n (withStall k s) = withStall k (runCommands n s) := by
  induction n generalizing s with
  | zero => rfl
  | succ n ih =>
    have same : (withStall k s).interpreter = s.interpreter := rfl
    rw [runCommands, runCommands, same]
    split
    · rename_i i q rest _ queue
      rw [runHead_headStarted i q rest _ queue, runHead_headStarted i q rest (withStall k s) queue, headStarted_withStall, ih]
    · rfl

theorem runQueue_withStall (k : Option Nat) (s : State) : runQueue (withStall k s) = withStall k (runQueue s) :=
  runCommands_withStall _ k s

theorem runQueue_delivery (s : State) : (runQueue s).delivery = s.delivery :=
  runQueue_keeps (P := fun t => t.delivery = s.delivery) (fun _ _ h => h) (fun c t h => (carryOut_delivery c t).trans h) s rfl

/-- R15: a stall timer that stands already is settled alike before and after the heads start. -/
theorem settleStall_runQueue_settled {s u : State} (waits : packetWaiting s = true) (delivery : u.delivery = s.delivery) :
    settleStall (runQueue (withStall (settleStall s).delivery.stall u)) = settleStall (runQueue u) := by
  have kept : (runQueue u).delivery = s.delivery := (runQueue_delivery u).trans delivery
  rw [runQueue_withStall, settleStall_eq (withStall _ _), settleStall_eq (runQueue u), settleStall_eq s, packetWaiting_withStall]
  by_cases empty : s.delivery.pool = 0
  · simp only [withStall, kept, empty, waits, and_self, if_true, Option.getD_some]
  · simp only [withStall, kept, empty, false_and, if_false]

/-! ## REEL_ABORT -/

theorem answerHead_aborted {x y : Interpreter}
    (answered : (x.inFlight = none ∧ y = x)
      ∨ ∃ q rest j, x.queue = q :: rest ∧ x.inFlight = some j
          ∧ y =
              { x with
                queue := rest, inFlight := none, ordinary := x.ordinary.set j (.filled ⟨q.code, q.tag, .aborted, []⟩),
                fillOrder := x.fillOrder ++ [.ordinary j] }) : answerHead ⟨.aborted, []⟩ x = y := by
  obtain ⟨idle, rfl⟩ | ⟨q, rest, j, head, held, rfl⟩ := answered
  · exact answerHead_of_idle _ idle
  · exact answerHead_of_inFlight _ head held

theorem discardTransfer_eq (z : Option Transfer) :
    discardTransfer z = (match z with
      | some (.conformanceRead l a k _) => some (.conformanceRead l a k true)
      | some (.referenceRead a k _) => some (.referenceRead a k true)
      | some (.referenceWrite a z _) => some (.referenceWrite a z true)
      | z => z) := by
  cases z with
  | none => rfl
  | some transfer => cases transfer <;> rfl

theorem packetWaiting_of_fillOrder {s : State} (filled : s.interpreter.fillOrder ≠ []) : packetWaiting s = true :=
  (packetWaiting_iff s).mpr (.inl filled)

theorem replyImmediate_fillOrder {x : Interpreter} (r : Reply) (filled : x.fillOrder ≠ []) : (replyImmediate r x).fillOrder ≠ [] := by
  unfold replyImmediate
  split <;> simp [fillReserved, fillOrdinary, filled]

theorem arrive_of_empty {s : State} (q : QueuedCommand) (empty : s.interpreter.queue = []) :
    arrive q s = runQueue (setInterpreter { s.interpreter with queue := [q] } s) := by
  rw [arrive, empty]
  rfl

/-- R153, R154: one command behind the close starts after the abort as it would on arrival. -/
theorem exec_reelAbort_then {s : State} {tag tag' : Half} {q : QueuedCommand} {j : Fin 8} {c : Command}
    (reelOpen : s.reel.state ≠ .noReel) (inFlight : s.interpreter.inFlight = some j) (readable : c ≠ .wrongLength)
    (queue : s.interpreter.queue = [q, ⟨codeOf c, tag', c⟩]) :
    ∃ w, exec (.reelAbort tag) { s with interpreter := { s.interpreter with queue := [q] } } = .next w
      ∧ w.interpreter.queue = [] ∧ exec (.reelAbort tag) s = exec (rowOf tag' c) w := by
  set alone : Interpreter := { s.interpreter with queue := [q] }
  set behind : QueuedCommand := ⟨codeOf c, tag', c⟩
  set base := (abortReel s).state with baseDef
  set reply : Reply := ⟨0x24#16, tag, .ok, [word (abortReel s).frames, if (abortReel s).dropped then 1#32 else 0#32]⟩
  set answered := answerHead ⟨.aborted, []⟩ alone with answeredDef
  have answeredAlone : answered =
      { s.interpreter with
        queue := [], inFlight := none, ordinary := s.interpreter.ordinary.set j (.filled ⟨q.code, q.tag, .aborted, []⟩),
        fillOrder := s.interpreter.fillOrder ++ [.ordinary j] } := answerHead_of_inFlight (x := alone) _ rfl inFlight
  have answeredBoth : base.interpreter = { answered with queue := [behind] } := by
    rw [answeredAlone]
    have whole := congrArg (fun r => r.state.interpreter) (abortReel_setInterpreter s.interpreter s)
    exact whole.trans (answerHead_of_inFlight _ queue inFlight)
  set aborted := setInterpreter (replyImmediate reply answered) base with abortedDef
  have empty : aborted.interpreter.queue = [] := by
    rw [abortedDef, setInterpreter_interpreter, replyImmediate_queue, answeredAlone]
  have waits : packetWaiting aborted = true :=
    packetWaiting_of_fillOrder (replyImmediate_fillOrder _ (by rw [answeredAlone]; simp))
  have first : exec (.reelAbort tag) (setInterpreter alone s) = .next (settleStall aborted) := by
    rw [exec_reelAbort (s := setInterpreter alone s) tag reelOpen (abortReel_setInterpreter alone s)]
    exact congrArg done (runQueue_empty aborted empty)
  have both : exec (.reelAbort tag) s = done (runQueue (setInterpreter { aborted.interpreter with queue := [behind] } aborted)) := by
    rw [exec_reelAbort tag reelOpen rfl, answeredBoth, replyImmediate_setQueue]
    rfl
  refine ⟨settleStall aborted, first, by rw [settleStall_interpreter, empty], ?_⟩
  rw [both, exec_rowOf c tag' _ readable, arriveCommand, arrive_of_empty behind (by rw [settleStall_interpreter, empty]),
    settleStall_interpreter, settleStall_changes aborted]
  exact congrArg Host.Outcome.next (settleStall_runQueue_settled
    (u := setInterpreter { aborted.interpreter with queue := [behind] } aborted) waits rfl).symm

/-- Settles O40. -/
theorem reelAbortCarriedOut : Obligations.ReelAbortCarriedOut := by
  refine ⟨fun s tag => ⟨exec_reelAbort_noReel tag, fun x y n cs reelOpen identity answered disposed => ?_⟩,
    fun s x tag tag' q j c reelOpen _ inFlight readable queue => exec_reelAbort_then reelOpen inFlight readable queue⟩
  obtain ⟨contexts, frames⟩ := disposed_contexts (fun c => (tailInTransmission_eq_some_iff _ _).symm) disposed
  obtain ⟨u, aging, aged, aborted, rfl⟩ := abortReel_eq identity contexts frames
  rw [answerHead_aborted answered] at aborted
  intro record ticket dropped replied
  have runs := exec_reelAbort tag reelOpen aborted
  simp only [decide_eq_true_eq] at runs
  refine ⟨setInterpreter replied _, _, runQueue_starts _, runs, fun stopped => headsStart_stopped (runQueue_starts _) ?_, rfl, rfl, ?_, rfl,
    rfl, rfl, rfl, rfl, rfl, ?_, aged, rfl, rfl, rfl, releaseSets_sets s.grading, rfl, rfl⟩
  · obtain empty | full := stopped
    · exact .inl ((replyImmediate_queue _ y).trans empty)
    · exact .inr (.inr full)
  · rw [← sendingPackets_eq]
    rfl
  · exact congrArg (fun z => { s.frameMemory with aging := aging, channel := z }) (discardTransfer_eq _)

end Sys2Proof.Machine
end

section
/-! O58, O57: the Delivery Port's choice, and the placing of packets. -/

namespace Sys2Proof.Machine

/-! ## DELIVERY_CHOICE (R13, R161) -/

theorem exec_deliveryChoice_idle {s : State} (idle : s.delivery.transmission ≠ none ∨ s.delivery.pool = 0) :
    exec .deliveryChoice s = .next (settleStall s) := by
  refine if_neg ?_
  obtain busy | empty := idle
  · simp [canChoose, busy]
  · simp [canChoose, empty]

theorem canChoose_of {s : State} (free : s.delivery.transmission = none) (credit : 0 < s.delivery.pool) : canChoose s = true := by
  simp [canChoose, free, credit]

/-- R13: a packet that is chosen takes a credit and begins transmission. -/
theorem exec_deliveryChoice {s : State} {x : Source} {run : List Byte} (free : s.delivery.transmission = none)
    (credit : 0 < s.delivery.pool) (chosen : chosenPacket s = some (x, run)) :
    exec .deliveryChoice s = .next (settleStall (beginTransmission x run s)) := by
  refine (if_pos (canChoose_of free credit)).trans ?_
  rw [chosen]
  rfl

theorem exec_deliveryChoice_nothing {s : State} (free : s.delivery.transmission = none) (credit : 0 < s.delivery.pool)
    (chosen : chosenPacket s = none) : exec .deliveryChoice s = .next (settleStall s) := by
  refine (if_pos (canChoose_of free credit)).trans ?_
  rw [chosen]
  rfl

theorem beginTransmission_other {x : Source} (run : List Byte) (s : State) (other : x ≠ .framePacket) :
    beginTransmission x run s =
      { s with delivery := { s.delivery with pool := s.delivery.pool - 1, transmission := some ⟨x, run, false⟩ } } := by
  simp only [beginTransmission, if_neg other]
  rfl

theorem classNumber_injective {c d : NoticeClass} (same : classNumber c = classNumber d) : c = d := by
  revert same
  cases c <;> cases d <;> simp [classNumber]

theorem noticeClasses_rise : noticeClasses.Pairwise (fun c d => classNumber c < classNumber d) := by decide

/-- R161: the lowest-numbered PENDING class goes first. -/
theorem firstPending_eq_some {u : NoticeUnit} {c : NoticeClass} (pending : ∃ k, (noticeOf u c).latch = .pending k)
    (lowest : ∀ d m, (noticeOf u d).latch = .pending m → classNumber c ≤ classNumber d) : firstPending u = some c := by
  obtain ⟨d, found⟩ := Option.isSome_iff_exists.mp ((firstPending_isSome_iff u).mpr ⟨c, pending⟩)
  obtain ⟨waits, before, after, classes, passed⟩ := List.find?_eq_some_iff_append.mp found
  obtain ⟨m, waits⟩ := (isPending_iff _).mp waits
  have rise := noticeClasses_rise
  have listed := mem_noticeClasses c
  rw [classes] at rise listed
  rw [found]
  obtain earlier | same | later := (List.mem_append.mp listed).imp_right List.mem_cons.mp
  · have quiet := passed c earlier
    rw [(isPending_iff _).mpr pending] at quiet
    nomatch quiet
  · rw [same]
  · have above := List.rel_of_pairwise_cons (List.pairwise_append.mp rise).2.1 later
    have := lowest d m waits
    omega

theorem firstPending_eq_none {u : NoticeUnit} (quiet : ∀ d m, (noticeOf u d).latch ≠ .pending m) : firstPending u = none := by
  rw [← Option.not_isSome_iff_eq_none, firstPending_isSome_iff]
  rintro ⟨c, k, pending⟩
  exact quiet c k pending

section
variable {s : State}

theorem chosenPacket_reply {x : SlotName} {rest : List SlotName} {r : Reply} (first : s.interpreter.fillOrder = x :: rest)
    (held : slotReply s.interpreter x = some r) : chosenPacket s = some (.reply, replyRun r) := by
  rw [chosenPacket, first]
  exact congrArg (Option.map fun r => (Source.reply, replyRun r)) held

theorem chosenPacket_notice {c : NoticeClass} {k : Nat} (replies : s.interpreter.fillOrder = [])
    (first : firstPending s.notices = some c) (pending : (noticeOf s.notices c).latch = .pending k) :
    chosenPacket s = some (.notice c, noticeRun c k) := by
  simp only [chosenPacket, replies, first, carriedCount, pending]

theorem chosenPacket_ticket {t : Ticket} {rest : List Ticket} (replies : s.interpreter.fillOrder = [])
    (notices : firstPending s.notices = none) (first : s.reel.tickets = t :: rest) :
    chosenPacket s = some (.ticket, ticketRun t) := by
  rw [chosenPacket, replies, notices, first]

theorem chosenPacket_framePacket {p : FramePacket} {rest : List FramePacket} (replies : s.interpreter.fillOrder = [])
    (notices : firstPending s.notices = none) (tickets : s.reel.tickets = []) (first : s.delivery.queue = p :: rest) :
    chosenPacket s = some (.framePacket, framePacketRun p) := by
  rw [chosenPacket, replies, notices, tickets, first]

theorem chosenPacket_none (replies : s.interpreter.fillOrder = []) (notices : firstPending s.notices = none)
    (tickets : s.reel.tickets = []) (packets : s.delivery.queue = []) : chosenPacket s = none := by
  rw [chosenPacket, replies, notices, tickets, packets]

theorem slotReply_eq_some {x : SlotName} {r : Reply}
    (held : x = .reserved ∧ s.interpreter.reserved = some r ∨ ∃ i, x = .ordinary i ∧ s.interpreter.ordinary[i] = .filled r) :
    slotReply s.interpreter x = some r := by
  obtain ⟨rfl, held⟩ | ⟨i, rfl, held⟩ := held
  · exact held
  · simp only [slotReply, held]

/-- R13, R139: a frame packet that begins transmission stays at the head of its queue; a FRAME_HEAD opens its frame. -/
theorem beginTransmission_head {c : FrameContext} {rest : List FramePacket} (run : List Byte) (queue : s.delivery.queue = .head c :: rest) :
    beginTransmission .framePacket run s =
      { s with
        delivery := { s.delivery with pool := s.delivery.pool - 1, transmission := some ⟨.framePacket, run, false⟩ },
        contexts := changeContext c.frame (fun x => { x with opened := true }) s.contexts } := by
  have marked : markOpened s = writeContext c.frame (fun x => { x with opened := true }) s := by rw [markOpened, queue]
  simp only [beginTransmission, if_true, marked]
  rfl

theorem beginTransmission_packet (run : List Byte) (other : ∀ c rest, s.delivery.queue ≠ .head c :: rest) :
    beginTransmission .framePacket run s =
      { s with delivery := { s.delivery with pool := s.delivery.pool - 1, transmission := some ⟨.framePacket, run, false⟩ } } := by
  have marked : markOpened s = s := by
    unfold markOpened
    split
    · rename_i c rest queue
      exact absurd queue (other c rest)
    · rfl
  simp only [beginTransmission, if_true, marked]
  rfl

end

/-- Settles O58. -/
theorem deliveryChooses : Obligations.DeliveryChooses := by
  intro s send
  refine ⟨exec_deliveryChoice_idle, fun free credit => ⟨fun x rest r first held => ?_, fun replies => ⟨fun c k pending lowest => ?_,
    fun quiet => ⟨fun k rest first => ?_, fun tickets => ⟨fun c rest first => ?_, fun frame j px rest first => ?_,
      fun c rest first => ?_, fun packets => ?_⟩⟩⟩⟩⟩
  · rw [exec_deliveryChoice free credit (chosenPacket_reply first (slotReply_eq_some held)), beginTransmission_other (x := .reply) _ _ nofun]
    rfl
  · rw [exec_deliveryChoice free credit (chosenPacket_notice replies (firstPending_eq_some ⟨k, pending⟩ lowest) pending),
      beginTransmission_other (x := .notice c) _ _ nofun]
    rfl
  · rw [exec_deliveryChoice free credit (chosenPacket_ticket replies (firstPending_eq_none quiet) first),
      beginTransmission_other (x := .ticket) _ _ nofun]
    rfl
  · rw [exec_deliveryChoice free credit (chosenPacket_framePacket replies (firstPending_eq_none quiet) tickets first),
      beginTransmission_head _ first]
    rfl
  · rw [exec_deliveryChoice free credit (chosenPacket_framePacket replies (firstPending_eq_none quiet) tickets first),
      beginTransmission_packet _ (by simp [first])]
    rfl
  · rw [exec_deliveryChoice free credit (chosenPacket_framePacket replies (firstPending_eq_none quiet) tickets first),
      beginTransmission_packet _ (by simp [first])]
    rfl
  · exact exec_deliveryChoice_nothing free credit (chosenPacket_none replies (firstPending_eq_none quiet) tickets packets)

/-! ## PLACE_PACKET (R124, R128, R131) -/

theorem exec_placePacket {s : State} {hand : GradedHand} {o : Owed} {rest : List Owed} {c : FrameContext}
    (mode : s.grading.mode = .placing hand) (owed : hand.owed = o :: rest) (context : contextOf s hand.frame = some c) :
    exec .placePacket s =
      if s.delivery.queue.length < 8 then done (placeOwed hand o rest c s) else done s := by
  change execPlacePacket s = _
  unfold execPlacePacket
  rw [mode]
  dsimp only
  rw [owed, context]

theorem advanceDissolve_frame (g : Grading) :
    advanceDissolve g =
      { g with
        sets := (advanceDissolve g).sets, current := (advanceDissolve g).current, dissolve := (advanceDissolve g).dissolve } := by
  unfold advanceDissolve
  split
  · rfl
  · split <;> rfl

theorem advanceDissolve_of_none {g : Grading} (still : g.dissolve = none) : advanceDissolve g = g := by
  rw [advanceDissolve, still]

theorem advanceDissolve_of_more {g : Grading} {x : Dissolve} (running : g.dissolve = some x) (more : x.k + 1 ≠ x.d) :
    advanceDissolve g = { g with dissolve := some { x with k := x.k + 1 } } := by
  simp only [advanceDissolve, running, if_neg more]

theorem advanceDissolve_of_last {g : Grading} {x : Dissolve} (running : g.dissolve = some x) (last : x.k + 1 = x.d) :
    advanceDissolve g = settleSets { g with current := some x.target, dissolve := none } := by
  simp only [advanceDissolve, running, if_pos last]

/-- R124, R128: the Grading Engine's block after a packet is placed. -/
theorem placeOwed_grading (hand : GradedHand) (o : Owed) (rest : List Owed) (c : FrameContext) (s : State) :
    (placeOwed hand o rest c s).grading = afterPlacing hand rest (if o = .tail then advanceDissolve s.grading else s.grading) := rfl

/-- Settles O57. -/
theorem packetPlaced : Obligations.PacketPlaced := by
  intro s hand o rest c mode owed context
  have runs := exec_placePacket mode owed context
  refine ⟨fun full => runs.trans (if_neg (by omega)), fun room => ⟨_, runs.trans (if_pos room), ?_⟩⟩
  simp only [settleStall_pending, settleStall_formats, settleStall_intake, settleStall_tracker, settleStall_contexts, settleStall_pace,
    settleStall_frameMemory, settleStall_conformance, settleStall_repair, settleStall_grading, settleStall_reel,
    settleStall_interpreter, settleStall_notices]
  refine ⟨?_, ?_, fun unmoved => ?_, fun x tail running => ⟨fun more => ?_, fun last => ?_⟩, rfl, rfl, rfl, rfl, rfl, rfl, rfl, rfl, rfl,
    rfl, rfl, rfl⟩
  · rw [settleStall_changes]
    cases o <;> rfl
  all_goals rw [placeOwed_grading]
  · split
    · rw [advanceDissolve_frame]
      rfl
    · rfl
  · have kept : (if o = .tail then advanceDissolve s.grading else s.grading) = s.grading := by
      split
      · rename_i tail
        exact advanceDissolve_of_none (unmoved.resolve_left (not_not.mpr tail))
      · rfl
    rw [kept]
    exact ⟨rfl, rfl, rfl⟩
  · rw [if_pos tail, advanceDissolve_of_more running more]
    exact ⟨rfl, rfl, rfl⟩
  · rw [if_pos tail, advanceDissolve_of_last running last]
    exact ⟨rfl, rfl, fun k => settleSets_follow { s.grading with current := some x.target, dissolve := none } k⟩

end Sys2Proof.Machine
end

section
/-! O59, O60: the completion of a transmission, and the classification of a reel. -/

namespace Sys2Proof.Machine

/-! ## TRANSMISSION_COMPLETE (R13, R16) -/

/-- The state with the link free again. -/
def linkFreed (s : State) : State := { s with delivery := { s.delivery with transmission := none } }

section
variable {s : State} {x : Source} {run : List Byte}

theorem exec_transmissionComplete_detached (sending : s.delivery.transmission = some ⟨x, run, true⟩) :
    exec .transmissionComplete s = done (completeDetached x (linkFreed s)) := by
  change execTransmissionComplete s = _
  unfold execTransmissionComplete
  rw [sending]
  rfl

theorem exec_transmissionComplete (sending : s.delivery.transmission = some ⟨x, run, false⟩) :
    exec .transmissionComplete s = done (completeSource x (linkFreed s)) := by
  change execTransmissionComplete s = _
  unfold execTransmissionComplete
  rw [sending]
  rfl

end

theorem completeDetached_eq (x : Source) (s : State) :
    completeDetached x s =
      if x = .framePacket then { s with delivery := { s.delivery with queue := s.delivery.queue.tail } } else s := by
  cases x <;> rfl

theorem raiseLatch_eq (n : NoticeState) :
    raiseLatch n = (match n.latch with
      | .pending _ => { n with latch := .raised }
      | _ => n) := by
  unfold raiseLatch isPending
  cases n.latch <;> rfl

theorem freeReply_eq (x : Interpreter) :
    freeReply x = (match x.fillOrder with
      | [] => x
      | .reserved :: rest => { x with reserved := none, fillOrder := rest }
      | .ordinary i :: rest => { x with ordinary := x.ordinary.set i .free, fillOrder := rest }) := rfl

theorem freeReply_queue (x : Interpreter) : (freeReply x).queue = x.queue ∧ (freeReply x).inFlight = x.inFlight := by
  unfold freeReply
  split <;> exact ⟨rfl, rfl⟩

theorem departTicket_of_other {s : State} (other : s.reel.state ≠ .ticketWait) :
    departTicket s = { s with reel := { s.reel with tickets := s.reel.tickets.tail } } := by
  unfold departTicket
  dsimp only
  split
  · rename_i waits _
    exact absurd waits other
  · rfl

/-- R138: a ticket with room joins the queue, and its close is answered. -/
theorem completeClose_eq (k : Ticket) (s : State) :
    completeClose k s =
      { s with
        reel := { s.reel with state := .noReel, held := none, tickets := s.reel.tickets ++ [k] },
        notices := setNotice s.notices .ticketReady (occur s.notices.ticketReady),
        pace := { s.pace with effective := 0, spinUp := none },
        interpreter := answerHead ⟨.ok, [word k.reelSequence.toNat, word k.cls]⟩ s.interpreter } :=
  formEffective_noReel _ rfl

theorem departTicket_of_held {s : State} {k : Ticket} (waits : s.reel.state = .ticketWait) (held : s.reel.held = some k) :
    departTicket s = completeClose k { s with reel := { s.reel with tickets := s.reel.tickets.tail } } := by
  simp only [departTicket, waits, held]

/-- Where no head can start, none does. -/
theorem runQueue_stopped {s : State}
    (stopped : s.interpreter.queue = [] ∨ s.interpreter.inFlight ≠ none ∨ freeSlot s.interpreter = none) : runQueue s = s :=
  headsStart_stopped (runQueue_starts s) stopped

/-! ### Frame packets (R142) -/

theorem completeFramePacket_other {s : State} {p : FramePacket} {rest : List FramePacket} (queue : s.delivery.queue = p :: rest)
    (other : ∀ c, p ≠ .tail c) : completeFramePacket s = { s with delivery := { s.delivery with queue := rest } } := by
  rw [completeFramePacket, queue]
  cases p with
  | tail c => exact absurd rfl (other c)
  | head c => rfl
  | lineOut frame j px => rfl

theorem completeFramePacket_tail {s : State} {c : FrameContext} {rest : List FramePacket} (queue : s.delivery.queue = .tail c :: rest) :
    completeFramePacket s = retireContext { s with delivery := { s.delivery with queue := rest } } := by
  rw [completeFramePacket, queue]
  rfl

theorem retireContext_cons {s : State} {c : FrameContext} {others : List FrameContext} (contexts : s.contexts = c :: others) :
    retireContext s =
      if c.aborted then { s with contexts := others }
      else { s with contexts := others, reel := { s.reel with record := addFrame (rasterOf s) c s.reel.record } } := by
  rw [retireContext, contexts]

theorem minWith_eq (x : Option Nat) (n : Nat) :
    minWith x n = some (match x with
      | some m => if m < n then m else n
      | none => n) := by
  cases x with
  | none => rfl
  | some m =>
    refine congrArg some ?_
    simp only
    split <;> omega

theorem maxWith_eq (x : Option Nat) (n : Nat) :
    maxWith x n = some (match x with
      | some m => if n < m then m else n
      | none => n) := by
  cases x with
  | none => rfl
  | some m =>
    refine congrArg some ?_
    simp only
    split <;> omega

theorem addFrame_eq (w h : Nat) (c : FrameContext) (r : ReelRecord) :
    addFrame (w, h) c r =
      { r with
        framesDelivered := satAdd r.framesDelivered 1,
        framesIncomplete := satAdd r.framesIncomplete (if c.incomplete then 1 else 0),
        substitutedLines := satAdd r.substitutedLines c.substituted, sumS := r.sumS + c.appliedS,
        minS := some (match r.minS with
          | some m => if m < c.appliedS then m else c.appliedS
          | none => c.appliedS),
        maxS := some (match r.maxS with
          | some m => if c.appliedS < m then m else c.appliedS
          | none => c.appliedS),
        temporal := r.temporal + c.temporal, spatial := r.spatial + c.spatial, scratchPixels := r.scratchPixels + c.scratchPixels,
        unrepaired := r.unrepaired + c.unrepaired, clipped := r.clipped + c.clipped,
        pixelsDelivered := r.pixelsDelivered + w * h, sumMeanR := r.sumMeanR + c.meanR, sumMeanB := r.sumMeanB + c.meanB } := by
  have incomplete : c.incomplete.toNat = if c.incomplete then 1 else 0 := by cases c.incomplete <;> rfl
  rw [addFrame, minWith_eq, maxWith_eq, incomplete]

/-- Settles O59. -/
theorem transmissionCompletes : Obligations.TransmissionCompletes := by
  intro s x run detached sending free freed
  have freedReply : freeReply s.interpreter = freed := freeReply_eq _
  obtain ⟨freedQueue, freedFlight⟩ := freeReply_queue s.interpreter
  rw [freedReply] at freedQueue freedFlight
  refine ⟨?_, ?_⟩
  · rintro rfl
    rw [exec_transmissionComplete_detached sending, completeDetached_eq]
    rfl
  rintro rfl
  have runs := exec_transmissionComplete sending
  have replied : x = .reply → exec .transmissionComplete s = done (runQueue { free with interpreter := freed }) := by
    rintro rfl
    rw [runs, ← freedReply]
    rfl
  refine ⟨?_, fun reply => ⟨fun stopped => ?_, fun c tag readable queue idle => ?_⟩, fun reply => ⟨_, runQueue_starts _, replied reply⟩, ?_, ?_, ?_⟩
  · rintro c rfl
    rw [runs, completeSource, raiseLatch_eq]
    rfl
  · rw [replied reply, runQueue_stopped]
    · rfl
    · exact (stopped.imp freedQueue.trans (fun busy => by rwa [← freedFlight] at busy)).imp_right .inl
  · rw [replied reply, exec_rowOf c tag _ readable, arriveCommand, arrive_of_empty _ rfl]
    exact congrArg (fun l => done (runQueue { free with interpreter := { freed with queue := l } })) (freedQueue.trans queue)
  · rintro rfl other departed
    have left : exec .transmissionComplete s = done (runQueue departed) := by
      rw [runs, completeSource, departTicket_of_other (s := linkFreed s) other]
      rfl
    refine ⟨fun stopped => ?_, _, runQueue_starts _, left⟩
    rw [left, runQueue_stopped (s := departed) stopped]
    rfl
  · rintro k q rest j rfl waits held queue inFlight closed
    have left : exec .transmissionComplete s = done (runQueue closed) := by
      rw [runs, completeSource, departTicket_of_held (s := linkFreed s) waits held, completeClose_eq]
      exact congrArg (fun y => done (runQueue { closed with interpreter := y }))
        (answerHead_of_inFlight (x := s.interpreter) _ queue inFlight)
    refine ⟨fun empty => ?_, _, runQueue_starts _, left⟩
    rw [left, runQueue_empty closed empty]
    rfl
  · rintro rfl
    refine ⟨fun p rest queue other => ?_, fun k rest c others queue contexts => ?_⟩
    · rw [runs, completeSource, completeFramePacket_other (s := linkFreed s) queue other]
      rfl
    · have left : exec .transmissionComplete s =
          done (retireContext { free with delivery := { free.delivery with queue := rest } }) := by
        rw [runs, completeSource, completeFramePacket_tail (s := linkFreed s) queue]
        rfl
      rw [left, retireContext_cons (s := { free with delivery := { free.delivery with queue := rest } }) contexts]
      refine ⟨fun aborted => by rw [if_pos aborted]; rfl, fun w h standing raster => ?_⟩
      have pixels : rasterOf s = (w, h) := by rw [rasterOf, raster]; rfl
      rw [if_neg (by rw [standing]; exact Bool.false_ne_true)]
      have added : addFrame (rasterOf s) c s.reel.record = _ := (congrArg (addFrame · c s.reel.record) pixels).trans (addFrame_eq w h c _)
      exact congrArg (fun record => done
        { free with
          delivery := { free.delivery with queue := rest }, contexts := others, reel := { s.reel with record := record } }) added

/-! ## CLASSIFICATION (R137, R138, R147, R148) -/

theorem closeReady_iff (s : State) :
    closeReady s = true ↔ s.reel.state = .closing ∧ s.intake.mode = .closed ∧ s.contexts = [] ∧ s.repair.mode = .waiting := by
  simp [closeReady, and_assoc]

theorem exec_classification_waits {s : State}
    (waits : ¬(s.reel.state = .closing ∧ s.intake.mode = .closed ∧ s.contexts = [] ∧ s.repair.mode = .waiting)) :
    exec .classification s = .next (settleStall s) := by
  change execClassification s = _
  unfold execClassification
  split
  · rename_i ready _
    exact absurd ((closeReady_iff s).mp ready) waits
  · rfl

theorem exec_classification {s : State} {x : ReelIdentity} (identity : s.reel.identity = some x)
    (ready : s.reel.state = .closing ∧ s.intake.mode = .closed ∧ s.contexts = [] ∧ s.repair.mode = .waiting) :
    exec .classification s = done (runQueue (classify x s)) := by
  change execClassification s = _
  unfold execClassification
  rw [(closeReady_iff s).mpr ready, identity]

/-! ### The matched rows and the class (R147) -/

theorem rowHolds_iff (m : List Nat) (row : ShelvingRow) :
    rowHolds m row = true ↔ (match row.comparison with
      | .atLeast => row.threshold ≤ m.getD (row.metric - 1) 0
      | .atMost => m.getD (row.metric - 1) 0 ≤ row.threshold) := by
  unfold rowHolds
  cases row.comparison <;> exact decide_eq_true_iff

theorem mem_matchedRows_iff (m : List Nat) (table : Vector (Option ShelvingRow) 16) (i : Nat) (row : ShelvingRow) :
    (i, row) ∈ matchedRows m table ↔ ∃ h : i < 16, table[i] = some row ∧ rowHolds m row = true := by
  unfold matchedRows
  rw [List.mem_filterMap]
  constructor
  · rintro ⟨k, below, matched⟩
    have below := List.mem_range.mp below
    split at matched
    · rename_i row' read
      split at matched
      · rename_i holds
        cases matched
        refine ⟨below, ?_, holds⟩
        simpa [Vector.getElem?_eq_getElem below] using read
      · nomatch matched
    · nomatch matched
  · rintro ⟨below, read, holds⟩
    refine ⟨i, List.mem_range.mpr below, ?_⟩
    simp [Vector.getElem?_eq_getElem below, read, holds]

theorem matchedRows_rise (m : List Nat) (table : Vector (Option ShelvingRow) 16) :
    (matchedRows m table).Pairwise (fun a b => a.1 < b.1) := by
  unfold matchedRows
  rw [List.pairwise_filterMap]
  refine List.pairwise_lt_range.imp ?_
  have number (i : Nat) (a : Nat × ShelvingRow) (read : (match (table[i]?).join with
      | some row => if rowHolds m row then some (i, row) else none
      | none => none) = some a) : a.1 = i := by
    split at read
    · split at read
      · cases read
        rfl
      · nomatch read
    · nomatch read
  intro i j before a left b right
  rwa [number i a left, number j b right]

/-- Rows in rising number are determined by which they are. -/
theorem eq_matchedRows {m : List Nat} {table : Vector (Option ShelvingRow) 16} {rows : List (Nat × ShelvingRow)}
    (rise : rows.Pairwise (fun a b => a.1 < b.1))
    (listed : ∀ i row, (i, row) ∈ rows ↔ ∃ h : i < 16, table[i] = some row ∧ rowHolds m row = true) : rows = matchedRows m table := by
  have irreflexive : Std.Irrefl (fun a b : Nat × ShelvingRow => a.1 < b.1) := ⟨fun a => Nat.lt_irrefl a.1⟩
  refine List.Pairwise.eq_of_mem_iff rise (matchedRows_rise m table) ?_
  rintro ⟨i, row⟩
  rw [listed, mem_matchedRows_iff]

theorem foldl_max_le_iff (rows : List (Nat × ShelvingRow)) (a n : Nat) :
    rows.foldl (fun m x => max m x.2.cls) a ≤ n ↔ a ≤ n ∧ ∀ r ∈ rows, r.2.cls ≤ n := by
  induction rows generalizing a with
  | nil => simp
  | cons x rows ih =>
    rw [List.foldl_cons, ih]
    simp [and_assoc]

/-- R147, step 4: the highest class of the matched rows. -/
theorem classOf_eq {rows : List (Nat × ShelvingRow)} {cls : Nat}
    (highest : (rows = [] ∧ cls = 1) ∨ (∃ r ∈ rows, r.2.cls = cls) ∧ ∀ r ∈ rows, r.2.cls ≤ cls) : classOf rows = cls := by
  obtain ⟨rfl, rfl⟩ | ⟨⟨r, listed, rfl⟩, highest⟩ := highest
  · rfl
  · rw [classOf, if_neg (List.ne_nil_of_mem listed)]
    refine Nat.le_antisymm ((foldl_max_le_iff rows 0 _).mpr ⟨Nat.zero_le _, highest⟩) ?_
    exact ((foldl_max_le_iff rows 0 _).mp (le_refl _)).2 r listed

theorem classEntry_eq {r : ReelController} {cls : Nat} (h : 1 ≤ cls ∧ cls ≤ 5) : classEntry r cls = r.classes[cls - 1] := by
  rw [classEntry, Vector.getElem?_eq_getElem (by omega)]
  rfl

/-- R148: the ticket of a classified reel, from the rows that hold, the class they give and its entry. -/
theorem classifiedTicket_eq {x : ReelIdentity} {r : ReelController} {record : ReelRecord} {m : List Nat}
    {rows : List (Nat × ShelvingRow)} {cls : Nat} {entry : Option ClassEntry} (matched : matchedRows m r.shelving = rows)
    (highest : classOf rows = cls) : classEntry r cls = entry →
    classifiedTicket x r record m =
      { reelSequence := r.sequence, accession := x.accession, reelNumber := x.reelNumber, format := x.format.val,
        cls := cls, previousClass := x.previousClass,
        change := x.previousClass.map (fun p => if cls < p then .better else if cls = p then .same else .worse),
        zone := (match entry with
          | some e => e.zone
          | none => 0),
        interval := (match entry with
          | some e => e.interval
          | none => 0),
        flags := (match entry with
          | some e => e.flags
          | none => ⟨false, false, false, false⟩),
        classUnset := decide (entry = none), matchedRows := rows.map (·.1), metrics := m,
        framesDelivered := record.framesDelivered, framesLost := record.framesLost, aborted := false } := by
  intro set
  simp only [classifiedTicket, matched, highest, set]
  cases entry <;> rfl

/-! ### The close and its ticket (R138) -/

theorem classify_of_full {x : ReelIdentity} {s : State} (full : 4 ≤ s.reel.tickets.length) :
    classify x s =
      let record := recordAtEnd s s.reel.record
      { s with
        reel :=
          { s.reel with
            state := .ticketWait, record := record, lastMetrics := some (metricsOf record),
            held := some (classifiedTicket x s.reel record (metricsOf record)) },
        grading := s.grading.endOfClose, pace := { s.pace with effective := 0, spinUp := none } } := by
  unfold classify holdTicket
  dsimp only
  rw [if_neg (by omega), formEffective_changes, if_pos (formedLevel_of_stopped _ (.inr (.inr rfl)))]
  rfl

theorem classify_of_room {x : ReelIdentity} {s : State} (room : s.reel.tickets.length < 4) :
    classify x s =
      let record := recordAtEnd s s.reel.record
      let k := classifiedTicket x s.reel record (metricsOf record)
      { s with
        reel :=
          { s.reel with
            state := .noReel, record := record, lastMetrics := some (metricsOf record), held := none,
            tickets := s.reel.tickets ++ [k] },
        grading := s.grading.endOfClose, pace := { s.pace with effective := 0, spinUp := none },
        notices := setNotice s.notices .ticketReady (occur s.notices.ticketReady),
        interpreter := answerHead ⟨.ok, [word s.reel.sequence.toNat, word k.cls]⟩ s.interpreter } := by
  unfold classify
  dsimp only
  rw [if_pos room, completeClose_eq]
  rfl

/-- R132: what the end of a close leaves of the Grading Engine. -/
theorem endOfClose_eq (g : Grading) :
    g.endOfClose =
      { g with mode := .waiting, sets := g.endOfClose.sets, current := none, dissolve := none, accumulators := ⟨0, 0, 0, 0⟩ } := rfl

/-! ### The metrics (R144) -/

theorem shrinkPm_eq (r : ReelRecord) :
    shrinkPm r =
      if r.framesDelivered = 0 ∨ 65536 ≤ r.sumS / r.framesDelivered then 0
      else (65536 - r.sumS / r.framesDelivered) * 1000 / 65536 := by
  by_cases some_frame : r.framesDelivered = 0
  · simp [shrinkPm, some_frame]
  · by_cases large : 65536 ≤ r.sumS / r.framesDelivered
    · simp [shrinkPm, large, Nat.sub_eq_zero_of_le large]
    · rw [shrinkPm, if_neg some_frame, if_neg (not_or.mpr ⟨some_frame, large⟩)]

/-- A division by 0 is 0. -/
theorem guarded_div (a b : Nat) : (if b = 0 then 0 else a / b) = a / b := by
  split
  · rename_i zero
    rw [zero, Nat.div_zero]
  · rfl

/-- Settles O60. -/
theorem reelClassified : Obligations.ReelClassified := by
  refine ⟨fun s x identity => ⟨exec_classification_waits, ?_⟩, fun r => ?_⟩
  · intro rows cls entry k ready record m holds rise listed highest set ticket released
    have matched : matchedRows m s.reel.shelving = rows := by
      refine (eq_matchedRows rise fun i row => (listed i row).trans ?_).symm
      exact exists_congr fun _ => and_congr_right fun _ => (rowHolds_iff m row).symm
    obtain ⟨range, set⟩ := set
    have k_eq : classifiedTicket x s.reel record m = k :=
      (classifiedTicket_eq (r := s.reel) (record := record) matched (classOf_eq highest)
        ((classEntry_eq range).trans set.symm)).trans ticket.symm
    have runs := exec_classification identity ready
    refine ⟨fun full busy => ?_, fun q rest j room queue inFlight => ?_⟩
    · rw [classify_of_full full] at runs
      refine ⟨_, runs.trans (congrArg done (runQueue_stopped (.inr (.inl busy)))), ?_, rfl, rfl, rfl, endOfClose_eq _,
        releaseSets_sets _, rfl, rfl, rfl, rfl, ready.2.2.1, rfl, rfl, rfl, rfl⟩
      rw [← k_eq]
    · rw [classify_of_room room] at runs
      refine ⟨_, _, runQueue_starts _, runs, fun none_left => runQueue_empty _ ?_, ?_, ?_, rfl, rfl, endOfClose_eq _,
        releaseSets_sets _, rfl, rfl, rfl, rfl, ready.2.2.1, rfl, rfl, rfl, rfl⟩
      · simp only [answerHead_of_inFlight _ queue inFlight, none_left]
      · rw [← k_eq]
      · have class_eq : k.cls = cls := by rw [ticket]
        rw [← class_eq, ← k_eq]
        exact answerHead_of_inFlight _ queue inFlight
  · intro per mean
    have per_eq (a b : Nat) : per a b = a / b := guarded_div a b
    simp only [per_eq]
    rw [metricsOf, shrinkPm_eq]
    exact congrArg _ (congrArg (· :: _) rfl)

end Sys2Proof.Machine
end

section
/-! O14: the payloads of Tables 12-6 to 12-8 read back, field by field. -/

namespace Sys2Proof.Machine

/-! ## Fields of words built from numbers -/

theorem flatMap_numberBytes (ns : List Nat) : ns.flatMap numberBytes = bytesOfWords (ns.map word) := by
  rw [bytesOfWords, List.flatMap_map]
  rfl

theorem numberBytes_eq (n : Nat) : numberBytes n = bytesOfWords [word n] := wordBytes_eq _

theorem flatMap_numberBytes_length (ns : List Nat) : (ns.flatMap numberBytes).length = 4 * ns.length := by
  rw [flatMap_numberBytes, bytesOfWords_length, List.length_map]

/-- A word of a payload shows the low 32 bits of the number that it holds. -/
theorem fieldAt_of_word {p : List Byte} {number n : Nat} (lo width : Nat) (held : wordAt p (number - 1) = word n) :
    fieldAt p number lo width = n % 2 ^ 32 / 2 ^ lo % 2 ^ width := by
  rw [fieldAt, held, word, BitVec.toNat_ofNat]

theorem wordAt_numbers (ns : List Nat) (i : Nat) : wordAt (ns.flatMap numberBytes) i = word (ns.getD i 0) := by
  rw [flatMap_numberBytes, wordAt_bytesOfWords]
  by_cases below : i < ns.length
  · simp [List.getD_eq_getElem?_getD, below]
  · simp [List.getD_eq_getElem?_getD, below, word]

theorem fieldAt_numbers (ns : List Nat) (number lo width : Nat) :
    fieldAt (ns.flatMap numberBytes) number lo width = ns.getD (number - 1) 0 % 2 ^ 32 / 2 ^ lo % 2 ^ width :=
  fieldAt_of_word _ _ (wordAt_numbers ns _)

theorem flagBit_eq (place : Nat) (flag : Bool) : flagBit place flag = flag.toNat * 2 ^ place := by
  cases flag <;> simp [flagBit]

theorem toNat_le_one (b : Bool) : b.toNat ≤ 1 := Bool.toNat_le b

/-! ## FRAME_HEAD -/

theorem headPayload_fields (c : FrameContext) (number lo width : Nat) :
    fieldAt (headPayload c) number lo width =
      [c.frame, headFlags c, c.top / 16, c.appliedS, headGrading c, (firedCueWords c.firedCue).1,
        (firedCueWords c.firedCue).2].getD (number - 1) 0 % 2 ^ 32 / 2 ^ lo % 2 ^ width := fieldAt_numbers _ _ _ _

theorem synthesized_toNat (x : PerfStatus) : (x == .synthesized).toNat = if x = .accepted then 0 else 1 := by cases x <;> rfl

theorem coasting_toNat (x : CutState) : (x == .coasting).toNat = if x = .locked then 0 else 1 := by cases x <;> rfl

theorem isSome_toNat {α : Type} (x : Option α) [Decidable (x = none)] : x.isSome.toNat = if x = none then 0 else 1 := by
  cases x <;> simp

theorem setNumber_lt (x : Option (Fin 4)) : setNumber x < 4 := by
  cases x with
  | none => exact Nat.zero_lt_succ _
  | some i => exact i.isLt

/-- Word 2 of FRAME_HEAD: a field a term. -/
theorem headFlags_parts (c : FrameContext) :
    ∃ a b d e f g : Nat, a ≤ 1 ∧ b ≤ 1 ∧ d ≤ 1 ∧ e ≤ 1 ∧ f ≤ 1 ∧ g ≤ 1 ∧ (if c.topStatus = .accepted then 0 else 1) = a
      ∧ (if c.cutState = .locked then 0 else 1) = b ∧ c.splice.toNat = d ∧ c.shrinkClamp.toNat = e ∧ c.weaveClamp.toNat = f
      ∧ c.gradeMiss.toNat = g
      ∧ headFlags c =
          c.reelSequence.toNat + a * 2 ^ 16 + b * 2 ^ 17 + d * 2 ^ 18 + e * 2 ^ 19 + f * 2 ^ 20 + g * 2 ^ 21
            + c.top % 16 * 2 ^ 24 := by
  refine ⟨_, _, _, _, _, _, toNat_le_one (c.topStatus == .synthesized), toNat_le_one (c.cutState == .coasting), toNat_le_one _,
    toNat_le_one _, toNat_le_one _, toNat_le_one _, (synthesized_toNat _).symm, (coasting_toNat _).symm, rfl, rfl, rfl, rfl, ?_⟩
  simp only [headFlags, flagBit_eq]

/-- Word 5 of FRAME_HEAD: a field a term. -/
theorem headGrading_parts (c : FrameContext) :
    ∃ a b d : Nat, a < 4 ∧ b ≤ 1 ∧ d < 4 ∧ setNumber c.currentSet = a ∧ (if c.targetSet = none then 0 else 1) = b
      ∧ setNumber c.targetSet = d
      ∧ headGrading c =
          (BitVec.ofInt 16 c.appliedH).toNat + c.weight % 256 * 2 ^ 16 + a * 2 ^ 24 + b * 2 ^ 26 + d * 2 ^ 27 := by
  refine ⟨_, _, _, setNumber_lt _, toNat_le_one _, setNumber_lt _, rfl, (isSome_toNat _).symm, rfl, ?_⟩
  rw [headGrading, flagBit_eq]

/-- R1, Table 12-6: FRAME_HEAD. -/
theorem head_fields (c : FrameContext) :
    let f := fieldAt (headPayload c)
    (headPayload c).length = 28 ∧ f 1 0 32 = c.frame % 2 ^ 32 ∧ f 2 0 16 = c.reelSequence.toNat
      ∧ f 2 16 1 = (if c.topStatus = .accepted then 0 else 1) ∧ f 2 17 1 = (if c.cutState = .locked then 0 else 1)
      ∧ f 2 18 1 = c.splice.toNat ∧ f 2 19 1 = c.shrinkClamp.toNat ∧ f 2 20 1 = c.weaveClamp.toNat
      ∧ f 2 21 1 = c.gradeMiss.toNat ∧ f 2 22 2 = 0 ∧ f 2 24 4 = c.top % 16 ∧ f 2 28 4 = 0
      ∧ f 3 0 32 = c.top / 16 % 2 ^ 32 ∧ f 4 0 32 = c.appliedS % 2 ^ 32
      ∧ f 5 0 16 = (BitVec.ofInt 16 c.appliedH).toNat ∧ f 5 16 8 = c.weight % 256
      ∧ f 5 24 2 = setNumber c.currentSet ∧ f 5 26 1 = (if c.targetSet = none then 0 else 1)
      ∧ f 5 27 2 = setNumber c.targetSet ∧ f 5 29 3 = 0 ∧ f 6 0 32 = (firedCueWords c.firedCue).1 % 2 ^ 32
      ∧ f 7 0 32 = (firedCueWords c.firedCue).2 % 2 ^ 32 := by
  intro f
  obtain ⟨a, b, d, e, g, h, ha, hb, hd, he, hg, hh, top, cut, splice, shrink, weave, miss, flags⟩ := headFlags_parts c
  obtain ⟨x, y, z, hx, hy, hz, current, targets, target, gradings⟩ := headGrading_parts c
  have sequence := c.reelSequence.isLt
  have weaves := (BitVec.ofInt 16 c.appliedH).isLt
  simp only [f, headPayload_fields, Nat.reduceSub, List.getD_cons_succ, List.getD_cons_zero, flags, gradings, top, cut, splice,
    shrink, weave, miss, current, targets, target]
  refine ⟨flatMap_numberBytes_length _, ?_⟩
  clear_value f
  omega

/-! ## LINE_OUT -/

theorem rgbBytes_length (p : Rgb) : (rgbBytes p).length = 6 := rfl

theorem flatMap_rgbBytes_length (px : List Rgb) : (px.flatMap rgbBytes).length = 6 * px.length := by
  induction px with
  | nil => rfl
  | cons p px ih =>
    rw [List.flatMap_cons, List.length_append, ih, rgbBytes_length, List.length_cons]
    omega

/-- The three values of a pixel stand six bytes apart. -/
theorem halfAt_rgbBytes (px : List Rgb) {x : Nat} (h : x < px.length) :
    halfAt (px.flatMap rgbBytes) (6 * x) = px[x].r ∧ halfAt (px.flatMap rgbBytes) (6 * x + 2) = px[x].g
      ∧ halfAt (px.flatMap rgbBytes) (6 * x + 4) = px[x].b := by
  induction px generalizing x with
  | nil => nomatch h
  | cons p px ih =>
    rw [List.flatMap_cons]
    cases x with
    | zero => exact ⟨half_join p.r, half_join p.g, half_join p.b⟩
    | succ x =>
      have past (k : Nat) : halfAt (rgbBytes p ++ px.flatMap rgbBytes) (6 * (x + 1) + k) = halfAt (px.flatMap rgbBytes) (6 * x + k) := by
        rw [halfAt_append_right _ _ _ (by rw [rgbBytes_length]; omega), rgbBytes_length]
        congr 1
        omega
      obtain ⟨r, g, b⟩ := ih (Nat.lt_of_succ_lt_succ h)
      exact ⟨(past 0).trans r, (past 2).trans g, (past 4).trans b⟩

/-- R1, Table 12-6: LINE_OUT. -/
theorem lineOut_fields (frame j : Nat) (px : List Rgb) (narrow : j < 2 ^ 16) :
    let p := lineOutPayload frame j px
    p.length = 8 + 6 * px.length ∧ fieldAt p 1 0 32 = frame % 2 ^ 32 ∧ fieldAt p 2 0 16 = j ∧ fieldAt p 2 16 16 = 0
      ∧ ∀ x (h : x < px.length),
          halfAt p (8 + 6 * x) = px[x].r ∧ halfAt p (8 + 6 * x + 2) = px[x].g ∧ halfAt p (8 + 6 * x + 4) = px[x].b := by
  intro p
  have bytes : p = [frame, j].flatMap numberBytes ++ px.flatMap rgbBytes := rfl
  have header : ([frame, j].flatMap numberBytes).length = 8 := rfl
  have held (i : Nat) (below : i < 2) : wordAt p i = word ([frame, j].getD i 0) := by
    rw [bytes, wordAt_append_left _ _ _ (by omega), wordAt_numbers]
  have past (i : Nat) : halfAt p (8 + i) = halfAt (px.flatMap rgbBytes) i := by
    rw [bytes, halfAt_append_right _ _ _ (by omega), header, Nat.add_sub_cancel_left]
  refine ⟨?_, ?_, ?_, ?_, fun x h => ?_⟩
  · rw [bytes, List.length_append, header, flatMap_rgbBytes_length]
  · rw [fieldAt_of_word (number := 1) _ _ (held 0 (by omega)), List.getD_cons_zero]
    omega
  · rw [fieldAt_of_word (number := 2) _ _ (held 1 (by omega)), List.getD_cons_succ, List.getD_cons_zero]
    omega
  · rw [fieldAt_of_word (number := 2) _ _ (held 1 (by omega)), List.getD_cons_succ, List.getD_cons_zero]
    omega
  · obtain ⟨r, g, b⟩ := halfAt_rgbBytes px h
    simp only [Nat.add_assoc, past]
    exact ⟨r, g, b⟩

/-! ## FRAME_TAIL -/

theorem tailFlags_eq (c : FrameContext) :
    tailFlags c =
      c.reelSequence.toNat + c.synthesized % 8 * 2 ^ 16 + c.incomplete.toNat * 2 ^ 19 + c.referenceUsed.toNat * 2 ^ 20
        + c.aborted.toNat * 2 ^ 21 := by
  simp only [tailFlags, flagBit_eq]

/-- R1, Table 12-6: FRAME_TAIL. -/
theorem tail_fields (c : FrameContext) (red : c.meanR < 2 ^ 16) (green : c.meanG < 2 ^ 16) (blue : c.meanB < 2 ^ 16) :
    let f := fieldAt (tailPayload c)
    (tailPayload c).length = 40 ∧ f 1 0 32 = c.frame % 2 ^ 32 ∧ f 2 0 16 = c.reelSequence.toNat
      ∧ f 2 16 3 = c.synthesized % 8 ∧ f 2 19 1 = c.incomplete.toNat ∧ f 2 20 1 = c.referenceUsed.toNat
      ∧ f 2 21 1 = c.aborted.toNat ∧ f 2 22 10 = 0 ∧ f 3 0 32 = c.substituted % 2 ^ 32
      ∧ f 4 0 32 = c.temporal % 2 ^ 32 ∧ f 5 0 32 = c.spatial % 2 ^ 32 ∧ f 6 0 32 = c.scratchPixels % 2 ^ 32
      ∧ f 7 0 32 = c.unrepaired % 2 ^ 32 ∧ f 8 0 32 = c.clipped % 2 ^ 32
      ∧ f 9 0 16 = c.meanR ∧ f 9 16 16 = c.meanG ∧ f 10 0 16 = c.meanB ∧ f 10 16 16 = 0 := by
  intro f
  have fields (number lo width : Nat) : f number lo width = _ := fieldAt_numbers _ number lo width
  have sequence := c.reelSequence.isLt
  have incomplete := toNat_le_one c.incomplete
  have referenced := toNat_le_one c.referenceUsed
  have aborted := toNat_le_one c.aborted
  simp only [fields, Nat.reduceSub, List.getD_cons_succ, List.getD_cons_zero, tailFlags_eq]
  refine ⟨flatMap_numberBytes_length _, ?_⟩
  clear fields
  clear_value f
  omega

/-! ## REPLY and NOTICE -/

theorem statusCode_listed (x : ReplyStatus) :
    (x, statusCode x) ∈
      [(ReplyStatus.ok, 0), (.adjusted, 1), (.busy, 2), (.notReady, 3), (.badCommand, 4), (.badArg, 5), (.badState, 6),
        (.notConfigured, 7), (.overlap, 8), (.setBusy, 9), (.incompleteSet, 10), (.tableFull, 11), (.duplicate, 12),
        (.aborted, 13)] := by
  cases x <;> decide

theorem statusCode_lt (x : ReplyStatus) : statusCode x < 14 := by cases x <;> decide

theorem classNumber_listed (c : NoticeClass) :
    (c, classNumber c) ∈
      [(NoticeClass.lockLost, 1), (.framesLost, 2), (.ringOverflow, 3), (.intakeError, 4), (.gradeMiss, 5),
        (.scratchFull, 6), (.ticketReady, 7), (.transportFault, 8), (.deliveryStall, 9), (.clamp, 10)] := by
  cases c <;> decide

theorem classNumber_le (c : NoticeClass) : classNumber c ≤ 10 := by cases c <;> decide

theorem toNat_append_half (a b : Half) : (a ++ b : Word).toNat = a.toNat * 2 ^ 16 + b.toNat := by
  rw [BitVec.toNat_append, Nat.shiftLeft_eq, ← Nat.shiftLeft_eq, ← Nat.shiftLeft_add_eq_or_of_lt b.isLt, Nat.shiftLeft_eq]

/-- R1, Table 12-7: REPLY. -/
theorem reply_fields (r : Reply) (short : 4 * r.data.length < 2 ^ 16) :
    let p := replyPayload r
    p.length = 8 + 4 * r.data.length ∧ fieldAt p 1 0 16 = r.code.toNat ∧ fieldAt p 1 16 16 = r.tag.toNat
      ∧ fieldAt p 2 0 8 = statusCode r.status ∧ fieldAt p 2 8 8 = 0 ∧ fieldAt p 2 16 16 = 4 * r.data.length
      ∧ ∀ k (h : k < r.data.length), wordAt p (2 + k) = r.data[k] := by
  intro p
  set n := statusCode r.status + 4 * r.data.length * 2 ^ 16 with number
  have bytes : p = halfBytes r.code ++ (halfBytes r.tag ++ (numberBytes n ++ bytesOfWords r.data)) := by
    simp only [p, replyPayload, List.append_assoc, number]
  have bytes' : p = (halfBytes r.code ++ halfBytes r.tag) ++ bytesOfWords (word n :: r.data) := by
    simp only [p, replyPayload, List.append_assoc, number, bytesOfWords_cons]
    rfl
  have words (k : Nat) : wordAt p (1 + k) = (word n :: r.data).getD k 0#32 := by
    rw [bytes', wordAt_append_words _ k rfl, wordAt_bytesOfWords]
  have first : (wordAt p 0).toNat = r.tag.toNat * 2 ^ 16 + r.code.toNat := by
    rw [wordAt, toNat_append_half, bytes, halfAt_halfBytes, halfAt_append_right _ _ _ (le_of_eq (halfBytes_length _)),
      halfBytes_length, halfAt_halfBytes]
  have code := r.code.isLt
  have tag := r.tag.isLt
  have status := statusCode_lt r.status
  refine ⟨?_, ?_, ?_, ?_, ?_, ?_, fun k h => ?_⟩
  · rw [bytes', List.length_append, bytesOfWords_length]
    simp only [List.length_append, halfBytes_length, List.length_cons]
    omega
  · rw [fieldAt, first]
    omega
  · rw [fieldAt, first]
    omega
  · rw [fieldAt_of_word (number := 2) _ _ (words 0)]
    omega
  · rw [fieldAt_of_word (number := 2) _ _ (words 0)]
    omega
  · rw [fieldAt_of_word (number := 2) _ _ (words 0)]
    omega
  · rw [show 2 + k = 1 + (k + 1) by omega, words, List.getD_cons_succ, List.getD_eq_getElem _ _ h]

/-- R1, Table 12-7: NOTICE. -/
theorem notice_fields (c : NoticeClass) (carried : Nat) (narrow : carried < 2 ^ 16) :
    let p := noticePayload c carried
    p.length = 4 ∧ fieldAt p 1 8 8 = 0 ∧ fieldAt p 1 16 16 = carried ∧ fieldAt p 1 0 8 = classNumber c := by
  intro p
  have held : wordAt p 0 = word (classNumber c + carried * 2 ^ 16) := by
    simp only [p, noticePayload, numberBytes_eq, wordAt_bytesOfWords, List.getD_cons_zero]
  have number := classNumber_le c
  have fields (lo width : Nat) : fieldAt p 1 lo width = _ := fieldAt_of_word (number := 1) lo width held
  simp only [fields]
  refine ⟨wordBytes_length _, ?_⟩
  clear fields held
  clear_value p
  omega

/-! ## TICKET (Table 12-8) -/

/-- The bits of a set of matched rows are the rows listed. -/
theorem testBit_rowBits {rows : List Nat} (each : rows.Nodup) (r : Nat) : (rowBits rows).testBit r = true ↔ r ∈ rows := by
  have order : rows.mergeSort.SortedLT :=
    List.sortedLT_iff_nodup_and_sortedLE.mpr ⟨(List.mergeSort_perm rows _).nodup_iff.mpr each, List.sortedLE_mergeSort⟩
  have sum : rowBits rows = (rows.mergeSort.map (fun i => 2 ^ i)).sum :=
    (((List.mergeSort_perm rows _).map _).sum_eq).symm
  rw [← Nat.mem_bitIndices, sum, Nat.bitIndices_sum_map_two_pow order, List.mem_mergeSort]

theorem rowBits_lt {rows : List Nat} (each : rows.Nodup) (few : ∀ r ∈ rows, r < 16) : rowBits rows < 2 ^ 16 := by
  refine Nat.lt_pow_two_of_testBit _ fun i high => ?_
  rw [Bool.eq_false_iff, ne_eq, testBit_rowBits each]
  exact fun listed => absurd (few i listed) (by omega)

theorem rowBits_div {rows : List Nat} (each : rows.Nodup) (r : Nat) : rowBits rows / 2 ^ r % 2 = if r ∈ rows then 1 else 0 := by
  have bit := testBit_rowBits each r
  rw [Nat.testBit_eq_decide_div_mod_eq, decide_eq_true_iff] at bit
  split
  · exact bit.mpr ‹_›
  · have := mt bit.mp ‹_›
    omega

theorem accessionBytes_length {a : List Byte} (short : a.length ≤ 24) : (accessionBytes a).length = 24 := by
  rw [accessionBytes, List.length_append, List.length_replicate]
  omega

theorem byteAt_accessionBytes (a : List Byte) (k : Nat) : byteAt (accessionBytes a) k = a.getD k 0#8 := by
  by_cases inside : k < a.length
  · exact byteAt_append_left _ _ _ inside
  · rw [accessionBytes, byteAt_append_right _ _ _ (Nat.le_of_not_lt inside), byteAt]
    simp only [List.getD_eq_getElem?_getD, List.getElem?_replicate, List.getElem?_eq_none (Nat.le_of_not_lt inside)]
    split <;> rfl

theorem changeCode_lt (x : Option ClassChange) : changeCode x < 4 := by rcases x with _ | (_ | _ | _) <;> decide

theorem handlingBits_eq (h : HandlingFlags) :
    handlingBits h =
      h.coldStorage.toNat + h.isolate.toNat * 2 + h.holdForDuplication.toNat * 2 ^ 2 + h.noProjection.toNat * 2 ^ 3 := by
  simp only [handlingBits, flagBit_eq, Nat.pow_zero, Nat.mul_one, Nat.pow_one]

/-- Words 1 to 3 of TICKET. -/
def ticketHeader (t : Ticket) : List Nat :=
  [t.reelSequence.toNat + t.reelNumber * 2 ^ 16 + t.format * 2 ^ 24 + t.cls * 2 ^ 27 + t.aborted.toNat * 2 ^ 30
      + t.classUnset.toNat * 2 ^ 31,
    t.previousClass.getD 0 + changeCode t.change * 2 ^ 3 + t.zone * 2 ^ 8 + t.interval * 2 ^ 16 + handlingBits t.flags * 2 ^ 24,
    rowBits t.matchedRows + t.accession.length * 2 ^ 16]

theorem ticketPayload_eq (t : Ticket) :
    ticketPayload t =
      (ticketHeader t).flatMap numberBytes
        ++ (accessionBytes t.accession ++ (t.metrics ++ [t.framesDelivered, t.framesLost]).flatMap numberBytes) := by
  simp only [ticketPayload, ticketHeader, flagBit_eq, List.flatMap_cons, List.flatMap_nil, List.flatMap_append, List.append_assoc,
    List.append_nil]

section
variable (t : Ticket)

theorem ticket_header_fields (i lo width : Nat) (below : i < 3) :
    fieldAt (ticketPayload t) (i + 1) lo width = (ticketHeader t).getD i 0 % 2 ^ 32 / 2 ^ lo % 2 ^ width := by
  have length : ((ticketHeader t).flatMap numberBytes).length = 12 := flatMap_numberBytes_length _
  refine fieldAt_of_word (number := i + 1) _ _ ?_
  rw [Nat.add_sub_cancel, ticketPayload_eq, wordAt_append_left _ _ _ (by omega), wordAt_numbers]

theorem ticket_later_fields (i : Nat) (short : t.accession.length ≤ 24) :
    fieldAt (ticketPayload t) (10 + i) 0 32 = (t.metrics ++ [t.framesDelivered, t.framesLost]).getD i 0 % 2 ^ 32 := by
  have length : ((ticketHeader t).flatMap numberBytes ++ accessionBytes t.accession).length = 4 * 9 := by
    rw [List.length_append, flatMap_numberBytes_length, accessionBytes_length short]
    rfl
  have held : wordAt (ticketPayload t) (10 + i - 1) = word ((t.metrics ++ [t.framesDelivered, t.framesLost]).getD i 0) := by
    rw [show 10 + i - 1 = 9 + i by omega, ticketPayload_eq, ← List.append_assoc, wordAt_append_words _ i length, wordAt_numbers]
  rw [fieldAt_of_word (number := 10 + i) _ _ held, Nat.pow_zero, Nat.div_one, Nat.mod_mod]

/-- Words 1 and 2 of TICKET, field by field. -/
theorem ticket_identity_fields (number : t.reelNumber < 256) (format : t.format < 8) (cls : t.cls < 8)
    (before : ∀ c, t.previousClass = some c → c < 8) (zone : t.zone < 256) (interval : t.interval < 256) :
    let f := fieldAt (ticketPayload t)
    f 1 0 16 = t.reelSequence.toNat ∧ f 1 16 8 = t.reelNumber ∧ f 1 24 3 = t.format ∧ f 1 27 3 = t.cls
      ∧ f 1 30 1 = t.aborted.toNat ∧ f 1 31 1 = t.classUnset.toNat ∧ f 2 0 3 = t.previousClass.getD 0
      ∧ f 2 3 2 = changeCode t.change ∧ f 2 5 3 = 0 ∧ f 2 8 8 = t.zone ∧ f 2 16 8 = t.interval
      ∧ f 2 24 1 = t.flags.coldStorage.toNat ∧ f 2 25 1 = t.flags.isolate.toNat
      ∧ f 2 26 1 = t.flags.holdForDuplication.toNat ∧ f 2 27 1 = t.flags.noProjection.toNat ∧ f 2 28 4 = 0 := by
  intro f
  have first (lo width : Nat) : f 1 lo width = _ := ticket_header_fields t 0 lo width (by omega)
  have second (lo width : Nat) : f 2 lo width = _ := ticket_header_fields t 1 lo width (by omega)
  have sequence := t.reelSequence.isLt
  have aborted := toNat_le_one t.aborted
  have unset := toNat_le_one t.classUnset
  have previous : t.previousClass.getD 0 < 8 := by
    cases held : t.previousClass with
    | none => exact Nat.zero_lt_succ _
    | some c => exact before c held
  have change := changeCode_lt t.change
  have cold := toNat_le_one t.flags.coldStorage
  have isolate := toNat_le_one t.flags.isolate
  have hold := toNat_le_one t.flags.holdForDuplication
  have projection := toNat_le_one t.flags.noProjection
  simp only [first, second, ticketHeader, List.getD_cons_succ, List.getD_cons_zero, handlingBits_eq]
  clear first second
  clear_value f
  omega

/-- Word 3 of TICKET. -/
theorem ticket_rows_fields (each : t.matchedRows.Nodup) (few : ∀ r ∈ t.matchedRows, r < 16) (short : t.accession.length ≤ 24) :
    let f := fieldAt (ticketPayload t)
    (∀ r < 16, f 3 r 1 = if r ∈ t.matchedRows then 1 else 0) ∧ f 3 16 8 = t.accession.length ∧ f 3 24 8 = 0 := by
  intro f
  have third (lo width : Nat) : f 3 lo width = _ := ticket_header_fields t 2 lo width (by omega)
  have bits := rowBits_lt each few
  simp only [third, ticketHeader, List.getD_cons_succ, List.getD_cons_zero]
  refine ⟨fun r low => ?_, by omega, by omega⟩
  have fits : rowBits t.matchedRows + t.accession.length * 2 ^ 16 < 2 ^ 32 := by omega
  rw [← rowBits_div each r, Nat.mod_eq_of_lt fits, Nat.pow_one]
  have place : t.accession.length * 2 ^ 16 = 2 ^ r * (2 * (t.accession.length * 2 ^ (15 - r))) := by
    have power : 2 ^ 16 = 2 ^ r * (2 * 2 ^ (15 - r)) := by
      rw [← Nat.pow_succ', ← Nat.pow_add]
      congr 1
      omega
    rw [power]
    ring
  rw [place, Nat.add_mul_div_left _ _ (Nat.two_pow_pos r), Nat.add_mul_mod_self_left]

end

/-- R1: the check text of the rule. -/
theorem crc16_checkText : crc16 [0x31#8, 0x32#8, 0x33#8, 0x34#8, 0x35#8, 0x36#8, 0x37#8, 0x38#8, 0x39#8] = 0x29B1#16 := by
  decide +kernel

/-- Settles O14. -/
theorem packetsCarryTheirCrc : Obligations.PacketsCarryTheirCrc := by
  refine ⟨crc16_checkText, fun kind p short => ⟨packetRun_intact kind p short, packetRun_payload kind p short⟩, fun c => ?_,
    lineOut_fields, tail_fields, fun r short => ?_, fun c carried narrow => ?_, ?_⟩
  · intro f
    obtain ⟨length, frame, sequence, top, cut, splice, shrink, weave, miss, free, low, free', high, shrunk, weaves, weight, current,
      targets, target, free'', kind, trigger⟩ := head_fields c
    refine ⟨length, frame, sequence, top, cut, splice, shrink, weave, miss, free, low, free', high, shrunk, weaves, weight, current,
      targets, target, free'', (Prod.ext kind trigger : (_, _) = (_, _)).trans ?_⟩
    rcases c.firedCue with _ | (n | _) <;> rfl
  · obtain ⟨length, code, tag, status, free, count, data⟩ := reply_fields r short
    exact ⟨length, code, tag, status ▸ statusCode_listed r.status, free, count, data⟩
  · obtain ⟨length, free, count, number⟩ := notice_fields c carried narrow
    exact ⟨length, free, count, number ▸ classNumber_listed c⟩
  · intro t number format cls before zone interval each few short twelve f
    obtain ⟨sequence, reel, formats, classes, aborted, unset, previous, change, free, zones, intervals, cold, isolate, hold, projection,
      free'⟩ := ticket_identity_fields t number format cls before zone interval
    obtain ⟨rows, accession, free''⟩ := ticket_rows_fields t each few short
    have later (i : Nat) : f (10 + i) 0 32 = _ := ticket_later_fields t i short
    refine ⟨?_, sequence, reel, formats, classes, aborted, unset, previous, change.trans ?_, free, zones, intervals, cold, isolate, hold,
      projection, free', rows, accession, free'', fun k below => ?_, fun m below => ?_, ?_, ?_⟩
    · rw [ticketPayload_eq, List.length_append, List.length_append, flatMap_numberBytes_length, flatMap_numberBytes_length,
        accessionBytes_length short, List.length_append, twelve]
      rfl
    · rcases t.change with _ | (_ | _ | _) <;> rfl
    · have header : ((ticketHeader t).flatMap numberBytes).length = 12 := flatMap_numberBytes_length _
      rw [ticketPayload_eq, byteAt_append_right _ _ _ (by omega), header, Nat.add_sub_cancel_left,
        byteAt_append_left _ _ _ (by rwa [accessionBytes_length short]), byteAt_accessionBytes]
    · rw [later, List.getD_append _ _ _ _ (by omega)]
    · rw [show (22 : Nat) = 10 + 12 from rfl, later, List.getD_append_right _ _ _ _ (by omega), twelve]
      rfl
    · rw [show (23 : Nat) = 10 + 13 from rfl, later, List.getD_append_right _ _ _ _ (by omega), twelve]
      rfl

end Sys2Proof.Machine
end

section
/-! O25, O26: the arbiter's choice and its grants, and the intake write. -/

namespace Sys2Proof.Machine

/-! ## Requests and choice (R65, R67, R68) -/

theorem mem_requesters (r : Requester) : r ∈ requesters := by cases r <;> decide

theorem requesters_nodup : requesters.Nodup := by decide

/-- What is found first in the priority order. -/
theorem find_requesters {p : Requester → Bool} {g : Requester} (found : requesters.find? p = some g) :
    p g = true ∧ ∀ r, p r = true → requesters.idxOf g ≤ requesters.idxOf r := by
  obtain ⟨holds, i, below, rfl, passed⟩ := List.find?_eq_some_iff_getElem.mp found
  refine ⟨holds, fun r holds => ?_⟩
  rw [requesters_nodup.idxOf_getElem]
  by_contra! earlier
  have listed := List.idxOf_lt_length_of_mem (mem_requesters r)
  have := passed _ earlier
  rw [List.getElem_idxOf listed, holds] at this
  nomatch this

theorem find_requesters_none {p : Requester → Bool} : requesters.find? p = none ↔ ∀ r, p r = false := by
  rw [List.find?_eq_none]
  exact ⟨fun none r => Bool.eq_false_iff.mpr (none r (mem_requesters r)), fun none r _ => by rw [none r]; exact Bool.false_ne_true⟩

section
variable {s : State} {g : Requester}

theorem chooseRequester_eq_none : chooseRequester s = none ↔ ∀ r, presented s r = false := by
  unfold chooseRequester
  split
  · rename_i g aged
    refine ⟨nofun, fun idle => ?_⟩
    have := (find_requesters aged).1
    rw [idle] at this
    nomatch this
  · exact find_requesters_none

theorem chooseRequester_eq_some (chosen : chooseRequester s = some g) :
    presented s g = true
      ∧ (countOf s.frameMemory.aging g = 8 ∨ ∀ r, presented s r = true → countOf s.frameMemory.aging r ≠ 8)
      ∧ ∀ r, presented s r = true → (countOf s.frameMemory.aging g = 8 → countOf s.frameMemory.aging r = 8) →
          requesters.idxOf g ≤ requesters.idxOf r := by
  unfold chooseRequester at chosen
  split at chosen
  · rename_i g' aged
    cases chosen
    obtain ⟨holds, first⟩ := find_requesters aged
    rw [Bool.and_eq_true, beq_iff_eq] at holds
    exact ⟨holds.1, .inl holds.2, fun r asks aged => first r (by rw [asks, aged holds.2]; rfl)⟩
  · rename_i unaged
    obtain ⟨holds, first⟩ := find_requesters chosen
    refine ⟨holds, .inr fun r asks eight => ?_, fun r asks _ => first r asks⟩
    have := find_requesters_none.mp unaged r
    rw [asks, eight] at this
    nomatch this

theorem inIntakeTransfer_iff (f : FrameMemory) (l : Nat) :
    inIntakeTransfer f l = true ↔ ∃ slot a px, f.channel = some (.intakeWrite l slot a px false) := by
  unfold inIntakeTransfer
  split
  · rename_i n slot a px stale held
    rw [held]
    simp only [Bool.and_eq_true, beq_iff_eq, Bool.not_eq_true', Option.some.injEq, Transfer.intakeWrite.injEq]
    exact ⟨fun ⟨n, stale⟩ => ⟨_, _, _, n, rfl, rfl, rfl, stale⟩, fun ⟨_, _, _, n, _, _, _, stale⟩ => ⟨n, stale⟩⟩
  · rename_i other
    exact ⟨nofun, fun ⟨slot, a, px, held⟩ => absurd held (other _ _ _ _ _)⟩

theorem presented_intakeWrite_iff :
    presented s .intakeWrite = true ↔
      s.frameMemory.plan ≠ none ∧ ∃ e rest, s.intake.staging = e :: rest
        ∧ ∀ slot a px, s.frameMemory.channel ≠ some (.intakeWrite e.number slot a px false) := by
  have free (e : SourceLine) : inIntakeTransfer s.frameMemory e.number = false ↔
      ∀ slot a px, s.frameMemory.channel ≠ some (.intakeWrite e.number slot a px false) := by
    rw [← Bool.not_eq_true, inIntakeTransfer_iff]
    simp only [not_exists, ne_eq]
  unfold presented headInTransfer
  cases s.intake.staging with
  | nil => simp
  | cons e rest =>
    simp only [List.isEmpty_cons, Bool.not_false, Bool.true_and, Bool.and_eq_true, Bool.not_eq_true', free,
      Option.isSome_iff_ne_none]
    exact ⟨fun ⟨free, planned⟩ => ⟨planned, e, rest, rfl, free⟩, fun ⟨planned, _, _, held, free⟩ => by cases held; exact ⟨free, planned⟩⟩

/-- R68: the aging counts after a choice. -/
theorem countOf_agedCounts (r : Requester) :
    countOf (agedCounts s g) r =
      if r = g then 0
      else if presented s r = true then min (countOf s.frameMemory.aging r + 1) 8
      else countOf s.frameMemory.aging r := by
  have set (p : PerRequester) (q r : Requester) (n : Nat) : countOf (setCount p q n) r = if r = q then n else countOf p r := by
    cases q <;> cases r <;> rfl
  have turn (p : PerRequester) (q : Requester) :
      countOf (if q = g then setCount p q 0 else if presented s q = true then setCount p q (min (countOf p q + 1) 8) else p) r =
        if r = q then (if r = g then 0 else if presented s r = true then min (countOf p r + 1) 8 else countOf p r) else countOf p r := by
    split
    · rw [set]
      split
      · subst r
        rw [if_pos ‹_›]
      · rfl
    · split
      · rw [set]
        split
        · subst r
          rw [if_neg ‹_›, if_pos ‹_›]
        · rfl
      · split
        · subst r
          rw [if_neg ‹_›, if_neg ‹_›]
        · rfl
  simp only [agedCounts, requesters, List.foldl_cons, List.foldl_nil, turn]
  cases r <;> rfl

theorem exec_arbiterGrant {p : MemoryPlan} (free : s.frameMemory.channel = none) (planned : s.frameMemory.plan = some p)
    (chosen : chooseRequester s = some g) : exec .arbiterGrant s = done (grant p g (countGrant g s)) := by
  change execArbiterGrant s = _
  rw [execArbiterGrant, free, planned, chosen]

end

/-! ## The grants (R64, R82, R91, R92) -/

theorem grant_intakeWrite_fits {s : State} {p : MemoryPlan} {e : SourceLine} {rest : List SourceLine}
    (staged : s.intake.staging = e :: rest) (fits : e.number < protectBoundary s + p.r) :
    grant p .intakeWrite s = beginIntakeWrite p e s := by
  rw [grant, grantIntakeWrite, staged]
  exact if_pos (decide_eq_true fits)

theorem grant_intakeWrite_full {s : State} {p : MemoryPlan} {e : SourceLine} {rest : List SourceLine}
    (staged : s.intake.staging = e :: rest) (full : protectBoundary s + p.r ≤ e.number) :
    grant p .intakeWrite s = dropLine rest s := by
  rw [grant, grantIntakeWrite, staged]
  exact if_neg (by simpa [lineFits] using full)

theorem referenceAddress_eq (p : MemoryPlan) (x : Buffer) (j : Nat) :
    referenceAddress p x j = (if x = .a then p.baseA else p.baseB) + 4096 * j * 8 := by cases x <;> rfl

theorem fillBuffer_base (p : MemoryPlan) (r : Repair) :
    (if fillBuffer r = .a then p.baseA else p.baseB) = if r.lastWritten = some .a then p.baseB else p.baseA := by
  unfold fillBuffer
  rcases r.lastWritten with _ | (_ | _) <;> rfl

/-- R61: a line that fits takes the slot of no line that is still needed. -/
theorem lt_of_same_slot {r l n boundary : Nat} (fits : n < boundary + r) (same : l % r = n % r) (older : l < n) : l < boundary := by
  have : r ∣ n - l := (Nat.modEq_iff_dvd' older.le).mp same
  have := Nat.le_of_dvd (by omega) this
  omega

/-- Settles O25. -/
theorem intakeWriteGranted : Obligations.IntakeWriteGranted := by
  refine ⟨⟨fun s p g free planned chosen => ?_, fun s => ⟨chooseRequester_eq_none, presented_intakeWrite_iff, ?_, Iff.rfl, Iff.rfl⟩,
    fun s g => chooseRequester_eq_some⟩, ⟨fun s p e rest staged => ⟨fun fits => ?_, fun full => ?_⟩, fun s p n l => lt_of_same_slot⟩,
    fun s p l asked => ?_, fun s p hand last copy fetching written copied => ?_, fun s p hand passing => ?_⟩
  · exact ⟨_, exec_arbiterGrant free planned chosen, ⟨_, rfl⟩, countOf_agedCounts⟩
  · exact Option.isSome_iff_exists
  · rw [grant_intakeWrite_fits staged fits]
    rfl
  · rw [grant_intakeWrite_full staged full]
    rfl
  · simp only [grant, grantConformanceRead, asked]
    rfl
  · simp only [grant, grantReferenceRead, fetching, written, copied, referenceAddress_eq]
    rfl
  · simp only [grant, grantReferenceWrite, passing, referenceAddress_eq, fillBuffer_base]
    rfl

/-! ## The completion of an intake write (R60, R61, R65) -/

theorem tableSet_eq {α : Type} (m : List (Nat × α)) (k : Nat) (v : α) : tableSet m k v = tableSetRun m k [v] := by
  simp only [tableSet, tableSetRun, runAt, List.length_singleton, Nat.add_one_le_iff, List.append_assoc, List.cons_append,
    List.nil_append]

theorem tableGet_set {α : Type} (m : List (Nat × α)) (j k : Nat) (v : α) :
    tableGet (tableSet m j v) k = if k = j then some v else tableGet m k := by
  rw [tableSet_eq]
  split
  · subst k
    exact tableGet_setRun_inside m j 0 [v] (Nat.zero_lt_one)
  · refine tableGet_setRun_outside m j k [v] ?_
    rw [List.length_singleton]
    omega

theorem readBytes_eq (f : FrameMemory) (bs : List Byte) (a : Nat) (held : ∀ i (h : i < bs.length), readByte f (a + i) = bs[i]) :
    readBytes f a bs.length = bs := by
  induction bs generalizing a with
  | nil => rfl
  | cons b bs ih =>
    have rest : readBytes f (a + 1) bs.length = bs := by
      refine ih (a + 1) fun i below => ?_
      rw [Nat.add_right_comm]
      exact held (i + 1) (Nat.succ_lt_succ below)
    rw [List.length_cons, readBytes, rest]
    exact congrArg (· :: bs) (held 0 (Nat.zero_lt_succ _))

/-- Stored pixels are read back (R60). -/
theorem readPixels_writeBytes (f : FrameMemory) (a : Nat) (px : List Pixel) :
    readPixels (writeBytes f a (px.flatMap pixelBytes)) a px.length = px := by
  rw [readPixels, ← pixelBytes_flatMap_length, readBytes_eq _ _ _ fun i below => readByte_writeBytes_inside f a i _ below]
  have := pixelsOf_pixelBytes px []
  rwa [List.append_nil] at this

/-- Two memories that hold the same bytes read the same pixels. -/
theorem readPixels_congr {f g : FrameMemory} (bytes : f.bytes = g.bytes) (epoch : f.epoch = g.epoch) (a n : Nat) :
    readPixels f a n = readPixels g a n := by
  have read (m a : Nat) : readBytes f a m = readBytes g a m := by
    induction m generalizing a with
    | zero => rfl
    | succ m ih => rw [readBytes, readBytes, ih, readByte, readByte, bytes, epoch]
  rw [readPixels, readPixels, read]

/-- R65: the staging buffer once the transfer of a line has ended. -/
theorem staging_freed (staging : List SourceLine) (line : Nat) :
    (match staging with
      | e :: rest => if e.number = line then rest else e :: rest
      | [] => []) = if staging.head?.map (·.number) = some line then staging.tail else staging := by
  cases staging with
  | nil => rfl
  | cons e rest =>
    simp only [List.head?_cons, Option.map_some, Option.some.injEq, List.tail_cons]

theorem reportChange_outsideLinePath (s : State) :
    (reportChange s).tracker = s.tracker ∧ outsideLinePath s (settleStall (reportChange s)) := by
  obtain ⟨pending, formats, -, tracker, -, -, repair, grading, reel, interpreter, -, delivery, -⟩ :=
    by simpa only [outsideConformance, Prod.mk.injEq] using reportChange_outside s
  refine ⟨tracker, ?_⟩
  rw [settleStall_changes]
  exact ⟨pending, formats, repair, grading, reel, interpreter, by rw [delivery]⟩

section
variable {s : State} {line slot address : Nat} {px : List Pixel}

/-- The state once an intake write has stored its bytes. -/
def stored (s : State) (address : Nat) (bytes : List Byte) : State :=
  { s with frameMemory := writeBytes { s.frameMemory with channel := none } address bytes }

theorem exec_intakeWriteComplete_stale (channel : s.frameMemory.channel = some (.intakeWrite line slot address px true))
    (inside : address + 8 * px.length ≤ s.frameMemory.size) :
    exec .intakeWriteComplete s = done (stored s address (px.flatMap pixelBytes)) := by
  change execIntakeWriteComplete s = _
  rw [execIntakeWriteComplete, channel]
  exact if_pos (decide_eq_true inside)

/-- The state in which the completion of an intake write reports its change: slot VALID, staging entry free. -/
def lineInRing (s : State) (line slot address : Nat) (px : List Pixel) : State :=
  let u := stored s address (px.flatMap pixelBytes)
  { u with
    intake :=
      { s.intake with
        staging := if s.intake.staging.head?.map (·.number) = some line then s.intake.staging.tail else s.intake.staging },
    frameMemory := { u.frameMemory with slots := tableSet s.frameMemory.slots slot line } }

theorem exec_intakeWriteComplete_fresh (channel : s.frameMemory.channel = some (.intakeWrite line slot address px false))
    (inside : address + 8 * px.length ≤ s.frameMemory.size) :
    exec .intakeWriteComplete s = done (reportChange (lineInRing s line slot address px)) := by
  change execIntakeWriteComplete s = _
  rw [execIntakeWriteComplete, channel]
  refine (if_pos (decide_eq_true inside)).trans ?_
  rw [lineInRing, ← staging_freed]
  rfl

/-- What an intake write stores, and nothing else (R60). -/
theorem stored_bytes (s : State) (address : Nat) (px : List Pixel) :
    (∀ a, a < address ∨ address + 8 * px.length ≤ a →
        readByte (stored s address (px.flatMap pixelBytes)).frameMemory a = readByte s.frameMemory a)
      ∧ readPixels (stored s address (px.flatMap pixelBytes)).frameMemory address px.length = px :=
  ⟨fun a outside => readByte_writeBytes_outside _ _ _ _ (by rwa [pixelBytes_flatMap_length]), readPixels_writeBytes _ _ _⟩

end

/-- R58, R59: a transfer past the strapped size. -/
theorem insideMemory_of_past {f : FrameMemory} {a n : Nat} (past : f.size < a + n) : insideMemory f a n ≠ true := by
  simpa [insideMemory] using past

/-- Settles O26. -/
theorem intakeWriteCompletes : Obligations.IntakeWriteCompletes := by
  refine ⟨fun s line slot address px stale channel inside => ?_, fun s x i address n channel which past => ?_⟩
  · obtain ⟨elsewhere, readBack⟩ := stored_bytes s address px
    cases stale with
    | true =>
      have runs := exec_intakeWriteComplete_stale channel inside
      rw [done, settleStall_changes] at runs
      refine ⟨_, stored s address (px.flatMap pixelBytes), runs, rfl, ?_, ?_, ?_, ?_, nofun, ?_, ?_⟩
      · rw [if_pos rfl, settleStall_changes]
      · exact elsewhere
      · exact readBack
      · exact fun _ => ⟨rfl, rfl⟩
      · rfl
      · exact ⟨rfl, rfl, rfl, rfl, rfl, rfl, rfl⟩
    | false =>
      set u := lineInRing s line slot address px with placed
      have memory : (settleStall (reportChange u)).frameMemory = u.frameMemory := by
        rw [settleStall_changes]
        exact reportChange_frameMemory u
      have intake : (settleStall (reportChange u)).intake = u.intake := by
        rw [settleStall_changes]
        exact reportChange_intake u
      obtain ⟨tracker, outside⟩ := reportChange_outsideLinePath u
      refine ⟨_, u, exec_intakeWriteComplete_fresh channel inside, ?_, rfl, ?_, ?_, nofun, fun _ => ⟨?_, ?_⟩, ?_, outside⟩
      · rw [memory, intake]
        rfl
      · rw [memory]
        exact elsewhere
      · rw [memory]
        exact (readPixels_congr (f := u.frameMemory) (g := (stored s address (px.flatMap pixelBytes)).frameMemory) rfl rfl _ _).trans readBack
      · rw [memory]
        exact fun k => tableGet_set s.frameMemory.slots slot k line
      · rw [intake]
        rfl
      · rw [settleStall_changes]
        exact tracker
  · have refused := insideMemory_of_past past
    rcases which with ⟨line, slot, px, stale, rfl, rfl, rfl⟩ | ⟨line, discard, rfl, rfl⟩ | ⟨discard, rfl, rfl⟩ |
      ⟨records, unreported, rfl, rfl, rfl⟩
    · change execIntakeWriteComplete s = _
      rw [execIntakeWriteComplete, channel]
      exact if_neg refused
    · change execConformanceReadComplete s = _
      rw [execConformanceReadComplete, channel]
      exact if_neg refused
    · change execReferenceReadComplete s = _
      rw [execReferenceReadComplete, channel]
      exact if_neg refused
    · change execReferenceWriteComplete s = _
      rw [execReferenceWriteComplete, channel]
      exact if_neg refused

end Sys2Proof.Machine
end

section
/-! O16, O18, O19: lines in order, out of order, and past the drain target. -/

namespace Sys2Proof.Machine

/-! ## The Tracker raises no INTAKE_ERROR -/

/-- The latch of the intake's class. -/
def errorNotice (s : State) : NoticeState := s.notices.intakeError

section
variable (s : State)

theorem errorNotice_of_outside {s t : State} (same : outsideConformance s = outsideConformance t) : errorNotice s = errorNotice t := by
  simp only [outsideConformance, Prod.mk.injEq] at same
  exact congrArg NoticeUnit.intakeError same.2.2.2.2.2.2.2.2.2.2.1

@[simp] theorem errorNotice_setTracker (t : Tracker) : errorNotice (setTracker t s) = errorNotice s := rfl

@[simp] theorem errorNotice_countTracker (g : TrackerCounters → TrackerCounters) : errorNotice (countTracker g s) = errorNotice s := rfl

@[simp] theorem errorNotice_setMode (m : TrackerMode) : errorNotice (setMode m s) = errorNotice s := rfl

@[simp] theorem errorNotice_loseFrames (n : Nat) : errorNotice (loseFrames n s) = errorNotice s := by
  unfold loseFrames
  split <;> rfl

@[simp] theorem errorNotice_raiseClamp (b : Bool) : errorNotice (raiseIf b .clamp s) = errorNotice s := by
  cases b <;> rfl

@[simp] theorem errorNotice_takeIfIdle : errorNotice (takeIfIdle s) = errorNotice s := errorNotice_of_outside (takeIfIdle_outside s)

@[simp] theorem errorNotice_cutFrame (m : CutState) (n : Nat) : errorNotice (cutFrame m n s) = errorNotice s := by
  unfold cutFrame
  split
  · rfl
  · dsimp only
    split
    · simp only [errorNotice_takeIfIdle, errorNotice_raiseClamp]
      rfl
    · simp only [errorNotice_loseFrames, errorNotice_setTracker]

@[simp] theorem errorNotice_moveState (r : Resolution) : errorNotice (moveState r s) = errorNotice s := by
  unfold moveState
  dsimp only
  split
  · rfl
  · split
    · split <;> rfl
    · rfl

@[simp] theorem errorNotice_rephase (f : TrackingFields) (p : Nat) : errorNotice (rephase f p s) = errorNotice s := by
  unfold rephase
  split
  · simp only [errorNotice_loseFrames, errorNotice_setTracker]
  · rfl

@[simp] theorem errorNotice_moveCountdown (f : TrackingFields) (p : Nat) (st : PerfStatus) (y : Tally) :
    errorNotice (moveCountdown f p st y s) = errorNotice s := by
  unfold moveCountdown
  dsimp only
  split
  · rfl
  · split
    · simp only [errorNotice_rephase, errorNotice_setTracker]
    · rfl

@[simp] theorem errorNotice_updateSpan (f : TrackingFields) (st : PerfStatus) : errorNotice (updateSpan f st s) = errorNotice s := by
  unfold updateSpan
  split
  · split <;> rfl
  · rfl

@[simp] theorem errorNotice_finishResolution (f : TrackingFields) (p : Nat) (st : PerfStatus) (y : Tally) :
    errorNotice (finishResolution f p st y s) = errorNotice s := by
  simp only [finishResolution, setWindow, errorNotice_setTracker, errorNotice_updateSpan, errorNotice_moveCountdown,
    errorNotice_cutFrame]

@[simp] theorem errorNotice_resolve (f : TrackingFields) (p : Nat) (r : Resolution) : errorNotice (resolve f p r s) = errorNotice s := by
  simp only [resolve, countResolution, errorNotice_finishResolution, errorNotice_setTracker, errorNotice_moveState,
    errorNotice_countTracker]

@[simp] theorem errorNotice_acquireLock (f : TrackingFields) (a b c : Candidate) :
    errorNotice (acquireLock f a b c s) = errorNotice s := by
  simp only [acquireLock, resolveCandidate, countResolution, errorNotice_finishResolution, errorNotice_countTracker,
    errorNotice_setMode, errorNotice_setTracker]

@[simp] theorem errorNotice_addCandidate (f : TrackingFields) (p : Nat) : errorNotice (addCandidate f p s) = errorNotice s := by
  unfold addCandidate
  dsimp only
  split
  · split
    · simp only [errorNotice_acquireLock, errorNotice_setTracker]
    · rfl
  · rfl

@[simp] theorem errorNotice_loseLock (b : Bool) : errorNotice (loseLock b s) = errorNotice s := by
  have raised (u : State) : errorNotice (raise .lockLost u) = errorNotice u := rfl
  simp only [loseLock, raised, errorNotice_countTracker, errorNotice_setMode, errorNotice_setTracker, errorNotice_cutFrame]

@[simp] theorem errorNotice_takeEdge (f : TrackingFields) (e : Nat) : errorNotice (takeEdge f e s) = errorNotice s := by
  unfold takeEdge
  split
  · exact errorNotice_addCandidate s f e
  · rfl
  · split
    · unfold windowEdge
      split
      · rfl
      · split
        · exact errorNotice_resolve s f e _
        · rfl
    · rfl

@[simp] theorem errorNotice_closeWindow (f : TrackingFields) (p : Nat) : errorNotice (closeWindow f p s) = errorNotice s := by
  unfold closeWindow
  split
  · split
    · split
      · exact errorNotice_resolve s f _ _
      · exact errorNotice_loseLock s false
    · rfl
  · rfl

@[simp] theorem errorNotice_examineSample (f : TrackingFields) (v : Option Bool) (p : Nat) :
    errorNotice (examineSample f v p s) = errorNotice s := by
  unfold examineSample
  split
  · simp only [errorNotice_closeWindow, errorNotice_setTracker]
  · dsimp only
    rw [errorNotice_closeWindow]
    split
    · split
      · simp only [errorNotice_takeEdge, errorNotice_setTracker]
      · rfl
    · rfl

@[simp] theorem errorNotice_examineFrom (f : TrackingFields) (l : Nat) (v : Option Half) (p n : Nat) :
    errorNotice (examineFrom f l v p n s) = errorNotice s := by
  induction n generalizing p s with
  | zero => rfl
  | succ n ih => rw [examineFrom, ih, errorNotice_examineSample]

@[simp] theorem errorNotice_trackLine (r : LineRecord) : errorNotice (trackLine r s) = errorNotice s := by
  have acted : errorNotice (if r.atBreak = true then actOnBreak s else s) = errorNotice s := by
    split
    · unfold actOnBreak
      split
      · rfl
      · rfl
      · exact errorNotice_loseLock s true
    · rfl
  have counted (u : State) : errorNotice (countUnframed r u) = errorNotice u := by
    unfold countUnframed
    split <;> rfl
  unfold trackLine
  split
  · rfl
  · rfl
  · simp only [errorNotice_examineFrom, errorNotice_setTracker, counted, acted]

@[simp] theorem errorNotice_reportChange : errorNotice (reportChange s) = errorNotice s := errorNotice_of_outside (reportChange_outside s)

end

/-! ## What the line path leaves (R5, R18, R81) -/

/-- Everything beside the line path. -/
def besideLines (s : State) := (s.pending, s.formats, s.repair, s.grading, s.reel, s.interpreter, s.delivery)

theorem besideLines_of_tracking {s t : State} (same : outsideTracking s = outsideTracking t) : besideLines s = besideLines t := by
  simp only [outsideTracking, besideLines, Prod.mk.injEq] at same ⊢
  obtain ⟨pending, formats, -, -, repair, grading, reel, interpreter, delivery⟩ := same
  exact ⟨pending, formats, repair, grading, reel, interpreter, delivery⟩

@[simp] theorem besideLines_trackLine (r : LineRecord) (s : State) : besideLines (trackLine r s) = besideLines s :=
  besideLines_of_tracking (trackLine_outside r s)

@[simp] theorem besideLines_reportChange (s : State) : besideLines (reportChange s) = besideLines s :=
  besideLines_of_tracking (reportChange_tracking s)

theorem outsideLinePath_settled {s t : State} (same : besideLines t = besideLines s) : outsideLinePath s (settleStall t) := by
  simp only [besideLines, Prod.mk.injEq] at same
  obtain ⟨pending, formats, repair, grading, reel, interpreter, delivery⟩ := same
  rw [settleStall_changes]
  exact ⟨pending, formats, repair, grading, reel, interpreter, by rw [delivery]⟩

/-- The blocks that hold lines. -/
def lineBlocks (s : State) := (s.intake, s.frameMemory)

/-- A record handed on and reported changes no block that holds lines. -/
@[simp] theorem lineBlocks_handedOn (r : LineRecord) (s : State) : lineBlocks (reportChange (trackLine r s)) = lineBlocks s := by
  rw [lineBlocks, reportChange_intake, reportChange_frameMemory, trackLine_intake, trackLine_frameMemory]
  rfl

/-! ## The drain target (R10) -/

theorem pastTarget_iff (i : Intake) :
    pastTarget i = true ↔ i.mode = .draining ∧ ∃ t, i.drainTarget = some t ∧ t < i.writeLine := by
  unfold pastTarget
  split
  · rename_i t draining target
    simp [draining, target]
  · rename_i other
    exact ⟨nofun, fun ⟨draining, t, target, _⟩ => absurd target (other t draining)⟩

/-- The intake with the write line moved on by `n` numbers. -/
def movedOn (n : Nat) (i : Intake) : Intake := { i with writeLine := i.writeLine + n }

theorem pastTarget_of_numbersLeft {i j : Intake} {n k : Nat} (left : numbersLeft i n) (few : k ≤ n) (mode : j.mode = i.mode)
    (target : j.drainTarget = i.drainTarget) (line : j.writeLine = i.writeLine + k) : pastTarget j = false := by
  rw [Bool.eq_false_iff, ne_eq, pastTarget_iff, mode, target, line]
  rintro ⟨draining, t, target, past⟩
  rcases left with taking | ⟨-, within⟩
  · rw [taking] at draining
    nomatch draining
  · have := within t target
    omega

theorem open_of_numbersLeft {i : Intake} {n : Nat} (left : numbersLeft i n) : i.mode ≠ .closed := by
  rcases left with taking | ⟨draining, -⟩ <;> simp [*]

/-! ## A LINE packet (R5, R6) -/

/-- What a built LINE packet carries. -/
def lineCarried (sequence perf : Half) (edge : Int) (px : List Pixel) : LinePayload :=
  { sequence := sequence, perf := perf, edge := (BitVec.ofInt 32 edge).toInt, pixels := px }

section
variable {s : State}

theorem receiveLine_good {payload : List Byte} {l : LinePayload} (opened : s.intake.mode ≠ .closed)
    (read : linePayloadOf payload = some l) : receiveLine (some payload) s = goodLine l (restartSilence s) := by
  unfold receiveLine
  split
  · exact absurd ‹_› opened
  · simp only [Option.bind_some, read]

theorem receiveLine_failed {p : Option (List Byte)} (opened : s.intake.mode ≠ .closed) (failed : p.bind linePayloadOf = none) :
    receiveLine p s = failedLine (restartSilence s) := by
  unfold receiveLine
  split
  · exact absurd ‹_› opened
  · simp only [failed]

theorem exec_lineRun (sequence perf : Half) (edge : Int) {px : List Pixel} (opened : s.intake.mode ≠ .closed)
    (short : px.length ≤ 8190) :
    exec (.linePacket (lineRun sequence perf edge px)) s =
      .next (settleStall (goodLine (lineCarried sequence perf edge px) (restartSilence s))) := by
  have length : (halfBytes sequence ++ halfBytes perf ++ wordBytes (BitVec.ofInt 32 edge) ++ px.flatMap pixelBytes).length
      < 65536 := by
    rw [List.length_append, pixelBytes_flatMap_length]
    simp only [List.length_append, halfBytes_length, wordBytes_length]
    omega
  rw [lineRun, exec_linePacket_eq s (arrivalOf_line _ length), receiveLine_good opened (linePayloadOf_lineRun _ _ _ _)]
  rfl

/-- Past the target every packet but a duplicate ends the drain. -/
theorem goodLine_past {l : LinePayload} (past : pastTarget s.intake = true)
    (other : ∀ e, s.intake.expected = some e → (l.sequence - e).toNat ≠ 65535) : goodLine l s = endDrain s := by
  have ends (b : Bool) : takeNumber l b s = endDrain s := if_pos past
  unfold goodLine
  split
  · exact ends false
  · rename_i e expected
    dsimp only
    split
    · exact ends false
    · split
      · rw [startGap, if_pos past]
        generalize (l.sequence - e).toNat = n
        cases n with
        | zero => exact ends false
        | succ n => exact if_pos past
      · rw [if_neg (other e expected), startBreak, if_pos past]
        exact ends true

end

/-- Settles O19. -/
theorem drainEndsAtTarget : Obligations.DrainEndsAtTarget := by
  intro s target run payload l draining at_ past which
  have opened : s.intake.mode ≠ .closed := by simp [draining]
  have past : pastTarget (restartSilence s).intake = true := (pastTarget_iff _).mpr ⟨draining, target, at_, past⟩
  have fails (p : Option (List Byte)) (arrives : arrivalOf run = .line p) (failed : p.bind linePayloadOf = none) :
      exec (.linePacket run) s = .next (settleStall (endDrain (restartSilence s))) := by
    rw [exec_linePacket_eq s arrives, receiveLine_failed opened failed, failedLine, if_pos past]
  rcases which with arrives | ⟨arrives, short⟩ | ⟨arrives, read, other⟩
  · exact fails _ arrives rfl
  · exact fails _ arrives (if_pos short)
  · rw [exec_linePacket_eq s arrives, receiveLine_good opened read, goodLine_past past other]
    rfl

/-! ## A packet that takes a number (R6, R8, R9, R65, R66) -/

theorem fitWidth_eq {px : List Pixel} {last : Pixel} (w : Nat) (ends : px.getLast? = some last) :
    fitWidth w px = if px.length < w then px ++ List.replicate (w - px.length) last else px.take w := by
  have lastD : px.getLastD zeroPixel = last := by rw [List.getLastD_eq_getLast?, ends]; rfl
  rw [fitWidth, lastD]
  split
  · rw [List.take_of_length_le (by omega)]
  · rw [Nat.sub_eq_zero_of_le (by omega)]
    exact List.append_nil _

theorem countWidth_eq (w n : Nat) (k : IntakeCounters) :
    countWidth w n k =
      { k with
        paddedLines := if n < w then satAdd k.paddedLines 1 else k.paddedLines,
        truncatedLines := if w < n then satAdd k.truncatedLines 1 else k.truncatedLines } := by
  unfold countWidth
  split
  · rw [if_neg (by omega)]
  · split <;> rfl

/-- A good packet's number taken, its record handed on. -/
theorem consumePacket_eq {s : State} {p : MemoryPlan} (sequence perf : Half) (edge : Int) (px : List Pixel) (b : Bool)
    (planned : s.frameMemory.plan = some p) (bound : s.intake.staging.length ≤ 4)
    (taken : s.intake.staging.length = 4 → s.intake.counters.linesTaken < counterMax) :
    consumePacket (lineCarried sequence perf edge px) b (expectAfter sequence (restartSilence s)) =
      reportChange (trackLine (packetRecord perf edge px b s) (packetTaken p sequence px s)) := by
  cases ends : px.getLast? with
  | none =>
    obtain rfl := List.getLast?_eq_none_iff.mp ends
    rfl
  | some last =>
    have some_pixel : px ≠ [] := by rintro rfl; nomatch ends
    have width : intakeWidth (expectAfter sequence (restartSilence s)) px.length = p.wIn := by
      rw [intakeWidth, expectAfter, restartSilence, setIntake_frameMemory, setIntake_frameMemory, planned]
    have record : packetRecord perf edge px b s =
        ⟨s.intake.writeLine, some ((BitVec.ofInt 32 edge).toInt, perf), b⟩ := by rw [packetRecord, if_neg some_pixel]
    rw [consumePacket, lineCarried, if_neg some_pixel, consumeReceived, width, record]
    refine congrArg (fun u => reportChange (trackLine _ u)) ?_
    rw [packetTaken, ends, fitWidth_eq p.wIn ends]
    simp only [countWidth_eq]
    by_cases room : s.intake.staging.length < 4
    · simp only [if_pos room]
      exact if_pos room
    · have four : s.intake.staging.length = 4 := by omega
      have kept : satAdd s.intake.counters.linesTaken 1 - 1 = s.intake.counters.linesTaken := by
        rw [satAdd_one_of_le (le_refl _) (taken four), Nat.add_sub_cancel]
      have newest : s.intake.staging.dropLast = s.intake.staging.take 3 := by rw [List.dropLast_eq_take, four]
      simp only [if_neg room, ← newest]
      refine (if_neg room).trans ?_
      rw [← kept]
      rfl

theorem takeNumber_open {s : State} {l : LinePayload} {b : Bool} (standing : pastTarget s.intake = false) :
    takeNumber l b s = consumePacket l b (expectAfter l.sequence s) := by
  rw [takeNumber, standing]
  rfl

/-- Settles O16. -/
theorem lineInOrder : Obligations.LineInOrder := by
  intro s p sequence perf edge px left planned short expected bound counted taken
  have inOrder : goodLine (lineCarried sequence perf edge px) (restartSilence s) =
      takeNumber (lineCarried sequence perf edge px) false (restartSilence s) := by
    rcases expected with first | next
    · simp only [goodLine, restartSilence, setIntake_intake, first]
    · simp only [goodLine, restartSilence, setIntake_intake, next, lineCarried, sub_self]
      rfl
  have runs := exec_lineRun (s := s) sequence perf edge (open_of_numbersLeft left) short
  rw [inOrder, takeNumber_open (s := restartSilence s) (pastTarget_of_numbersLeft left (le_refl 0) rfl rfl rfl)] at runs
  rw [show (lineCarried sequence perf edge px).sequence = sequence from rfl,
    consumePacket_eq sequence perf edge px false planned bound counted] at runs
  have blocks := lineBlocks_handedOn (packetRecord perf edge px false s) taken
  simp only [lineBlocks, Prod.mk.injEq] at blocks
  refine ⟨_, runs, rfl, ?_, ?_, ?_⟩
  · rw [settleStall_changes]
    exact blocks.1
  · rw [settleStall_changes]
    exact blocks.2
  · refine outsideLinePath_settled ?_
    rw [besideLines_reportChange, besideLines_trackLine]
    simp only [packetTaken]
    split <;> rfl

/-! ## Gaps, breaks and duplicates (R6, R7, R10) -/

/-- The intake once `n` missing lines have taken their numbers. -/
def missingCounted (n : Nat) (i : Intake) : Intake :=
  { i with
    writeLine := i.writeLine + n, counters := { i.counters with missingLines := satAdd i.counters.missingLines n } }

theorem satAdd_satAdd (c n m : Nat) : satAdd (satAdd c n) m = satAdd c (n + m) := by
  unfold satAdd
  omega

theorem satAdd_zero {c : Nat} (le : c ≤ counterMax) : satAdd c 0 = c := Nat.min_eq_left le

/-- What `n ≥ 1` missing lines leave of the intake. -/
theorem missingTaken_iterate_intake {n : Nat} (some_line : 1 ≤ n) (s : State) :
    (missingTaken^[n] s).intake = missingCounted n s.intake := by
  have one (s : State) : (missingTaken s).intake = missingCounted 1 s.intake := by
    rw [missingTaken, reportChange_intake, trackLine_intake]
    rfl
  induction n, some_line using Nat.le_induction with
  | base => exact one s
  | succ n _ ih =>
    rw [Function.iterate_succ_apply', one, ih]
    simp only [missingCounted, satAdd_satAdd, Nat.add_assoc]

theorem missingTaken_iterate_line (n : Nat) (s : State) :
    (missingTaken^[n] s).intake.mode = s.intake.mode ∧ (missingTaken^[n] s).intake.drainTarget = s.intake.drainTarget
      ∧ (missingTaken^[n] s).intake.writeLine = s.intake.writeLine + n := by
  cases n with
  | zero => exact ⟨rfl, rfl, rfl⟩
  | succ n =>
    rw [missingTaken_iterate_intake (Nat.succ_pos n)]
    exact ⟨rfl, rfl, rfl⟩

/-- Missing lines change the tracking path alone beside the intake. -/
theorem missingTaken_iterate_beside (n : Nat) (s : State) :
    besideLines (missingTaken^[n] s) = besideLines s ∧ (missingTaken^[n] s).frameMemory = s.frameMemory
      ∧ errorNotice (missingTaken^[n] s) = errorNotice s := by
  induction n with
  | zero => exact ⟨rfl, rfl, rfl⟩
  | succ n ih =>
    obtain ⟨beside, memory, error⟩ := ih
    rw [Function.iterate_succ_apply', missingTaken]
    refine ⟨?_, ?_, ?_⟩
    · rw [besideLines_reportChange, besideLines_trackLine, ← beside]
      rfl
    · rw [reportChange_frameMemory, trackLine_frameMemory, ← memory]
    · rw [errorNotice_reportChange, errorNotice_trackLine, ← error]
      rfl

section
variable {s : State} {l : LinePayload}

theorem consumeGap_succ (n : Nat) (standing : pastTarget s.intake = false) : consumeGap l (n + 1) s = consumeGap l n (missingTaken s) := by
  rw [consumeGap, standing]
  rfl

/-- The members of a gap all take their numbers. -/
theorem consumeGap_through (n m : Nat) (standing : ∀ i < n, pastTarget (missingTaken^[i] s).intake = false) :
    consumeGap l (n + m) s = consumeGap l m (missingTaken^[n] s) := by
  induction n generalizing s with
  | zero => rw [Nat.zero_add, Function.iterate_zero_apply]
  | succ n ih =>
    rw [Nat.add_right_comm, consumeGap_succ (s := s) _ (standing 0 (Nat.zero_lt_succ _)), Function.iterate_succ_apply]
    exact ih fun i below => standing (i + 1) (Nat.succ_lt_succ below)

theorem consumeGap_past (n : Nat) (past : pastTarget s.intake = true) : consumeGap l n s = endDrain s := by
  cases n with
  | zero => exact if_pos past
  | succ n => exact if_pos past

/-- What taking a number leaves in the blocks that hold lines rests on those blocks alone. -/
theorem lineBlocks_consumePacket {t : State} {b : Bool} (same : lineBlocks s = lineBlocks t) :
    lineBlocks (consumePacket l b s) = lineBlocks (consumePacket l b t) := by
  simp only [lineBlocks, Prod.mk.injEq] at same
  obtain ⟨intake, memory⟩ := same
  unfold consumePacket
  split
  · rw [consumeMissing, consumeMissing, lineBlocks_handedOn, lineBlocks_handedOn]
    simp only [lineBlocks, countIntake, setIntake_intake, setIntake_frameMemory, intake, memory]
  · rw [consumeReceived, consumeReceived, lineBlocks_handedOn, lineBlocks_handedOn]
    simp only [lineBlocks, stageLine, countIntake, intakeWidth, setIntake_intake, setIntake_frameMemory, intake, memory]
    by_cases room : t.intake.staging.length < 4
    · simp only [room, ↓reduceIte]
    · simp only [room, ↓reduceIte]

theorem lineBlocks_consumePacket_mark {t : State} {b d : Bool} (same : lineBlocks s = lineBlocks t) :
    lineBlocks (consumePacket l b t) = lineBlocks (consumePacket l d s) := by
  rw [lineBlocks_consumePacket same]
  unfold consumePacket
  split
  · rw [consumeMissing, consumeMissing, lineBlocks_handedOn, lineBlocks_handedOn]
  · rw [consumeReceived, consumeReceived, lineBlocks_handedOn, lineBlocks_handedOn]

theorem besideLines_consumePacket {b : Bool} :
    besideLines (consumePacket l b s) = besideLines s ∧ errorNotice (consumePacket l b s) = errorNotice s := by
  unfold consumePacket
  split
  · rw [consumeMissing, besideLines_reportChange, besideLines_trackLine, errorNotice_reportChange, errorNotice_trackLine]
    exact ⟨rfl, rfl⟩
  · rw [consumeReceived, besideLines_reportChange, besideLines_trackLine, errorNotice_reportChange, errorNotice_trackLine, stageLine]
    split <;> exact ⟨rfl, rfl⟩

theorem goodLine_gap {e : Half} (expected : s.intake.expected = some e) (some_gap : 1 ≤ (l.sequence - e).toNat)
    (short : (l.sequence - e).toNat ≤ 4095) : goodLine l s = consumeGap l (l.sequence - e).toNat (startGap s) := by
  rw [goodLine, expected]
  dsimp only
  rw [if_neg (by omega), if_pos short]

theorem goodLine_break {e : Half} (expected : s.intake.expected = some e) (long : 4096 ≤ (l.sequence - e).toNat)
    (other : (l.sequence - e).toNat ≤ 65534) : goodLine l s = takeNumber l true (startBreak s) := by
  rw [goodLine, expected]
  dsimp only
  rw [if_neg (by omega), if_neg (by omega), if_neg (by omega)]

theorem goodLine_duplicate {e : Half} (expected : s.intake.expected = some e) (duplicate : (l.sequence - e).toNat = 65535) :
    goodLine l s = countIntake (fun c => { c with duplicates := satAdd c.duplicates 1 }) s := by
  rw [goodLine, expected]
  dsimp only
  rw [if_neg (by omega), if_neg (by omega), if_pos duplicate]

theorem goodLine_inOrder (expected : s.intake.expected = some l.sequence) : goodLine l s = takeNumber l false s := by
  simp only [goodLine, expected, sub_self]
  rfl

theorem startGap_open (standing : pastTarget s.intake = false) :
    startGap s = raise .intakeError (countIntake (fun c => { c with gaps := satAdd c.gaps 1 }) s) := by
  rw [startGap, standing]
  rfl

theorem startBreak_open (standing : pastTarget s.intake = false) :
    startBreak s = raise .intakeError (countIntake (fun c => { c with sequenceBreaks := satAdd c.sequenceBreaks 1 }) s) := by
  rw [startBreak, standing]
  rfl

end

/-! ### What the whole packet leaves -/

/-- A gap counted, with its occurrence, its members not yet assigned. -/
def gapBegun (s : State) : State :=
  raise .intakeError
    { s with
      intake :=
        { s.intake with
          silence := s.intake.silence.map (fun _ => 0),
          counters := { s.intake.counters with gaps := satAdd s.intake.counters.gaps 1 } } }

/-- A sequence break counted, with its occurrence, its packet's number not yet assigned. -/
def breakBegun (s : State) : State :=
  raise .intakeError
    { s with
      intake :=
        { s.intake with
          counters := { s.intake.counters with sequenceBreaks := satAdd s.intake.counters.sequenceBreaks 1 } } }

/-- A failed line counted, with its occurrence, its record not yet handed on. -/
def lineFailed (s : State) : State :=
  raise .intakeError
    { s with
      intake :=
        { s.intake with
          expected := s.intake.expected.map (· + 1#16), writeLine := s.intake.writeLine + 1,
          silence := s.intake.silence.map (fun _ => 0),
          counters :=
            { s.intake.counters with
              lineCrcFailures := satAdd s.intake.counters.lineCrcFailures 1,
              missingLines := satAdd s.intake.counters.missingLines 1 } } }

/-- The state with another expected sequence number. -/
def expecting (sequence : Half) (s : State) : State := { s with intake := { s.intake with expected := some sequence } }

/-- The state in which the end of a gap of `n` finds its members assigned. -/
theorem exec_gap {s : State} {e sequence : Half} (perf : Half) (edge : Int) {px : List Pixel}
    (expected : s.intake.expected = some e) (short : px.length ≤ 8190) (opened : s.intake.mode ≠ .closed)
    (some_gap : 1 ≤ (sequence - e).toNat) (few : (sequence - e).toNat ≤ 4095) (standing : pastTarget s.intake = false) :
    exec (.linePacket (lineRun sequence perf edge px)) s =
      .next (settleStall (consumeGap (lineCarried sequence perf edge px) (sequence - e).toNat (gapBegun s))) := by
  rw [exec_lineRun (s := s) sequence perf edge opened short,
    goodLine_gap (s := restartSilence s) (l := lineCarried sequence perf edge px) expected some_gap few,
    startGap_open (s := restartSilence s) standing]
  rfl

/-- A packet that carries the expected number takes the next one. -/
theorem exec_inOrder {s : State} {sequence : Half} (perf : Half) (edge : Int) {px : List Pixel}
    (expected : s.intake.expected = some sequence) (short : px.length ≤ 8190) (opened : s.intake.mode ≠ .closed)
    (standing : pastTarget s.intake = false) :
    exec (.linePacket (lineRun sequence perf edge px)) s =
      .next (settleStall (consumePacket (lineCarried sequence perf edge px) false (expectAfter sequence (restartSilence s)))) := by
  rw [exec_lineRun (s := s) sequence perf edge opened short,
    goodLine_inOrder (s := restartSilence s) (l := lineCarried sequence perf edge px) expected,
    takeNumber_open (s := restartSilence s) standing]
  rfl

/-- A sequence break's own packet takes the next number, with the break mark. -/
theorem exec_break {s : State} {e sequence : Half} (perf : Half) (edge : Int) {px : List Pixel}
    (expected : s.intake.expected = some e) (short : px.length ≤ 8190) (opened : s.intake.mode ≠ .closed)
    (long : 4096 ≤ (sequence - e).toNat) (other : (sequence - e).toNat ≤ 65534) (standing : pastTarget s.intake = false) :
    exec (.linePacket (lineRun sequence perf edge px)) s =
      .next (settleStall (consumePacket (lineCarried sequence perf edge px) true (expectAfter sequence (restartSilence (breakBegun s))))) := by
  rw [exec_lineRun (s := s) sequence perf edge opened short,
    goodLine_break (s := restartSilence s) (l := lineCarried sequence perf edge px) expected long other,
    startBreak_open (s := restartSilence s) standing, takeNumber_open (l := lineCarried sequence perf edge px)]
  · rfl
  · exact standing

/-- What a settled state shares with the state before. -/
theorem settled_line {s t u : State} (blocks : lineBlocks t = lineBlocks u) (beside : besideLines t = besideLines s)
    (error : errorNotice t = occur (errorNotice s)) :
    (settleStall t).intake = (settleStall u).intake ∧ (settleStall t).frameMemory = (settleStall u).frameMemory
      ∧ noticeOf (settleStall t).notices .intakeError = occur (noticeOf s.notices .intakeError) ∧ outsideLinePath s (settleStall t) := by
  have path := outsideLinePath_settled beside
  rw [settleStall_changes] at path ⊢
  rw [settleStall_changes u]
  simp only [lineBlocks, Prod.mk.injEq] at blocks
  exact ⟨blocks.1, blocks.2, error, path⟩

/-- The members of a gap all find their numbers. -/
theorem standing_of_numbersLeft {s u : State} {n : Nat} (left : numbersLeft s.intake n) (mode : u.intake.mode = s.intake.mode)
    (target : u.intake.drainTarget = s.intake.drainTarget) (line : u.intake.writeLine = s.intake.writeLine) (i : Nat) (few : i ≤ n) :
    pastTarget (missingTaken^[i] u).intake = false := by
  obtain ⟨mode', target', line'⟩ := missingTaken_iterate_line i u
  exact pastTarget_of_numbersLeft left few (mode'.trans mode) (target'.trans target) (line'.trans (by rw [line]))

section
variable {s : State} {e sequence : Half}

/-- R6, R7: the end of a gap of 1 to 4095. -/
theorem gap_ends (perf : Half) (edge : Int) {px : List Pixel} (expected : s.intake.expected = some e) (short : px.length ≤ 8190)
    (some_gap : 1 ≤ (sequence - e).toNat) (few : (sequence - e).toNat ≤ 4095) (left : numbersLeft s.intake (sequence - e).toNat) :
    let n := (sequence - e).toNat
    let line := Instr.linePacket (lineRun sequence perf edge px)
    let members := missingTaken^[n] (gapBegun s)
    ∃ t u, exec line s = .next t
      ∧ exec line (expecting sequence members) = .next t
      ∧ exec line
          { s with
            intake :=
              { s.intake with
                expected := some sequence, writeLine := s.intake.writeLine + n,
                counters :=
                  { s.intake.counters with
                    gaps := satAdd s.intake.counters.gaps 1, missingLines := satAdd s.intake.counters.missingLines n } } } =
          .next u
      ∧ t.intake = u.intake ∧ t.frameMemory = u.frameMemory
      ∧ noticeOf t.notices .intakeError = occur (noticeOf s.notices .intakeError) ∧ outsideLinePath s t := by
  intro n line members
  have opened := open_of_numbersLeft left
  have own : pastTarget s.intake = false := pastTarget_of_numbersLeft left (Nat.zero_le _) rfl rfl rfl
  have runs := exec_gap perf edge expected short opened some_gap few own
  have each := standing_of_numbersLeft (u := gapBegun s) left rfl rfl rfl
  obtain ⟨beside, memory, error⟩ := missingTaken_iterate_beside n (gapBegun s)
  have intake : members.intake = missingCounted n
      { s.intake with
        silence := s.intake.silence.map (fun _ => 0),
        counters := { s.intake.counters with gaps := satAdd s.intake.counters.gaps 1 } } :=
    missingTaken_iterate_intake some_gap _
  have last : pastTarget members.intake = false := each n (le_refl n)
  rw [← Nat.add_zero (sequence - e).toNat, consumeGap_through _ 0 fun i below => each i below.le, consumeGap, takeNumber_open last] at runs
  have silenced : members.intake.silence.map (fun _ => 0) = members.intake.silence := by
    rw [intake]
    simp only [missingCounted]
    cases s.intake.silence <;> rfl
  have again : expectAfter sequence (restartSilence (expecting sequence members)) =
      expectAfter sequence members := by
    refine congrArg (fun i => { members with intake := i }) ?_
    simp only [restartSilence, expecting, setIntake_intake, silenced]
  refine ⟨_, _, runs, ?_, exec_inOrder perf edge rfl short opened ?_, settled_line ?_ ?_ ?_⟩
  · have mode : (expecting sequence members).intake.mode = s.intake.mode :=
      (congrArg Intake.mode intake).trans rfl
    have runs := exec_inOrder (s := expecting sequence members) perf edge rfl short (by rwa [mode]) last
    rwa [again] at runs
  · exact pastTarget_of_numbersLeft left (le_refl n) rfl rfl rfl
  · refine lineBlocks_consumePacket (Prod.ext ?_ memory)
    simp only [lineBlocks, expectAfter, restartSilence, setIntake_intake]
    exact congrArg (fun i : Intake => { i with expected := some (sequence + 1#16) }) intake
  · exact besideLines_consumePacket.1.trans beside
  · exact besideLines_consumePacket.2.trans error

/-- R6, R7: a sequence break. -/
theorem break_taken (perf : Half) (edge : Int) {px : List Pixel} (expected : s.intake.expected = some e) (short : px.length ≤ 8190)
    (long : 4096 ≤ (sequence - e).toNat) (other : (sequence - e).toNat ≤ 65534) (left : numbersLeft s.intake 0) :
    let line := Instr.linePacket (lineRun sequence perf edge px)
    ∃ t u, exec line s = .next t
      ∧ exec line
          { s with
            intake :=
              { s.intake with
                expected := some sequence,
                counters := { s.intake.counters with sequenceBreaks := satAdd s.intake.counters.sequenceBreaks 1 } } } =
          .next u
      ∧ t.intake = u.intake ∧ t.frameMemory = u.frameMemory
      ∧ noticeOf t.notices .intakeError = occur (noticeOf s.notices .intakeError) ∧ outsideLinePath s t
      ∧ ∀ p, s.frameMemory.plan = some p → s.intake.staging.length ≤ 4 →
          (s.intake.staging.length = 4 → s.intake.counters.linesTaken < counterMax) →
          t = settleStall (reportChange (trackLine (packetRecord perf edge px true s) (packetTaken p sequence px (breakBegun s)))) := by
  intro line
  have opened := open_of_numbersLeft left
  have own : pastTarget s.intake = false := pastTarget_of_numbersLeft left (Nat.zero_le _) rfl rfl rfl
  have handed (b : Bool) (u : State) (same : lineBlocks u = lineBlocks (expectAfter sequence (restartSilence (breakBegun s)))) :
      lineBlocks (consumePacket (lineCarried sequence perf edge px) true (expectAfter sequence (restartSilence (breakBegun s)))) =
        lineBlocks (consumePacket (lineCarried sequence perf edge px) b u) :=
    lineBlocks_consumePacket_mark same
  set v : State := { s with
    intake :=
      { s.intake with
        expected := some sequence,
        counters := { s.intake.counters with sequenceBreaks := satAdd s.intake.counters.sequenceBreaks 1 } } }
  obtain ⟨intake, memory, error, path⟩ := settled_line (s := s) (handed false (expectAfter sequence (restartSilence v)) rfl)
    besideLines_consumePacket.1 besideLines_consumePacket.2
  refine ⟨_, _, exec_break perf edge expected short opened long other own, exec_inOrder (s := v) perf edge rfl short opened own, intake, memory,
    error, path, fun p planned bound counted => ?_⟩
  rw [consumePacket_eq (s := breakBegun s) sequence perf edge px true planned bound counted]
  rfl

/-- R10: the drain target cuts a gap short (LE 15). -/
theorem gap_cutShort (perf : Half) (edge : Int) {px : List Pixel} {target : Nat} (expected : s.intake.expected = some e)
    (short : px.length ≤ 8190) (draining : s.intake.mode = .draining) (at_ : s.intake.drainTarget = some target)
    (below : s.intake.writeLine ≤ target) (past : target < s.intake.writeLine + (sequence - e).toNat)
    (few : (sequence - e).toNat ≤ 4095) :
    let members := missingTaken^[target + 1 - s.intake.writeLine] (gapBegun s)
    ∃ t, exec (.linePacket (lineRun sequence perf edge px)) s = .next t
      ∧ t = settleStall (formEffective
          { members with
            intake := { members.intake with mode := .closed, silence := none },
            pace := { members.pace with requested := 0 } })
      ∧ t.intake =
          { s.intake with
            mode := .closed, silence := none, writeLine := target + 1,
            counters :=
              { s.intake.counters with
                gaps := satAdd s.intake.counters.gaps 1,
                missingLines := satAdd s.intake.counters.missingLines (target + 1 - s.intake.writeLine) } }
      ∧ t.pace.requested = 0 ∧ t.frameMemory = s.frameMemory
      ∧ noticeOf t.notices .intakeError = occur (noticeOf s.notices .intakeError) ∧ outsideLinePath s t := by
  intro members
  set k := target + 1 - s.intake.writeLine with count
  have opened : s.intake.mode ≠ .closed := by simp [draining]
  have standing (i : Nat) (before : i < k) : pastTarget (missingTaken^[i] (gapBegun s)).intake = false := by
    have left : numbersLeft s.intake i := by
      refine .inr ⟨draining, fun x held => ?_⟩
      rw [at_] at held
      cases held
      omega
    exact standing_of_numbersLeft (u := gapBegun s) left rfl rfl rfl i (le_refl i)
  have ends : pastTarget members.intake = true := by
    obtain ⟨mode, held, line⟩ := missingTaken_iterate_line k (gapBegun s)
    refine (pastTarget_iff _).mpr ⟨mode.trans draining, target, held.trans at_, ?_⟩
    rw [line]
    change target < s.intake.writeLine + k
    omega
  have runs := exec_gap perf edge expected short opened (by omega) few (standing 0 (by omega))
  obtain ⟨m, rest⟩ : ∃ m, (sequence - e).toNat = k + m := ⟨(sequence - e).toNat - k, by omega⟩
  rw [rest, consumeGap_through k m standing, consumeGap_past m ends] at runs
  obtain ⟨beside, memory, error⟩ := missingTaken_iterate_beside k (gapBegun s)
  obtain ⟨-, -, raised, path⟩ := settled_line (s := s) (t := endDrain members) rfl beside error
  have intake : members.intake = missingCounted k (gapBegun s).intake := missingTaken_iterate_intake (by omega) _
  refine ⟨_, runs, rfl, ?_, ?_, ?_, raised, path⟩
  · rw [settleStall_changes]
    have moved : s.intake.writeLine + k = target + 1 := by omega
    refine (congrArg (fun i : Intake => { i with mode := .closed, silence := none }) intake).trans ?_
    rw [← moved]
    rfl
  · rw [settleStall_changes, endDrain, forceStop, formEffective_changes]
    split
    · rfl
    · split <;> rfl
  · rw [settleStall_changes]
    exact memory

/-- R8, R166: a failed line. -/
theorem failedLine_taken {run : List Byte} (left : numbersLeft s.intake 0)
    (failed : arrivalOf run = .line none ∨ ∃ payload, arrivalOf run = .line (some payload) ∧ payload.length < 8) :
    ∃ t, exec (.linePacket run) s = .next t
      ∧ t = settleStall (reportChange (trackLine ⟨s.intake.writeLine, none, false⟩ (lineFailed s)))
      ∧ t.intake = (lineFailed s).intake
      ∧ noticeOf t.notices .intakeError = occur (noticeOf s.notices .intakeError)
      ∧ t.frameMemory = s.frameMemory ∧ outsideLinePath s t := by
  have own : pastTarget (restartSilence s).intake = false := pastTarget_of_numbersLeft left (Nat.zero_le _) rfl rfl rfl
  obtain ⟨p, arrives, fails⟩ : ∃ p, arrivalOf run = .line p ∧ p.bind linePayloadOf = none := by
    rcases failed with arrives | ⟨payload, arrives, short⟩
    · exact ⟨_, arrives, rfl⟩
    · exact ⟨_, arrives, if_pos short⟩
  have runs : exec (.linePacket run) s =
      .next (settleStall (reportChange (trackLine ⟨s.intake.writeLine, none, false⟩ (lineFailed s)))) := by
    rw [exec_linePacket_eq s arrives, receiveLine_failed (open_of_numbersLeft left) fails, failedLine, own]
    rfl
  obtain ⟨intake, memory, error, path⟩ := settled_line (s := s)
    (lineBlocks_handedOn ⟨s.intake.writeLine, none, false⟩ (lineFailed s))
    (by rw [besideLines_reportChange, besideLines_trackLine]; rfl) (by rw [errorNotice_reportChange, errorNotice_trackLine]; rfl)
  rw [settleStall_changes (lineFailed s)] at intake memory
  exact ⟨_, runs, rfl, intake, error, memory, path⟩

/-- R9: a line of the width of the plan, with room in staging. -/
theorem packetTaken_whole {u : State} {p : MemoryPlan} (px : List Pixel) (width : px.length = p.wIn) (some_pixel : 0 < p.wIn)
    (room : u.intake.staging.length < 4) :
    packetTaken p sequence px u =
      { u with
        intake :=
          { u.intake with
            expected := some (sequence + 1#16), writeLine := u.intake.writeLine + 1,
            silence := u.intake.silence.map (fun _ => 0), staging := u.intake.staging ++ [⟨u.intake.writeLine, px⟩],
            counters := { u.intake.counters with linesTaken := satAdd u.intake.counters.linesTaken 1 } } } := by
  obtain ⟨last, ends⟩ : ∃ last, px.getLast? = some last := by
    cases ends : px.getLast? with
    | none =>
      rw [List.getLast?_eq_none_iff] at ends
      simp [ends] at width
      omega
    | some last => exact ⟨last, rfl⟩
  simp only [packetTaken, ends, room, ↓reduceIte, width, Nat.lt_irrefl, List.take_of_length_le (le_of_eq width)]

/-- The intake once a line of the width of the plan has taken its number. -/
def wholeCounted (sequence : Half) (px : List Pixel) (i : Intake) : Intake :=
  { i with
    expected := some (sequence + 1#16), writeLine := i.writeLine + 1, silence := i.silence.map (fun _ => 0),
    staging := i.staging ++ [⟨i.writeLine, px⟩],
    counters := { i.counters with linesTaken := satAdd i.counters.linesTaken 1 } }

theorem exec_wholeLine {u : State} {p : MemoryPlan} (perf : Half) (edge : Int) {px : List Pixel} (planned : u.frameMemory.plan = some p)
    (width : px.length = p.wIn) (some_pixel : 0 < p.wIn) (short : px.length ≤ 8190) (room : u.intake.staging.length < 4)
    (expected : u.intake.expected = some sequence) (opened : u.intake.mode ≠ .closed) (standing : pastTarget u.intake = false) :
    ∃ t, exec (.linePacket (lineRun sequence perf edge px)) u = .next t ∧ t.intake = wholeCounted sequence px u.intake
      ∧ t.frameMemory = u.frameMemory ∧ outsideLinePath u t := by
  have runs := exec_inOrder perf edge expected short opened standing
  rw [consumePacket_eq sequence perf edge px false planned room.le (fun four => absurd four room.ne),
    packetTaken_whole px width some_pixel room] at runs
  refine ⟨_, runs, ?_, ?_, outsideLinePath_settled ?_⟩
  · rw [settleStall_changes]
    simp only [reportChange_intake, trackLine_intake]
    rfl
  · rw [settleStall_changes]
    simp only [reportChange_frameMemory, trackLine_frameMemory]
  · rw [besideLines_reportChange, besideLines_trackLine]
    rfl

theorem exec_duplicate (perf : Half) (edge : Int) {px : List Pixel} (expected : s.intake.expected = some e)
    (short : px.length ≤ 8190) (opened : s.intake.mode ≠ .closed) (duplicate : (sequence - e).toNat = 65535) :
    exec (.linePacket (lineRun sequence perf edge px)) s = .next (settleStall
      { s with
        intake :=
          { s.intake with
            silence := s.intake.silence.map (fun _ => 0),
            counters := { s.intake.counters with duplicates := satAdd s.intake.counters.duplicates 1 } } }) := by
  rw [exec_lineRun sequence perf edge opened short,
    goodLine_duplicate (s := restartSilence s) (l := lineCarried sequence perf edge px) expected duplicate]
  rfl

/-- Gaps, breaks, duplicates and packets in order, each with a line of the width of the plan. -/
theorem wholeLine_outOfOrder {p : MemoryPlan} (perf : Half) (edge : Int) {px : List Pixel}
    (left : numbersLeft s.intake (sequence - e).toNat ∨ 4096 ≤ (sequence - e).toNat ∧ numbersLeft s.intake 0)
    (planned : s.frameMemory.plan = some p) (width : px.length = p.wIn) (some_pixel : 0 < p.wIn) (narrow : p.wIn ≤ 8190)
    (expected : s.intake.expected = some e) (room : s.intake.staging.length < 4) :
    ∃ t, exec (.linePacket (lineRun sequence perf edge px)) s = .next t
      ∧ t.frameMemory = s.frameMemory ∧ outsideLinePath s t
      ∧ (1 ≤ (sequence - e).toNat ∧ (sequence - e).toNat ≤ 4095 →
          t.intake =
            { s.intake with
              expected := some (sequence + 1#16), writeLine := s.intake.writeLine + (sequence - e).toNat + 1,
              silence := s.intake.silence.map (fun _ => 0),
              staging := s.intake.staging ++ [⟨s.intake.writeLine + (sequence - e).toNat, px⟩],
              counters :=
                { s.intake.counters with
                  gaps := satAdd s.intake.counters.gaps 1,
                  missingLines := satAdd s.intake.counters.missingLines (sequence - e).toNat,
                  linesTaken := satAdd s.intake.counters.linesTaken 1 } })
      ∧ (4096 ≤ (sequence - e).toNat ∧ (sequence - e).toNat ≤ 65534 →
          t.intake =
            { s.intake with
              expected := some (sequence + 1#16), writeLine := s.intake.writeLine + 1,
              silence := s.intake.silence.map (fun _ => 0),
              staging := s.intake.staging ++ [⟨s.intake.writeLine, px⟩],
              counters :=
                { s.intake.counters with
                  sequenceBreaks := satAdd s.intake.counters.sequenceBreaks 1,
                  linesTaken := satAdd s.intake.counters.linesTaken 1 } }) := by
  have short : px.length ≤ 8190 := width ▸ narrow
  have none_left : numbersLeft s.intake 0 := by
    rcases left with taking | ⟨-, left⟩
    · exact taking.imp_right fun ⟨draining, within⟩ => ⟨draining, fun target at_ => by have := within target at_; omega⟩
    · exact left
  have opened := open_of_numbersLeft none_left
  have own : pastTarget s.intake = false := pastTarget_of_numbersLeft none_left (le_refl 0) rfl rfl rfl
  have range := (sequence - e).isLt
  by_cases same : (sequence - e).toNat = 0
  · have next : sequence = e := by
      have zero : sequence - e = 0#16 := BitVec.eq_of_toNat_eq same
      exact sub_eq_zero.mp zero
    obtain ⟨t, runs, -, memory, path⟩ := exec_wholeLine (u := s) (sequence := sequence) perf edge planned width some_pixel short room
      (by rw [next, expected]) opened own
    exact ⟨t, runs, memory, path, fun h => absurd h.1 (by omega), fun h => absurd h.1 (by omega)⟩
  by_cases few : (sequence - e).toNat ≤ 4095
  · have left : numbersLeft s.intake (sequence - e).toNat := left.resolve_right fun h => by omega
    obtain ⟨t, u, runs, -, ends, intake, memory, -, path⟩ := gap_ends perf edge expected short (by omega) few left
    obtain ⟨v, ends', taken, kept, -⟩ := exec_wholeLine (u :=
      { s with
        intake :=
          { s.intake with
            expected := some sequence, writeLine := s.intake.writeLine + (sequence - e).toNat,
            counters :=
              { s.intake.counters with
                gaps := satAdd s.intake.counters.gaps 1,
                missingLines := satAdd s.intake.counters.missingLines (sequence - e).toNat } } })
      perf edge planned width some_pixel short room rfl opened (pastTarget_of_numbersLeft left (le_refl _) rfl rfl rfl)
    obtain rfl : u = v := Host.Outcome.next.inj (ends.symm.trans ends')
    exact ⟨t, runs, memory.trans kept, path, fun _ => intake.trans taken, fun h => absurd h.1 (by omega)⟩
  by_cases other : (sequence - e).toNat ≤ 65534
  · obtain ⟨t, u, runs, ends, intake, memory, -, path, -⟩ := break_taken perf edge expected short (by omega) other none_left
    obtain ⟨v, ends', taken, kept, -⟩ := exec_wholeLine (u :=
      { s with
        intake :=
          { s.intake with
            expected := some sequence,
            counters := { s.intake.counters with sequenceBreaks := satAdd s.intake.counters.sequenceBreaks 1 } } })
      perf edge planned width some_pixel short room rfl opened own
    obtain rfl : u = v := Host.Outcome.next.inj (ends.symm.trans ends')
    exact ⟨t, runs, memory.trans kept, path, fun h => absurd h.2 few, fun _ => intake.trans taken⟩
  · refine ⟨_, exec_duplicate perf edge expected short opened (by omega), ?_, outsideLinePath_settled rfl,
      fun h => absurd h.2 few, fun h => absurd h.2 other⟩
    rw [settleStall_changes]

end

/-- Settles O18. -/
theorem lineOutOfOrder : Obligations.LineOutOfOrder := by
  refine ⟨fun s e sequence perf edge px expected short => ⟨fun some_gap few left => ?_, fun long other left => ?_,
    fun duplicate opened => exec_duplicate perf edge expected short opened duplicate,
    fun target draining at_ below past few => gap_cutShort perf edge expected short draining at_ below past few⟩,
    fun s p e sequence perf edge px left planned width some_pixel narrow expected room =>
      wholeLine_outOfOrder perf edge left planned width some_pixel narrow expected room,
    fun s run left failed => failedLine_taken left failed⟩
  · exact gap_ends perf edge expected short some_gap few left
  · exact break_taken perf edge expected short long other left

end Sys2Proof.Machine
end

section
/-! O50 to O52: the Conformance Engine's lines, their reads, and the Repair Engine's taking of a line. -/

namespace Sys2Proof.Machine

/-! ## Verdicts (R81) -/

theorem isRead_iff (v : Verdict) : isRead v = true ↔ v = .read ∨ v = .kept := by cases v <;> decide

theorem isSettled_iff (v : Verdict) : isSettled v = true ↔ v = .read ∨ v = .kept ∨ v = .unavailable := by cases v <;> decide

theorem neededPixels_of_read {w : List SourceLine} {n : NeededLine} (got : n.verdict = .read ∨ n.verdict = .kept) :
    neededPixels w n = some (windowPixels w n.line) := if_pos ((isRead_iff _).mpr got)

theorem neededPixels_of_lost {w : List SourceLine} {n : NeededLine} (lost : ¬(n.verdict = .read ∨ n.verdict = .kept)) :
    neededPixels w n = none := if_neg fun read => lost ((isRead_iff _).mp read)

/-! ## A settled output line (R83 to R85) -/

/-- What the output line is built from, by Table 6-4: its pixels and whether a substitution was made. -/
def builtLine (copy : ConformanceCopy) (job : FrameJob) (c : Conformance) : List Pixel × Bool :=
  outputPixels copy.wIn (verticalPosition job.top job.appliedS copy.fields.v0 job.j % 256) job.columns
    (lineSource (heldPixels copy.wIn c.held) job.previous ((job.needed.head?).bind (neededPixels c.window))
      ((job.needed[1]?).map (neededPixels c.window)))

theorem buildLine_eq (copy : ConformanceCopy) (job : FrameJob) (s : State) :
    buildLine copy job s =
      { s with
        contexts := if (builtLine copy job s.conformance).2 = true then changeContext job.frame markSubstituted s.contexts
          else s.contexts,
        conformance :=
          { s.conformance with
            mode := .offering { job with previous := some (builtLine copy job s.conformance).1 }
              ⟨job.frame, job.j, (builtLine copy job s.conformance).1⟩,
            held := heldAfter s.conformance.window job.needed s.conformance.held,
            window := windowAfter s.conformance.window job.needed } } := by
  have unfolded : buildLine copy job s =
      (let out := builtLine copy job s.conformance
      let t := if out.2 = true then writeContext job.frame markSubstituted s else s
      { t with
        conformance :=
          { s.conformance with
            mode := .offering { job with previous := some out.1 } ⟨job.frame, job.j, out.1⟩,
            held := heldAfter s.conformance.window job.needed s.conformance.held,
            window := windowAfter s.conformance.window job.needed } }) := rfl
  rw [unfolded]
  obtain ⟨px, sub⟩ := builtLine copy job s.conformance
  cases sub <;> rfl

theorem advanceLine_settled {s : State} {job : FrameJob} {copy : ConformanceCopy} (gathering : s.conformance.mode = .gathering job)
    (copied : s.conformance.copy = some copy)
    (settled : ∀ n ∈ job.needed, n.verdict = .read ∨ n.verdict = .kept ∨ n.verdict = .unavailable) :
    advanceLine s = buildLine copy job s := by
  have every : job.needed.all (fun n => isSettled n.verdict) = true :=
    List.all_eq_true.mpr fun n needed => (isSettled_iff _).mpr (settled n needed)
  simp only [advanceLine, gathering, copied, every, ↓reduceIte]

section
variable {copy : ConformanceCopy} {job : FrameJob} {c : Conformance}

/-- Table 6-4, an output line that needs one source line. -/
theorem builtLine_one {a : NeededLine} (needs : job.needed = [a]) :
    let f := verticalPosition job.top job.appliedS copy.fields.v0 job.j % 256
    let build (a b : List Pixel) := horizontalLine copy.wIn job.columns (verticalIntermediate f a b)
    let got (n : NeededLine) := n.verdict = .read ∨ n.verdict = .kept
    let stored (n : NeededLine) := windowPixels c.window n.line
    let held := heldPixels copy.wIn c.held
    (got a → builtLine copy job c = (build (stored a) (stored a), false))
      ∧ (¬got a → builtLine copy job c = (build held held, true)) := by
  refine ⟨fun got => ?_, fun lost => ?_⟩
  · simp only [builtLine, needs, List.head?_cons, Option.bind_some, neededPixels_of_read got]
    rfl
  · simp only [builtLine, needs, List.head?_cons, Option.bind_some, neededPixels_of_lost lost]
    rfl

/-- Table 6-4, an output line that needs two source lines. -/
theorem builtLine_two {a b : NeededLine} (needs : job.needed = [a, b]) :
    let f := verticalPosition job.top job.appliedS copy.fields.v0 job.j % 256
    let build (a b : List Pixel) := horizontalLine copy.wIn job.columns (verticalIntermediate f a b)
    let got (n : NeededLine) := n.verdict = .read ∨ n.verdict = .kept
    let stored (n : NeededLine) := windowPixels c.window n.line
    let held := heldPixels copy.wIn c.held
    (got a → got b → builtLine copy job c = (build (stored a) (stored b), false))
      ∧ (got a → ¬got b → builtLine copy job c = (build (stored a) (stored a), true))
      ∧ (¬got a → got b → builtLine copy job c = (build held (stored b), true))
      ∧ (¬got a → ¬got b → ∀ px, job.previous = some px → builtLine copy job c = (px, true))
      ∧ (¬got a → ¬got b → job.previous = none → builtLine copy job c = (build held held, true)) := by
  have whole (x y : Option (List Pixel)) (first : neededPixels c.window a = x) (second : neededPixels c.window b = y) :
      builtLine copy job c =
        outputPixels copy.wIn (verticalPosition job.top job.appliedS copy.fields.v0 job.j % 256) job.columns
          (lineSource (heldPixels copy.wIn c.held) job.previous x (some y)) := by
    simp only [builtLine, needs, List.head?_cons, Option.bind_some, List.getElem?_cons_succ, List.getElem?_cons_zero,
      Option.map_some, first, second]
  refine ⟨fun gotA gotB => ?_, fun gotA lostB => ?_, fun lostA gotB => ?_, fun lostA lostB px kept => ?_, fun lostA lostB fresh => ?_⟩
  · exact whole _ _ (neededPixels_of_read gotA) (neededPixels_of_read gotB)
  · exact whole _ _ (neededPixels_of_read gotA) (neededPixels_of_lost lostB)
  · exact whole _ _ (neededPixels_of_lost lostA) (neededPixels_of_read gotB)
  · rw [whole _ _ (neededPixels_of_lost lostA) (neededPixels_of_lost lostB), kept]
    rfl
  · rw [whole _ _ (neededPixels_of_lost lostA) (neededPixels_of_lost lostB), fresh]
    rfl

end

theorem heldPixels_eq (wIn : Nat) (h : HeldLine) :
    heldPixels wIn h = (match h with
      | .initial => List.replicate wIn ⟨0#16, 0#16, 0#16, 0#16⟩
      | .line _ x => x) := by cases h <;> rfl

/-- Settles O50. -/
theorem settledLineIsBuilt : Obligations.SettledLineIsBuilt := by
  intro s job copy px sub gathering copied settled y f build held got stored from_
  have held_eq : heldPixels copy.wIn s.conformance.held = held := heldPixels_eq _ _
  have built : builtLine copy job s.conformance = (px, sub) := by
    rcases from_ with ⟨a, needs, which⟩ | ⟨a, b, needs, which⟩
    · obtain ⟨read, lost⟩ := builtLine_one (copy := copy) (c := s.conformance) needs
      rw [held_eq] at lost
      rcases which with ⟨g, rfl, rfl⟩ | ⟨g, rfl, rfl⟩
      · exact read g
      · exact lost g
    · obtain ⟨both, first, second, again, neither⟩ := builtLine_two (copy := copy) (c := s.conformance) needs
      rw [held_eq] at second neither
      rcases which with ⟨g, k, rfl, rfl⟩ | ⟨g, k, rfl, rfl⟩ | ⟨g, k, rfl, rfl⟩ | ⟨g, k, kept, rfl⟩ | ⟨g, k, fresh, rfl, rfl⟩
      · exact both g k
      · exact first g k
      · exact second g k
      · exact again g k px kept
      · exact neither g k fresh
  rw [advanceLine_settled gathering copied settled, buildLine_eq, built]
  rfl

/-! ## Availability (R69) -/

theorem holdsLine_iff {f : FrameMemory} {p : MemoryPlan} (l : Nat) (planned : f.plan = some p) :
    holdsLine f l = true ↔ tableGet f.slots (l % p.r) = some l := by
  simp only [holdsLine, planned, beq_iff_eq]

theorem beyondEnd_iff (i : Intake) (l : Nat) : beyondEnd i l = true ↔ ∃ m, i.endMark = some m ∧ m ≤ l := by
  unfold beyondEnd
  cases i.endMark <;> simp

/-- Table 5-4: the line is still to come. -/
theorem comes_iff (s : State) (l : Nat) :
    (s.intake.staging.any (fun e => e.number == l) || inIntakeTransfer s.frameMemory l || s.intake.writeLine ≤ l) = true ↔
      (∃ e ∈ s.intake.staging, e.number = l)
        ∨ (∃ slot a px, s.frameMemory.channel = some (.intakeWrite l slot a px false)) ∨ s.intake.writeLine ≤ l := by
  rw [Bool.or_eq_true, Bool.or_eq_true, inIntakeTransfer_iff, decide_eq_true_iff, or_assoc, List.any_eq_true]
  simp only [beq_iff_eq]

theorem availability_cases {s : State} {p : MemoryPlan} (l : Nat) (planned : s.frameMemory.plan = some p) :
    let standing : Prop := tableGet s.frameMemory.slots (l % p.r) = some l
    let ended : Prop := ∃ m, s.intake.endMark = some m ∧ m ≤ l
    let coming : Prop := (∃ e ∈ s.intake.staging, e.number = l)
      ∨ (∃ slot a px, s.frameMemory.channel = some (.intakeWrite l slot a px false)) ∨ s.intake.writeLine ≤ l
    (standing → availability s l = .available)
      ∧ (¬standing → ended ∨ ¬coming → availability s l = .unavailable)
      ∧ (¬standing → ¬ended → coming → availability s l = .pending) := by
  intro standing ended coming
  have holds := holdsLine_iff (f := s.frameMemory) l planned
  have ends := beyondEnd_iff s.intake l
  have comes := comes_iff s l
  unfold availability
  refine ⟨fun h => if_pos (holds.mpr h), fun h absent => ?_, fun h going come => ?_⟩
  · rw [if_neg (mt holds.mp h)]
    split
    · rfl
    · exact if_neg (mt comes.mp (absent.resolve_left (mt ends.mpr ‹_›)))
  · rw [if_neg (mt holds.mp h), if_neg (mt ends.mp going), if_pos (comes.mpr come)]

/-! ## Reads (R82) -/

theorem readOutstanding_iff (s : State) :
    readOutstanding s = true ↔
      s.conformance.readRequest ≠ none ∨ ∃ l a k, s.frameMemory.channel = some (.conformanceRead l a k false) := by
  rw [readOutstanding, Bool.or_eq_true, Option.isSome_iff_ne_none]
  refine or_congr Iff.rfl ?_
  split
  · rename_i l a k discard held
    rw [held]
    simp only [Bool.not_eq_true', Option.some.injEq, Transfer.conformanceRead.injEq]
    exact ⟨fun own => ⟨_, _, _, rfl, rfl, rfl, own⟩, fun ⟨_, _, _, _, _, _, own⟩ => own⟩
  · rename_i other
    exact ⟨nofun, fun ⟨l, a, k, held⟩ => absurd held (other _ _ _ _)⟩

theorem advanceLine_unsettled {s : State} {job : FrameJob} {copy : ConformanceCopy} (gathering : s.conformance.mode = .gathering job)
    (copied : s.conformance.copy = some copy) (open_ : ∃ n ∈ job.needed, n.verdict = .available ∨ n.verdict = .pending) :
    advanceLine s = presentRead job s := by
  have some_open : job.needed.all (fun n => isSettled n.verdict) = false := by
    obtain ⟨n, needed, which⟩ := open_
    rw [List.all_eq_false]
    exact ⟨n, needed, by rcases which with h | h <;> rw [h] <;> decide⟩
  simp only [advanceLine, gathering, copied, some_open, Bool.false_eq_true, ↓reduceIte]

theorem presentRead_of_outstanding {s : State} {job : FrameJob}
    (own : s.conformance.readRequest ≠ none ∨ ∃ l a k, s.frameMemory.channel = some (.conformanceRead l a k false)) :
    presentRead job s = s := if_pos ((readOutstanding_iff s).mpr own)

theorem presentRead_of_none {s : State} {job : FrameJob} (nothing : ∀ n ∈ job.needed, n.verdict ≠ .available) :
    presentRead job s = s := by
  unfold presentRead
  split
  · rfl
  · rw [List.find?_eq_none.mpr fun n needed => by simpa using nothing n needed]

theorem presentRead_of_first {s : State} {job : FrameJob} {before after : List NeededLine} {n : NeededLine}
    (free : ¬(s.conformance.readRequest ≠ none ∨ ∃ l a k, s.frameMemory.channel = some (.conformanceRead l a k false)))
    (needs : job.needed = before ++ n :: after) (available : n.verdict = .available) (first : ∀ z ∈ before, z.verdict ≠ .available) :
    presentRead job s = { s with conformance := { s.conformance with readRequest := some n.line } } := by
  have found : job.needed.find? (fun n => n.verdict == .available) = some n := by
    rw [List.find?_eq_some_iff_append]
    refine ⟨by simp [available], before, after, needs, fun z passed => ?_⟩
    simpa using first z passed
  rw [presentRead, if_neg (mt (readOutstanding_iff s).mp free), found]

section
variable {s : State} {line address n : Nat} {discard : Bool}

theorem exec_conformanceReadComplete (channel : s.frameMemory.channel = some (.conformanceRead line address n discard))
    (inside : address + 8 * n ≤ s.frameMemory.size) :
    exec .conformanceReadComplete s =
      if discard = true then done { s with frameMemory := { s.frameMemory with channel := none } }
      else done (lineRead line (readPixels s.frameMemory address n) { s with frameMemory := { s.frameMemory with channel := none } }) := by
  change execConformanceReadComplete s = _
  rw [execConformanceReadComplete, channel]
  exact if_pos (decide_eq_true inside)

theorem exec_referenceReadComplete (channel : s.frameMemory.channel = some (.referenceRead address n discard))
    (inside : address + 8 * n ≤ s.frameMemory.size) :
    exec .referenceReadComplete s =
      if discard = true then done { s with frameMemory := { s.frameMemory with channel := none } }
      else done (repairFetched ((readPixels s.frameMemory address n).map recordOf)
        { s with frameMemory := { s.frameMemory with channel := none } }) := by
  change execReferenceReadComplete s = _
  rw [execReferenceReadComplete, channel]
  exact if_pos (decide_eq_true inside)

end

/-- R92, R99: the line in hand repaired, its outcomes counted, the write presented. -/
theorem repairLine_eq (copy : RepairCopy) (hand : RepairHand) (ref : Option (List RefRecord)) (s : State) :
    let out := repairPixels copy.fields s.repair.mask hand.line.pixels ref
    repairLine copy hand ref s =
      { s with
        contexts := changeContext hand.line.frame
          (fun x =>
            { x with
              temporal := x.temporal + (out.filter (fun y => y.2 == .temporal)).length,
              spatial := x.spatial + (out.filter (fun y => y.2 == .spatial)).length,
              scratchPixels := x.scratchPixels + (out.filter (fun y => y.2 == .scratch)).length,
              unrepaired := x.unrepaired + (out.filter (fun y => y.2 == .unrepaired)).length })
          s.contexts,
        repair :=
          { s.repair with
            mode := .passing ⟨hand.line.frame, hand.line.j, out.map (·.1), hand.incomplete, false, false⟩,
            columnCounters := if copy.fields.irOn = true then
                advanceCounters s.repair.columnCounters (hand.line.pixels.map (irDefective copy.fields))
              else s.repair.columnCounters,
            writeRequest := true } } := rfl

theorem lineRead_other {s : State} (l : Nat) (px : List Pixel) (other : ∀ job, s.conformance.mode ≠ .gathering job) :
    lineRead l px s = s := by
  unfold lineRead
  split
  · rename_i job gathering
    exact absurd gathering (other job)
  · rfl

theorem reportChange_other {s : State} (other : ∀ job, s.conformance.mode ≠ .gathering job) : reportChange s = s := by
  unfold reportChange
  split
  · rename_i job gathering
    exact absurd gathering (other job)
  · rfl

/-- Settles O51. -/
theorem readsPresentedAndCompleted : Obligations.ReadsPresentedAndCompleted := by
  refine ⟨fun s p l planned => availability_cases l planned, fun s job copy gathering copied open_ => ⟨?_, ?_⟩,
    fun s => ⟨reportChange_other, fun job gathering => by rw [reportChange, gathering]⟩,
    fun s line address n discard channel inside => ⟨?_, ?_⟩, fun s address n discard channel inside => ⟨?_, ?_⟩⟩
  · rw [advanceLine_unsettled gathering copied open_]
    exact fun nothing => nothing.elim presentRead_of_outstanding presentRead_of_none
  · intro before n after free needs available first
    rw [advanceLine_unsettled gathering copied open_, presentRead_of_first free needs available first]
  · intro nothing
    rw [exec_conformanceReadComplete channel inside]
    split
    · rfl
    · rename_i taken
      rw [lineRead_other (s := { s with frameMemory := { s.frameMemory with channel := none } }) _ _ (nothing.resolve_left taken)]
      rfl
  · rintro job rfl gathering
    rw [exec_conformanceReadComplete channel inside, if_neg Bool.false_ne_true, lineRead]
    simp only [gathering]
    rfl
  · rintro rfl
    exact exec_referenceReadComplete channel inside
  · rintro hand copy rfl fetching copied
    rw [exec_referenceReadComplete channel inside, if_neg Bool.false_ne_true, repairFetched]
    simp only [fetching, copied, repairLine_eq]
    rfl

end Sys2Proof.Machine
end

section
/-! O52: the Repair Engine takes an offered line, and the Conformance Engine goes on. -/

namespace Sys2Proof.Machine

/-! ## The next output line, and the next frame (R80, R81, R85, R86) -/

theorem neededLines_asked (copy : ConformanceCopy) (top appliedS j : Nat) (s : State) :
    (neededLines (verticalPosition top appliedS copy.fields.v0 j)).map (fun l =>
      ({ line := l, verdict := if inWindow s.conformance.window l then .kept else availability s l } : NeededLine)) =
      linesAsked copy.fields.v0 top appliedS j s := by
  rw [neededLines, apply_ite (List.map _)]
  rfl

theorem enterGathering_eq (copy : ConformanceCopy) (job : FrameJob) (j : Nat) (s : State) :
    enterGathering copy job j s = advanceLine
      { s with
        conformance :=
          { s.conformance with
            mode := .gathering { job with j := j, needed := linesAsked copy.fields.v0 job.top job.appliedS j s } } } := by
  rw [enterGathering, neededLines_asked]

/-- The engine without a frame in hand. -/
def engineFreed (s : State) : State := { s with conformance := { s.conformance with mode := .idle, window := [] } }

theorem takeFrame_of_none {s : State} (nothing : oldestUnfinished s = none) : takeFrame s = engineFreed s := by
  have none' : oldestUnfinished (engineFreed s) = none := nothing
  rw [takeFrame, ← engineFreed, none']

theorem takeFrame_of_uncopied {s : State} (uncopied : s.conformance.copy = none) : takeFrame s = engineFreed s := by
  have none' : (engineFreed s).conformance.copy = none := uncopied
  rw [takeFrame, ← engineFreed, none']
  cases oldestUnfinished (engineFreed s) <;> rfl

theorem takeFrame_of_some {s : State} {c : FrameContext} {copy : ConformanceCopy} (oldest : oldestUnfinished s = some c)
    (copied : s.conformance.copy = some copy) : takeFrame s = frameBegun copy c s := by
  have oldest' : oldestUnfinished (engineFreed s) = some c := oldest
  have copied' : (engineFreed s).conformance.copy = some copy := copied
  rw [takeFrame, ← engineFreed, oldest', copied']
  exact enterGathering_eq _ _ _ _

section
variable {s : State} {job : FrameJob} {line : OutputLine} {copy : ConformanceCopy}

theorem lineTaken_next (offering : s.conformance.mode = .offering job line) (copied : s.conformance.copy = some copy)
    (more : job.j + 1 < copy.fields.hOut) :
    lineTaken s = advanceLine
      { s with
        conformance :=
          { s.conformance with
            mode := .gathering
              { job with j := job.j + 1, needed := linesAsked copy.fields.v0 job.top job.appliedS (job.j + 1) s } } } := by
  simp only [lineTaken, offering, copied, more, ↓reduceIte, enterGathering_eq]

theorem lineTaken_last (offering : s.conformance.mode = .offering job line) (copied : s.conformance.copy = some copy)
    (last : copy.fields.hOut ≤ job.j + 1) :
    lineTaken s = takeFrame { s with contexts := changeContext job.frame (fun c => { c with finished := true }) s.contexts } := by
  simp only [lineTaken, offering, copied, Nat.not_lt_of_le last, ↓reduceIte]
  rfl

end

/-! ## Masks, fading and column counters (R100, R101, R106) -/

theorem isRepairing_iff (e : ScratchEntry) :
    isRepairing e = true ↔
      e.origin = .loaded ∨ ∃ n, e.origin = .learned .tracked n ∨ e.origin = .learned .fading n := by
  unfold isRepairing
  split
  · rename_i loaded
    simp [loaded]
  · rename_i n candidate
    simp [candidate]
  · rename_i state n other learned
    cases state with
    | candidate => exact absurd rfl other
    | tracked => simp [learned]
    | fading => simp [learned]

theorem mem_maskOf_iff (wOut : Nat) (es : List ScratchEntry) (c : Nat) :
    c ∈ maskOf wOut es ↔
      c < wOut ∧ ∃ e ∈ es, e.left ≤ c ∧ c < e.left + e.width
        ∧ (e.origin = .loaded ∨ ∃ n, e.origin = .learned .tracked n ∨ e.origin = .learned .fading n) := by
  have covers (e : ScratchEntry) : c ∈ (List.range e.width).map (e.left + ·) ↔ e.left ≤ c ∧ c < e.left + e.width := by
    simp only [List.mem_map, List.mem_range]
    exact ⟨fun ⟨k, below, at_⟩ => by omega, fun ⟨low, high⟩ => ⟨c - e.left, by omega, by omega⟩⟩
  simp only [maskOf, List.mem_filter, List.mem_flatMap, covers, isRepairing_iff, decide_eq_true_iff]
  constructor
  · rintro ⟨⟨e, ⟨held, repairs⟩, low, high⟩, below⟩
    exact ⟨below, e, held, low, high, repairs⟩
  · rintro ⟨below, e, held, low, high, repairs⟩
    exact ⟨⟨e, ⟨held, repairs⟩, low, high⟩, below⟩

theorem fadeEntry_other {e : ScratchEntry} (other : ∀ n, e.origin ≠ .learned .tracked n) : fadeEntry e = e := by
  unfold fadeEntry
  split
  · rename_i n tracked
    exact absurd tracked (other n)
  · rfl

theorem advanceCounters_getD (counters : List Nat) (marks : List Bool) (k : Nat) :
    (advanceCounters counters marks).getD k 0 =
      if marks.getD k false = true then counters.getD k 0 + 1 else counters.getD k 0 := by
  have one (n : Nat) (b : Bool) : n + b.toNat = if b = true then n + 1 else n := by cases b <;> rfl
  induction marks generalizing counters k with
  | nil => cases counters <;> rfl
  | cons b marks ih =>
    cases counters with
    | nil =>
      cases k with
      | zero => exact (Nat.zero_add _).symm.trans (one 0 b)
      | succ k => exact ih [] k
    | cons c counters =>
      cases k with
      | zero => exact one c b
      | succ k => exact ih counters k

/-! ## The frame start (R90) -/

theorem contextOf_frame {s : State} {n : Nat} {c : FrameContext} (found : contextOf s n = some c) : c.frame = n := by
  simpa using List.find?_some found

/-- R96: whether the frame may use the reference written last. -/
theorem temporalAvailable_eq (r : Repair) (c : FrameContext) :
    temporalAvailable r c = (match r.lastWritten with
      | none => false
      | some x => (match (if x = .a then r.recordA else r.recordB) with
        | .valid n q => n + 1 == c.frame && q == c.reelSequence && !c.splice
        | _ => false)) := by
  unfold temporalAvailable recordFor
  rcases r.lastWritten with _ | (_ | _) <;> rfl

theorem fillBuffer_eq (r : Repair) : fillBuffer r = if r.lastWritten = some .a then .b else .a := by
  unfold fillBuffer
  rcases r.lastWritten with _ | (_ | _) <;> rfl

theorem setRecord_eq (x : Buffer) (v : Validity) (r : Repair) :
    setRecord x v r = { r with recordA := if x = .a then v else r.recordA, recordB := if x = .b then v else r.recordB } := by
  cases x <;> rfl

/-- R90: the frame start. -/
theorem repairFrameStart_eq (copy : RepairCopy) (c : FrameContext) (s : State) :
    let fill := fillBuffer s.repair
    let usable := temporalAvailable s.repair c
    let table := if c.splice = true then s.repair.scratches.map fadeEntry else s.repair.scratches
    repairFrameStart copy c s =
      { s with
        contexts := changeContext c.frame (fun x => { x with referenceUsed := usable }) s.contexts,
        repair :=
          { s.repair with
            recordA := if fill = .a then .filling c.frame c.reelSequence else s.repair.recordA,
            recordB := if fill = .b then .filling c.frame c.reelSequence else s.repair.recordB,
            temporal := usable, scratches := table, mask := maskOf copy.wOut table,
            columnCounters := List.replicate copy.wOut 0 } } := by
  intro fill usable table
  rw [repairFrameStart, setRecord_eq]
  rfl

/-! ## REPAIR_TAKE_LINE (R89, R91, R92) -/

theorem exec_repairTakeLine {s : State} {copy : RepairCopy} {job : FrameJob} {line : OutputLine} (waiting : s.repair.mode = .waiting)
    (copied : s.repair.copy = some copy) (offering : s.conformance.mode = .offering job line) :
    exec .repairTakeLine s = done (takeOffered copy line s) := by
  change execRepairTakeLine s = _
  simp only [execRepairTakeLine, waiting, copied, offering]

/-- What the Conformance Engine's next line leaves of the other blocks. -/
theorem lineTaken_keeps (u : State) :
    (lineTaken u).pending = u.pending ∧ (lineTaken u).formats = u.formats ∧ (lineTaken u).intake = u.intake
      ∧ (lineTaken u).tracker = u.tracker ∧ (lineTaken u).pace = u.pace ∧ (lineTaken u).frameMemory = u.frameMemory
      ∧ (lineTaken u).repair = u.repair ∧ (lineTaken u).grading = u.grading ∧ (lineTaken u).reel = u.reel
      ∧ (lineTaken u).interpreter = u.interpreter ∧ (lineTaken u).notices = u.notices ∧ (lineTaken u).delivery = u.delivery := by
  have same := lineTaken_outside u
  simp only [outsideConformance, Prod.mk.injEq] at same
  obtain ⟨pending, formats, intake, tracker, pace, memory, repair, grading, reel, interpreter, notices, delivery, -⟩ := same
  exact ⟨pending, formats, intake, tracker, pace, memory, repair, grading, reel, interpreter, notices, delivery⟩

/-- The blocks of a state that differs from what the next line leaves in the contexts and the Repair Engine alone. -/
theorem settled_afterTaking {s u v : State} {cs : List FrameContext} {r : Repair}
    (only : ∃ cs r, u = { s with contexts := cs, repair := r }) (is_ : v = { lineTaken u with contexts := cs, repair := r }) :
    let t := settleStall v
    t.conformance = (lineTaken u).conformance ∧ t.repair = r ∧ t.contexts = cs
      ∧ t.pending = s.pending ∧ t.formats = s.formats ∧ t.intake = s.intake ∧ t.tracker = s.tracker ∧ t.pace = s.pace
      ∧ t.frameMemory = s.frameMemory ∧ t.grading = s.grading ∧ t.reel = s.reel ∧ t.interpreter = s.interpreter
      ∧ t.notices = s.notices ∧ t.delivery = { s.delivery with stall := t.delivery.stall } := by
  intro t
  obtain ⟨pending, formats, intake, tracker, pace, memory, -, grading, reel, interpreter, notices, delivery⟩ := lineTaken_keeps u
  have settled : t = { v with delivery := { v.delivery with stall := t.delivery.stall } } := settleStall_changes v
  rw [settled, is_]
  obtain ⟨cs', r', rfl⟩ := only
  exact ⟨rfl, rfl, rfl, pending, formats, intake, tracker, pace, memory, grading, reel, interpreter, notices, by rw [delivery]⟩

/-- R89: with temporal repair the reference line is fetched, else the line is repaired at once; what the frame start leaves elsewhere
stands. -/
theorem fetchOrRepair_taken {s u : State} (copy : RepairCopy) (hand : RepairHand) (only : ∃ cs r, u = { s with contexts := cs, repair := r }) :
    let t := settleStall (fetchOrRepair copy hand (lineTaken u))
    let out := repairPixels copy.fields u.repair.mask hand.line.pixels none
    t.conformance = (lineTaken u).conformance
      ∧ (u.repair.temporal = true →
          t.repair = { u.repair with mode := .fetching hand, readRequest := true } ∧ t.contexts = (lineTaken u).contexts)
      ∧ (u.repair.temporal = false →
          t.repair =
              { u.repair with
                mode := .passing ⟨hand.line.frame, hand.line.j, out.map (·.1), hand.incomplete, false, false⟩,
                columnCounters := if copy.fields.irOn = true then
                    advanceCounters u.repair.columnCounters (hand.line.pixels.map (irDefective copy.fields))
                  else u.repair.columnCounters,
                writeRequest := true }
            ∧ t.contexts = changeContext hand.line.frame
                (fun x =>
                  { x with
                    temporal := x.temporal + (out.filter (fun y => y.2 == .temporal)).length,
                    spatial := x.spatial + (out.filter (fun y => y.2 == .spatial)).length,
                    scratchPixels := x.scratchPixels + (out.filter (fun y => y.2 == .scratch)).length,
                    unrepaired := x.unrepaired + (out.filter (fun y => y.2 == .unrepaired)).length })
                (lineTaken u).contexts)
      ∧ t.pending = s.pending ∧ t.formats = s.formats ∧ t.intake = s.intake ∧ t.tracker = s.tracker ∧ t.pace = s.pace
      ∧ t.frameMemory = s.frameMemory ∧ t.grading = s.grading ∧ t.reel = s.reel ∧ t.interpreter = s.interpreter
      ∧ t.notices = s.notices ∧ t.delivery = { s.delivery with stall := t.delivery.stall } := by
  intro t out
  have repair := (lineTaken_keeps u).2.2.2.2.2.2.1
  cases temporal : u.repair.temporal with
  | true =>
    have fetched : fetchOrRepair copy hand (lineTaken u) =
        { lineTaken u with repair := { u.repair with mode := .fetching hand, readRequest := true } } := by
      rw [fetchOrRepair, repair, temporal]
      rfl
    obtain ⟨conformance, repaired, contexts, rest⟩ := settled_afterTaking only fetched
    exact ⟨conformance, fun _ => ⟨repaired, contexts⟩, nofun, rest⟩
  | false =>
    have atOnce : fetchOrRepair copy hand (lineTaken u) = repairLine copy hand none (lineTaken u) := by
      rw [fetchOrRepair, repair, temporal]
      rfl
    rw [repairLine_eq, repair] at atOnce
    obtain ⟨conformance, repaired, contexts, rest⟩ := settled_afterTaking only atOnce
    exact ⟨conformance, nofun, fun _ => ⟨repaired, contexts⟩, rest⟩

/-- Settles O52. -/
theorem repairTakesLine : Obligations.RepairTakesLine := by
  refine ⟨fun s job line copy offering copied => ⟨lineTaken_next offering copied, fun last => ⟨fun ended => ?_, ?_⟩⟩, mem_maskOf_iff,
    fun e => ⟨fun n tracked => by simp only [fadeEntry, tracked], fadeEntry_other⟩, advanceCounters_getD, ?_⟩
  · rw [lineTaken_last offering copied last]
    exact takeFrame_of_none (oldestUnfinished_eq_none ended)
  · intro before c after queue ended unfinished live
    rw [lineTaken_last offering copied last]
    exact takeFrame_of_some (oldestUnfinished_eq_some queue unfinished live ended) copied
  · intro s copy job line c waiting copied offering found fill usable table begun u
    have number := contextOf_frame found
    have began : repairFrameStart copy c s = begun := by
      rw [repairFrameStart_eq, temporalAvailable_eq, fillBuffer_eq]
      simp only [begun, usable, number]
      rfl
    have started : startFrameAt copy line s = u := by
      rw [startFrameAt, found]
      simp only [began]
      rfl
    have hand : handOf s line = ⟨line, c.incomplete⟩ := by
      rw [handOf, found]
      rfl
    have runs := exec_repairTakeLine waiting copied offering
    rw [takeOffered, started, hand] at runs
    refine ⟨_, runs, fetchOrRepair_taken copy ⟨line, c.incomplete⟩ ?_⟩
    simp only [u]
    split
    · exact ⟨_, _, rfl⟩
    · exact ⟨_, _, rfl⟩

end Sys2Proof.Machine
end

section
/-! O54 to O56: the end of a reference write, and the Grading Engine's frame start and lines. -/

namespace Sys2Proof.Machine

/-! ## The obligations of the line in hand (R92, R94, R95) -/

theorem raiseTimes_scratchFull (n : Nat) (s : State) :
    raiseTimes .scratchFull n s = { s with notices := setNotice s.notices .scratchFull (occur^[n] s.notices.scratchFull) } := by
  induction n generalizing s with
  | zero => rfl
  | succ n ih =>
    rw [raiseTimes, ih, Function.iterate_succ_apply]
    rfl

theorem closeRecord_eq (incomplete : Bool) (v : Validity) :
    closeRecord incomplete v = (match v with
      | .filling n q => if incomplete = true then .void n q else .valid n q
      | x => x) := by cases v <;> rfl

/-- R95: the frame end, the engine then WAITING. -/
theorem repairFrameEnd_waiting (copy : RepairCopy) (hand : RepairedHand) (s : State) :
    setRepair { (repairFrameEnd copy hand.frame hand.incomplete s).repair with mode := .waiting }
        (repairFrameEnd copy hand.frame hand.incomplete s) =
      { s with repair := repairAfterFrame copy hand s.repair, notices := noticesAfterFrame copy hand s.repair s.notices } := by
  unfold repairFrameEnd repairAfterFrame noticesAfterFrame
  simp only [setRecord_eq, fillBuffer_eq, closeRecord_eq]
  cases copy.fields.irOn with
  | false =>
    rcases s.repair.lastWritten with _ | (_ | _) <;> rfl
  | true =>
    simp only [↓reduceIte, raiseTimes_scratchFull]
    rcases s.repair.lastWritten with _ | (_ | _) <;> rfl

section
variable {s : State} {hand : RepairedHand} {copy : RepairCopy}

theorem settleObligations_standing (passing : s.repair.mode = .passing hand) (standing : ¬(hand.taken = true ∧ hand.written = true)) :
    settleObligations s = s := by
  unfold settleObligations
  rw [passing]
  cases s.repair.copy with
  | none => rfl
  | some copy => exact if_neg standing

theorem settleObligations_more (passing : s.repair.mode = .passing hand) (copied : s.repair.copy = some copy)
    (ended : hand.taken = true ∧ hand.written = true) (more : hand.j + 1 < copy.hOut) :
    settleObligations s = { s with repair := { s.repair with mode := .waiting } } := by
  simp only [settleObligations, passing, copied, ended, more, and_self, ↓reduceIte]
  rfl

theorem settleObligations_last (passing : s.repair.mode = .passing hand) (copied : s.repair.copy = some copy)
    (ended : hand.taken = true ∧ hand.written = true) (last : copy.hOut ≤ hand.j + 1) :
    settleObligations s =
      { s with repair := repairAfterFrame copy hand s.repair, notices := noticesAfterFrame copy hand s.repair s.notices } := by
  simp only [settleObligations, passing, copied, ended, Nat.not_lt_of_le last, and_self, ↓reduceIte]
  exact repairFrameEnd_waiting copy hand s

end

/-- Settling obligations changes the Repair Engine and the notices alone. -/
theorem settleObligations_changes (s : State) : ∃ r n, settleObligations s = { s with repair := r, notices := n } := by
  unfold settleObligations
  split
  · rename_i hand copy _ _
    split
    · split
      · exact ⟨_, _, rfl⟩
      · exact ⟨_, _, repairFrameEnd_waiting copy hand s⟩
    · exact ⟨_, _, rfl⟩
  · exact ⟨_, _, rfl⟩

/-! ## REFERENCE_WRITE_COMPLETE -/

/-- The stored pixel of a record: its fourth word is 1 for UNREPAIRED (R60). -/
def recordPixel (x : RefRecord) : Pixel := ⟨x.rgb.r, x.rgb.g, x.rgb.b, if x.unrepaired = true then 1#16 else 0#16⟩

theorem flatMap_recordBytes (records : List RefRecord) :
    records.flatMap recordBytes = (records.map recordPixel).flatMap pixelBytes := by
  rw [List.flatMap_map]
  rfl

theorem exec_referenceWriteComplete {s : State} {address : Nat} {records : List RefRecord} {unreported : Bool}
    (channel : s.frameMemory.channel = some (.referenceWrite address records unreported))
    (inside : address + 8 * records.length ≤ s.frameMemory.size) :
    exec .referenceWriteComplete s =
      if unreported = true then done (stored s address ((records.map recordPixel).flatMap pixelBytes))
      else done (lineStored (stored s address ((records.map recordPixel).flatMap pixelBytes))) := by
  change execReferenceWriteComplete s = _
  rw [execReferenceWriteComplete, channel, ← flatMap_recordBytes]
  exact if_pos (decide_eq_true inside)

theorem lineStored_changes (s : State) : ∃ r n, lineStored s = { s with repair := r, notices := n } := by
  unfold lineStored
  split
  · obtain ⟨r, n, is_⟩ := settleObligations_changes (setRepair { s.repair with mode := .passing { ‹RepairedHand› with written := true } } s)
    exact ⟨r, n, is_⟩
  · exact ⟨_, _, rfl⟩

/-- R92: the Repair Engine's own obligation has ended. -/
def markWritten (hand : RepairedHand) (s : State) : State :=
  { s with repair := { s.repair with mode := .passing { hand with written := true } } }

theorem lineStored_eq {s : State} {hand : RepairedHand} (passing : s.repair.mode = .passing hand) :
    lineStored s = settleObligations (markWritten hand s) := by
  rw [lineStored, passing]
  rfl

/-- Settles O54. -/
theorem referenceWriteCompletes : Obligations.ReferenceWriteCompletes := by
  intro s address records unreported channel inside
  set px := records.map recordPixel with pixels
  have length : px.length = records.length := List.length_map ..
  obtain ⟨elsewhere, readBack⟩ := stored_bytes s address px
  rw [length] at elsewhere readBack
  have runs := exec_referenceWriteComplete channel inside
  rw [← pixels] at runs
  set v := stored s address (px.flatMap pixelBytes) with storedDef
  obtain ⟨r, n, ends, silent, told⟩ : ∃ r n, exec .referenceWriteComplete s = .next (settleStall { v with repair := r, notices := n })
      ∧ (unreported = true → r = s.repair ∧ n = s.notices)
      ∧ ∀ hand copy, unreported = false → s.repair.mode = .passing hand → s.repair.copy = some copy →
          (hand.taken = false → r = { s.repair with mode := .passing { hand with written := true } } ∧ n = s.notices)
          ∧ (hand.taken = true → hand.j + 1 < copy.hOut → r = { s.repair with mode := .waiting } ∧ n = s.notices)
          ∧ (hand.taken = true → copy.hOut ≤ hand.j + 1 →
              r = repairAfterFrame copy hand s.repair ∧ n = noticesAfterFrame copy hand s.repair s.notices) := by
    cases unreported with
    | true => exact ⟨_, _, runs, fun _ => ⟨rfl, rfl⟩, nofun⟩
    | false =>
      obtain ⟨r, n, is_⟩ := lineStored_changes v
      rw [if_neg Bool.false_ne_true, is_] at runs
      refine ⟨r, n, runs, nofun, fun hand copy _ passing copied => ?_⟩
      have settles := (lineStored_eq (s := v) passing).symm.trans is_
      refine ⟨fun untaken => ?_, fun taken more => ?_, fun taken last => ?_⟩
      · have kept := settleObligations_standing (s := markWritten hand v) rfl (by simp [untaken])
        exact ⟨congrArg State.repair (settles.symm.trans kept), congrArg State.notices (settles.symm.trans kept)⟩
      · have waits := settleObligations_more (s := markWritten hand v) rfl copied ⟨taken, rfl⟩ more
        exact ⟨congrArg State.repair (settles.symm.trans waits), congrArg State.notices (settles.symm.trans waits)⟩
      · have closes := settleObligations_last (s := markWritten hand v) rfl copied ⟨taken, rfl⟩ last
        exact ⟨congrArg State.repair (settles.symm.trans closes), congrArg State.notices (settles.symm.trans closes)⟩
  rw [settleStall_changes] at ends
  refine ⟨_, ends, rfl, elsewhere, readBack, silent, told, rfl, rfl, rfl, rfl, rfl, rfl, rfl, rfl, rfl, rfl, rfl⟩

/-! ## The frame start at the Grading Engine (R125 to R128) -/

/-- R125: what collection leaves, and the cues superseded. -/
theorem collectCues_eq (n : Nat) (splice : Bool) (cues : List FrameCue) (spliceCues : List SpliceCue) :
    let due := cues.filter (fun x => x.trigger ≤ n)
    collectCues n splice cues spliceCues =
      { cues := cues.filter (fun x => n < x.trigger), spliceCues := if splice = true then spliceCues.tail else spliceCues,
        candidate := (match due.getLast? with
          | some x => some ⟨.frame x.trigger, x.set, x.d⟩
          | none => if splice = true then spliceCues.head?.map (fun x => ⟨.splice, x.set, x.d⟩) else none),
        superseded := due.length - 1 + if due ≠ [] ∧ splice = true ∧ spliceCues ≠ [] then 1 else 0 } := by
  intro due
  have frame : frameCandidate n cues = due.getLast?.map (fun c => ⟨.frame c.trigger, c.set, c.d⟩) := rfl
  unfold collectCues
  rw [frame]
  cases last : due.getLast? with
  | none =>
    have nothing : due = [] := List.getLast?_eq_none_iff.mp last
    cases splice with
    | false => simp only [nothing, Option.map_none]; rfl
    | true => cases spliceCues <;> simp only [nothing, Option.map_none] <;> rfl
  | some x =>
    have something : due ≠ [] := by rintro empty; rw [empty] at last; nomatch last
    cases splice with
    | false => simp [due]
    | true => cases spliceCues <;> simp [due, something]

/-- The candidate of a frame start as its triple: how it fired, its set, its D. -/
def Candidature.triple (x : Candidature) : FiredCue × Fin 4 × Nat := (x.fired, x.set, x.d)

theorem canBeUsed_iff (st : SetState) : canBeUsed st = true ↔ st = .ready ∨ st = .inUse := by cases st <;> decide

/-- The grading block with its cues collected and its accumulators cleared (R125, R130). -/
def collected (n : Nat) (splice : Bool) (g : Grading) : Grading :=
  let col := collectCues n splice g.cues g.spliceCues
  { g with
    cues := col.cues, spliceCues := col.spliceCues, accumulators := ⟨0, 0, 0, 0⟩,
    counters := { g.counters with superseded := satAdd g.counters.superseded col.superseded } }

section
variable {n : Nat} {splice : Bool} {g : Grading} {x : Candidature}

theorem frameStart_without (nothing : (collectCues n splice g.cues g.spliceCues).candidate = none) :
    frameStartGrading n splice g = settleSets (collected n splice g) ∧ frameStartMisses n splice g = false := by
  simp only [frameStartGrading, frameStartMisses, nothing, Option.isSome_none, Bool.false_and, and_true]
  rfl

theorem frameStart_missing (found : (collectCues n splice g.cues g.spliceCues).candidate = some x)
    (unusable : g.sets[x.set].state = .empty ∨ g.sets[x.set].state = .loading) :
    frameStartGrading n splice g =
        settleSets
          { collected n splice g with
            counters := { (collected n splice g).counters with misses := satAdd g.counters.misses 1 } }
      ∧ frameStartMisses n splice g = true := by
  have unused : canBeUsed g.sets[x.set].state = false := by
    rcases unusable with h | h <;> rw [h] <;> rfl
  have missed : applicable g (some x) = none := by simpa [applicable, Option.filter] using unused
  constructor
  · unfold frameStartGrading
    simp only [found]
    have missed' : applicable (collected n splice g) (some x) = none := missed
    unfold collected at missed' ⊢
    dsimp only at missed' ⊢
    rw [missed']
  · simp [frameStartMisses, found, missed]

theorem frameStart_applying (found : (collectCues n splice g.cues g.spliceCues).candidate = some x)
    (usable : g.sets[x.set].state = .ready ∨ g.sets[x.set].state = .inUse) :
    frameStartGrading n splice g =
        settleSets
          { collected n splice g with
            current := (applyCue x.set x.d g.current g.dissolve).1, dissolve := (applyCue x.set x.d g.current g.dissolve).2,
            counters := { (collected n splice g).counters with applied := satAdd g.counters.applied 1 } }
      ∧ frameStartMisses n splice g = false := by
  have used : canBeUsed g.sets[x.set].state = true := (canBeUsed_iff _).mpr usable
  have applies : applicable g (some x) = some x := by simpa [applicable, Option.filter] using used
  constructor
  · unfold frameStartGrading
    simp only [found]
    have applies' : applicable (collected n splice g) (some x) = some x := applies
    unfold collected at applies' ⊢
    dsimp only at applies' ⊢
    rw [applies']
  · simp [frameStartMisses, found, applies]

end

/-- R127, steps 3 and 4. -/
theorem applyCue_eq (set : Fin 4) (d : Nat) (current : Option (Fin 4)) (dissolve : Option Dissolve) :
    let standing := match dissolve with
      | some x => some x.target
      | none => current
    (d = 0 ∨ standing = some set → applyCue set d current dissolve = (some set, none))
      ∧ (¬(d = 0 ∨ standing = some set) → applyCue set d current dissolve = (standing, some ⟨set, d, 0⟩)) :=
  ⟨fun at_once => if_pos at_once, fun gradual => if_neg gradual⟩

theorem settleSets_eq (g : Grading) : settleSets g = { g with sets := (settleSets g).sets } := rfl

/-- R127, R111: the sets follow the current set and the target set. -/
theorem settleSets_from {g g' : Grading} (sets : g'.sets = g.sets) :
    setsFollow g'.current (g'.dissolve.map (·.target)) g (settleSets g') := by
  have follow := settleSets_follow g'
  intro k
  rw [follow k, sets]

/-- What a frame start leaves, from the grading block it settles. -/
theorem gradingFrameStart_eq (c : FrameContext) (s : State) :
    let g := frameStartGrading c.frame c.splice s.grading
    let miss := frameStartMisses c.frame c.splice s.grading
    gradingFrameStart c s =
      { s with
        grading := g, notices := if miss = true then setNotice s.notices .gradeMiss (occur s.notices.gradeMiss) else s.notices,
        contexts := changeContext c.frame
          (fun x =>
            { x with
              currentSet := g.current, targetSet := g.dissolve.map (·.target),
              weight := (match g.dissolve with
                | some y => 256 * (y.k + 1) / (y.d + 1)
                | none => 0),
              firedCue := ((collectCues c.frame c.splice s.grading.cues s.grading.spliceCues).candidate).map (·.fired),
              gradeMiss := miss }) s.contexts } := by
  intro g miss
  have weight (d : Option Dissolve) : dissolveWeight d = (match d with
      | some y => 256 * (y.k + 1) / (y.d + 1)
      | none => 0) := by cases d <;> rfl
  rw [← weight]
  unfold gradingFrameStart raiseIf
  cases missed : frameStartMisses c.frame c.splice s.grading with
  | false =>
    simp only [miss, missed]
    rfl
  | true =>
    simp only [miss, missed]
    rfl

/-- The frame start in its four outcomes: no candidate, a missed one, and an applied one at once or in a dissolve. -/
theorem frameStart_outcome {n : Nat} {splice : Bool} {g : Grading} {cand : Option Candidature} {miss : Bool} {current : Option (Fin 4)}
    {dissolve : Option Dissolve} (found : (collectCues n splice g.cues g.spliceCues).candidate = cand) :
    let standing := match g.dissolve with
      | some x => some x.target
      | none => g.current
    ((cand = none ∧ miss = false ∧ current = g.current ∧ dissolve = g.dissolve)
      ∨ ∃ x, cand = some x
          ∧ ((g.sets[x.set].state = .empty ∨ g.sets[x.set].state = .loading)
              ∧ miss = true ∧ current = g.current ∧ dissolve = g.dissolve
            ∨ (g.sets[x.set].state = .ready ∨ g.sets[x.set].state = .inUse)
              ∧ miss = false
              ∧ ((x.d = 0 ∨ standing = some x.set) ∧ current = some x.set ∧ dissolve = none
                ∨ ¬(x.d = 0 ∨ standing = some x.set) ∧ current = standing ∧ dissolve = some ⟨x.set, x.d, 0⟩))) →
      frameStartMisses n splice g = miss
        ∧ frameStartGrading n splice g =
            settleSets
              { collected n splice g with
                current := current, dissolve := dissolve,
                counters :=
                  { applied := if cand ≠ none ∧ miss = false then satAdd g.counters.applied 1 else g.counters.applied,
                    superseded := satAdd g.counters.superseded (collectCues n splice g.cues g.spliceCues).superseded,
                    misses := if miss = true then satAdd g.counters.misses 1 else g.counters.misses } } := by
  intro standing which
  rcases which with ⟨rfl, rfl, rfl, rfl⟩ | ⟨x, rfl, ⟨unusable, rfl, rfl, rfl⟩ | ⟨usable, rfl, after⟩⟩
  · obtain ⟨starts, misses⟩ := frameStart_without found
    exact ⟨misses, starts⟩
  · obtain ⟨starts, misses⟩ := frameStart_missing found unusable
    exact ⟨misses, starts⟩
  · obtain ⟨starts, misses⟩ := frameStart_applying found usable
    obtain ⟨atOnce, gradual⟩ := applyCue_eq x.set x.d g.current g.dissolve
    refine ⟨misses, starts.trans ?_⟩
    rcases after with ⟨now, rfl, rfl⟩ | ⟨later, rfl, rfl⟩
    · rw [atOnce now]
      rfl
    · rw [gradual later]
      rfl

/-- Settles O55. -/
theorem gradingFrameStarts : Obligations.GradingFrameStarts := by
  intro s c cand miss current dissolve due standing cand_eq which t
  have col := collectCues_eq c.frame c.splice s.grading.cues s.grading.spliceCues
  set x := (collectCues c.frame c.splice s.grading.cues s.grading.spliceCues).candidate with candidate
  have triple : cand = x.map Candidature.triple := by
    rw [cand_eq, candidate, col]
    cases due.getLast? with
    | some y => rfl
    | none =>
      cases c.splice with
      | false => rfl
      | true => cases s.grading.spliceCues <;> rfl
  have superseded : (collectCues c.frame c.splice s.grading.cues s.grading.spliceCues).superseded =
      due.length - 1 + if due ≠ [] ∧ c.splice = true ∧ s.grading.spliceCues ≠ [] then 1 else 0 := by rw [col]
  have cues : collected c.frame c.splice s.grading =
      { s.grading with
        cues := s.grading.cues.filter (fun x => c.frame < x.trigger),
        spliceCues := if c.splice = true then s.grading.spliceCues.tail else s.grading.spliceCues, accumulators := ⟨0, 0, 0, 0⟩,
        counters := (collected c.frame c.splice s.grading).counters } := by
    rw [collected, col]
  have absent : cand = none ↔ x = none := by rw [triple, Option.map_eq_none_iff]
  have fired : cand.map (·.1) = x.map (·.fired) := by rw [triple, Option.map_map]; rfl
  obtain ⟨misses, starts⟩ := frameStart_outcome (g := s.grading) (miss := miss) (current := current) (dissolve := dissolve)
    candidate.symm (by
      rcases which with ⟨nothing, others⟩ | ⟨how, set, d, found, others⟩
      · exact .inl ⟨absent.mp nothing, others⟩
      · right
        rw [triple, Option.map_eq_some_iff] at found
        obtain ⟨y, held, parts⟩ := found
        cases parts
        exact ⟨y, held, others⟩)
  have whole : t = _ := gradingFrameStart_eq c s
  rw [misses, starts, cues, superseded] at whole
  simp only [ne_eq, ← absent, candidate.symm, ← fired] at whole
  rw [whole]
  refine ⟨?_, settleSets_from rfl, rfl, rfl, rfl, rfl⟩
  rfl

/-! ## GRADING_TAKE_LINE (R92, R124, R130) -/

theorem changeContext_changeContext (n : Nat) {f : FrameContext → FrameContext} (g : FrameContext → FrameContext) (keeps : KeepsFrame f)
    (cs : List FrameContext) : changeContext n g (changeContext n f cs) = changeContext n (fun c => g (f c)) cs := by
  rw [changeContext, changeContext, List.map_map]
  refine List.map_congr_left fun c _ => ?_
  by_cases own : c.frame = n
  · simp only [Function.comp_apply, own, keeps c, ↓reduceIte]
  · simp only [Function.comp_apply, own, ↓reduceIte]

/-- The line graded as it was received. -/
theorem gradeLine_eq (g : Grading) (now : Fin 4) (px : List Rgb) :
    gradeLine g now px = px.map (fun q => match g.dissolve with
      | none => gradePixel g.sets[now] none 0 q
      | some d => gradePixel g.sets[now] (some g.sets[d.target]) (256 * (d.k + 1) / (d.d + 1)) q) := by
  rw [gradeLine]
  cases g.dissolve <;> rfl

/-- R124, steps 2 to 4. -/
theorem gradeInHand_eq (w h : Nat) (now : Fin 4) (hand : RepairedHand) (s : State) :
    let px := hand.records.map (·.rgb)
    let graded := gradeLine s.grading now px
    let acc := accumulate px graded s.grading.accumulators
    gradeInHand (w, h) now hand s =
      { s with
        contexts := changeContext hand.frame
          (fun c =>
            if hand.j + 1 = h then
              { c with
                clipped := acc.clipped, meanR := acc.sumR / (w * h), meanG := acc.sumG / (w * h), meanB := acc.sumB / (w * h) }
            else { c with clipped := acc.clipped }) s.contexts,
        grading :=
          { s.grading with
            accumulators := acc,
            mode := .placing
              ⟨hand.frame, hand.j, graded.map (·.px),
                (if hand.j = 0 then [.head] else []) ++ [.lineOut] ++ (if hand.j + 1 = h then [.tail] else [])⟩ } } := by
  intro px graded acc
  unfold gradeInHand
  by_cases last : hand.j + 1 = h
  · simp only [last, ↓reduceIte, owedPackets, writeContext, setGrading]
    rw [changeContext_changeContext]
    · rfl
    · exact fun _ => rfl
  · simp only [last, ↓reduceIte, owedPackets]
    rfl

theorem exec_gradingTakeLine {s : State} {hand : RepairedHand} {raster : Nat × Nat} (waiting : s.grading.mode = .waiting)
    (passing : s.repair.mode = .passing hand) (untaken : hand.taken = false) (rastered : s.grading.raster = some raster)
    (current : s.grading.current ≠ none) : exec .gradingTakeLine s = done (takeRepaired raster hand s) := by
  obtain ⟨now, current⟩ := Option.ne_none_iff_exists'.mp current
  change execGradingTakeLine s = _
  simp only [execGradingTakeLine, waiting, passing, rastered, current, untaken]
  rfl

/-- R127: a frame start leaves a current set where there is one. -/
theorem gradingFrameStart_current {s : State} (c : FrameContext) (current : s.grading.current ≠ none) :
    (gradingFrameStart c s).grading.current ≠ none := by
  rw [gradingFrameStart_eq]
  change (frameStartGrading c.frame c.splice s.grading).current ≠ none
  cases found : (collectCues c.frame c.splice s.grading.cues s.grading.spliceCues).candidate with
  | none =>
    rw [(frameStart_without found).1]
    exact current
  | some x =>
    cases state : canBeUsed s.grading.sets[x.set].state with
    | false =>
      rw [(frameStart_missing found (by revert state; cases s.grading.sets[x.set].state <;> decide)).1]
      exact current
    | true =>
      rw [(frameStart_applying found ((canBeUsed_iff _).mp state)).1]
      obtain ⟨atOnce, gradual⟩ := applyCue_eq x.set x.d s.grading.current s.grading.dissolve
      change (applyCue x.set x.d s.grading.current s.grading.dissolve).1 ≠ none
      by_cases now : x.d = 0 ∨ (match s.grading.dissolve with
          | some x => some x.target
          | none => s.grading.current) = some x.set
      · rw [atOnce now]
        exact Option.some_ne_none _
      · rw [gradual now]
        cases s.grading.dissolve with
        | none => exact current
        | some y => exact Option.some_ne_none _

theorem repair_notices_eq {v w : State} {r : Repair} {n : NoticeUnit} (same : { v with repair := r, notices := n } = w) :
    r = w.repair ∧ n = w.notices := by
  subst same
  exact ⟨rfl, rfl⟩

/-- Settles O56. -/
theorem gradingTakesLine : Obligations.GradingTakesLine := by
  refine ⟨fun s u hand w h now waiting passing untaken rastered current start running => ?_, fun s c => gradingFrameStart_current c⟩
  intro px graded acc
  obtain ⟨begins, g, n, cs, begun⟩ : startGradingAt hand s = u ∧ ∃ g n cs, u = { s with grading := g, notices := n, contexts := cs } := by
    rcases start with ⟨later, rfl⟩ | ⟨first, c, found, rfl⟩
    · exact ⟨if_neg (by omega), _, _, _, rfl⟩
    · refine ⟨?_, _, _, _, gradingFrameStart_eq c s⟩
      rw [startGradingAt, if_pos first, found]
  have graded_eq : gradeLine u.grading now px = graded := gradeLine_eq _ _ _
  have runs := exec_gradingTakeLine waiting passing untaken rastered current
  set v : State :=
    { markTaken hand u with
      contexts := changeContext hand.frame
        (fun c =>
          if hand.j + 1 = h then
            { c with
              clipped := acc.clipped, meanR := acc.sumR / (w * h), meanG := acc.sumG / (w * h), meanB := acc.sumB / (w * h) }
          else { c with clipped := acc.clipped }) u.contexts,
      grading :=
        { u.grading with
          accumulators := acc,
          mode := .placing
            ⟨hand.frame, hand.j, graded.map (·.px),
              (if hand.j = 0 then [.head] else []) ++ [.lineOut] ++ (if hand.j + 1 = h then [.tail] else [])⟩ } } with measured
  have inHand : gradeInHand (w, h) now hand (markTaken hand u) = v := by
    rw [gradeInHand_eq]
    rw [show (markTaken hand u).grading = u.grading from rfl, graded_eq]
    rfl
  have takes : takeRepaired (w, h) hand s = settleObligations v := by
    rw [takeRepaired, begins, running, ← inHand]
  obtain ⟨r, m, changes⟩ := settleObligations_changes v
  rw [takes, changes, done, settleStall_changes] at runs
  subst begun
  refine ⟨_, runs, rfl, rfl, fun unwritten => ?_, fun copy written copied => ⟨fun more => ?_, fun last => ?_⟩,
    rfl, rfl, rfl, rfl, rfl, rfl, rfl, rfl, rfl, rfl⟩
  · have kept := settleObligations_standing (s := v) (hand := { hand with taken := true }) rfl (by simp [unwritten])
    exact repair_notices_eq (changes.symm.trans kept)
  · have waits := settleObligations_more (s := v) (hand := { hand with taken := true }) rfl copied ⟨rfl, written⟩ more
    exact repair_notices_eq (changes.symm.trans waits)
  · have closes := settleObligations_last (s := v) (hand := { hand with taken := true }) rfl copied ⟨rfl, written⟩ last
    exact repair_notices_eq (changes.symm.trans closes)

end Sys2Proof.Machine
end

section
/-! O46: a frame is cut. -/

namespace Sys2Proof.Machine

/-! ## Clamps (R35, R37) -/

theorem appliedWeave_eq (h : Int) :
    (appliedWeave h).1 = max (-1024) (min h 1024) ∧ ((appliedWeave h).2 = true ↔ (appliedWeave h).1 ≠ h) := by
  unfold appliedWeave clampInt
  split
  · simp only [true_iff]
    omega
  · split
    · simp only [true_iff]
      omega
    · simp only [Bool.false_eq_true, ne_eq, not_true_eq_false, and_true]
      omega

theorem appliedShrink_eq (n : Nat) :
    (appliedShrink n).1 = max 62259 (min n 66191) ∧ ((appliedShrink n).2 = true ↔ (appliedShrink n).1 ≠ n) := by
  unfold appliedShrink clampNat
  split
  · simp only [true_iff]
    omega
  · split
    · simp only [true_iff]
      omega
    · simp only [Bool.false_eq_true, ne_eq, not_true_eq_false, and_true]
      omega

/-- R37: the H of the pending top. -/
theorem pendingWeave_eq (t : Tracker) (top : PendingTop) :
    let n : Int := top.tally.received
    pendingWeave t top = (match t.fields with
      | some f => if n = 0 then t.lastH else (top.tally.sum - n * f.referenceEdge + n / 2) / n
      | none => t.lastH) := by
  unfold pendingWeave weaveOf
  cases t.fields with
  | none => rfl
  | some f =>
    by_cases nothing : top.tally.received = 0
    · simp [nothing]
    · simp [nothing]

theorem takesMark_iff (mark : Option Nat) (top : Nat) : takesMark mark top = true ↔ ∃ m, mark = some m ∧ m ≤ top := by
  cases mark <;> simp [takesMark]

/-! ## The states that a cut passes through (R39, R80) -/

theorem takeIfIdle_other {s : State} (busy : s.conformance.mode ≠ .idle) : takeIfIdle s = s := by
  unfold takeIfIdle
  split
  · exact absurd ‹_› busy
  · rfl

theorem takeIfIdle_idle {s : State} (idle : s.conformance.mode = .idle) : takeIfIdle s = takeFrame s := by
  rw [takeIfIdle, idle]

/-- CLAMP, once for each clamp that took effect. -/
def clampNotices (shrink weave : Bool) (u : NoticeUnit) : NoticeUnit :=
  let once := if shrink = true then setNotice u .clamp (occur u.clamp) else u
  if weave = true then setNotice once .clamp (occur once.clamp) else once

theorem raiseIf_clamps (shrink weave : Bool) (s : State) :
    raiseIf weave .clamp (raiseIf shrink .clamp s) = { s with notices := clampNotices shrink weave s.notices } := by
  cases shrink <;> cases weave <;> rfl

theorem clampNotices_cases (shrink weave : Bool) (u : NoticeUnit) :
    (shrink = false → weave = false → clampNotices shrink weave u = u)
      ∧ (shrink ≠ weave → clampNotices shrink weave u = setNotice u .clamp (occur u.clamp))
      ∧ (shrink = true → weave = true → clampNotices shrink weave u = setNotice u .clamp (occur (occur u.clamp))) := by
  cases shrink <;> cases weave <;> refine ⟨?_, ?_, ?_⟩ <;> simp [clampNotices, setNotice]

section
variable {s : State} {at_ : CutState} {extra : Nat} {top : PendingTop}

theorem cutFrame_none (nothing : s.tracker.pendingTop = none) : cutFrame at_ extra s = s := by
  rw [cutFrame, nothing]

/-- The context that a cut creates. -/
def cutContext (s : State) (top : PendingTop) (at_ : CutState) (extra : Nat) : FrameContext :=
  newContext s top at_ (synthCount top.status + extra)

theorem cutFrame_room (pending : s.tracker.pendingTop = some top) (room : s.contexts.length < 32) :
    cutFrame at_ extra s = takeIfIdle
      { s with
        tracker := afterCut s.tracker top, contexts := s.contexts ++ [cutContext s top at_ extra],
        notices := clampNotices (cutContext s top at_ extra).shrinkClamp (cutContext s top at_ extra).weaveClamp s.notices } := by
  have cuts : cutFrame at_ extra s =
      if s.contexts.length < 32 then
        takeIfIdle (raiseIf (cutContext s top at_ extra).weaveClamp .clamp (raiseIf (cutContext s top at_ extra).shrinkClamp .clamp
          { s with tracker := afterCut s.tracker top, contexts := s.contexts ++ [cutContext s top at_ extra] }))
      else loseFrames 1 (setTracker (afterCut s.tracker top) s) := by
    rw [cutFrame, pending]
    rfl
  rw [cuts, if_pos room, raiseIf_clamps]

theorem cutFrame_full (pending : s.tracker.pendingTop = some top) (full : 32 ≤ s.contexts.length) :
    cutFrame at_ extra s =
      { s with
        tracker :=
          { afterCut s.tracker top with
            counters := { s.tracker.counters with framesLost := satAdd s.tracker.counters.framesLost 1 } },
        notices := setNotice s.notices .framesLost (occur s.notices.framesLost) } := by
  rw [cutFrame, pending]
  exact if_neg (Nat.not_lt_of_le full)

theorem cutFrame_room_tracker (pending : s.tracker.pendingTop = some top) (room : s.contexts.length < 32) :
    (cutFrame at_ extra s).tracker = afterCut s.tracker top
      ∧ (cutFrame at_ extra s).notices =
          clampNotices (cutContext s top at_ extra).shrinkClamp (cutContext s top at_ extra).weaveClamp s.notices := by
  rw [cutFrame_room pending room]
  set u : State :=
    { s with
      tracker := afterCut s.tracker top, contexts := s.contexts ++ [cutContext s top at_ extra],
      notices := clampNotices (cutContext s top at_ extra).shrinkClamp (cutContext s top at_ extra).weaveClamp s.notices } with cut
  have same := takeIfIdle_outside u
  simp only [outsideConformance, Prod.mk.injEq] at same
  obtain ⟨-, -, -, tracker, -, -, -, -, -, -, notices, -⟩ := same
  exact ⟨tracker, notices⟩

/-- The Tracker after a cut, but for its counters. -/
theorem cutFrame_tracker (pending : s.tracker.pendingTop = some top) :
    (cutFrame at_ extra s).tracker = { afterCut s.tracker top with counters := (cutFrame at_ extra s).tracker.counters } := by
  by_cases room : s.contexts.length < 32
  · rw [(cutFrame_room_tracker pending room).1]
  · rw [cutFrame_full pending (Nat.le_of_not_lt room)]

end

/-- Settles O46. -/
theorem frameIsCut : Obligations.FrameIsCut := by
  refine ⟨fun s at_ extra => cutFrame_none, fun s at_ extra top pending => ?_⟩
  intro t n h marked
  have weave : pendingWeave s.tracker top = h := pendingWeave_eq _ _
  obtain ⟨weaveHeld, weaveMark⟩ := appliedWeave_eq h
  obtain ⟨shrinkHeld, shrinkMark⟩ := appliedShrink_eq s.tracker.shrink
  have mark : takesMark s.tracker.spliceMark top.position = true ↔ marked := takesMark_iff _ _
  have tracker : t.tracker = { afterCut s.tracker top with counters := t.tracker.counters } := cutFrame_tracker pending
  have lastH : (appliedWeave (pendingWeave s.tracker top)).1 = max (-1024) (min h 1024) := by rw [weave, weaveHeld]
  have taken : t.tracker.frameCounter = s.tracker.frameCounter + 1 ∧ t.tracker.pendingTop = none
      ∧ t.tracker.lastH = max (-1024) (min h 1024) ∧ t.tracker.lastCut = some ⟨top.position, s.tracker.frameCounter⟩
      ∧ t.tracker =
          { s.tracker with
            frameCounter := t.tracker.frameCounter, pendingTop := none, lastH := t.tracker.lastH, lastCut := t.tracker.lastCut,
            spliceMark := t.tracker.spliceMark, counters := t.tracker.counters }
      ∧ (marked → t.tracker.spliceMark = none) ∧ (¬marked → t.tracker.spliceMark = s.tracker.spliceMark) := by
    rw [tracker]
    exact ⟨rfl, rfl, lastH, rfl, rfl, fun m => if_pos (mark.mpr m), fun m => if_neg (mt mark.mp m)⟩
  obtain ⟨counter, free, kept, last, frame, consumed, stands⟩ := taken
  refine ⟨counter, free, kept, last, frame, consumed, stands, fun room => ?_, fun full => ?_⟩
  · obtain ⟨cut, notices⟩ := cutFrame_room_tracker (at_ := at_) (extra := extra) pending room
    have cut : t.tracker = afterCut s.tracker top := cut
    set c := cutContext s top at_ extra with context
    set u : State := { s with tracker := t.tracker, notices := t.notices, contexts := s.contexts ++ [c] } with before
    have is_ : t = takeIfIdle u := by
      rw [before, cut, show t.notices = _ from notices]
      exact cutFrame_room pending room
    obtain ⟨none_, one, two⟩ := clampNotices_cases c.shrinkClamp c.weaveClamp s.notices
    rw [← notices] at none_ one two
    have held : c.appliedH = max (-1024) (min h 1024) := lastH
    have weaveFlag : c.weaveClamp = true ↔ c.appliedH ≠ h := by
      have : c.weaveClamp = (appliedWeave h).2 := congrArg (fun z => (appliedWeave z).2) weave
      rw [this, weaveMark, held, weaveHeld]
    refine ⟨by rw [cut]; rfl, c, u, rfl, fun busy => ?_, fun copy first x after idle copied queue ended unfinished live => ?_,
      fun idle uncopied => ?_, rfl, rfl, rfl, rfl, rfl, mark, shrinkHeld, shrinkMark, held, weaveFlag, rfl, fun copy copied => ?_,
      rfl, rfl, rfl, rfl, rfl, rfl, rfl, rfl, rfl, rfl, rfl, rfl, rfl, rfl, rfl, rfl, rfl, rfl, rfl, none_, one, two⟩
    · rw [is_]
      exact takeIfIdle_other (s := u) busy
    · rw [is_, takeIfIdle_idle (s := u) idle]
      exact takeFrame_of_some (s := u) (oldestUnfinished_eq_some queue unfinished live ended) copied
    · rw [is_, takeIfIdle_idle (s := u) idle, takeFrame_of_uncopied (s := u) uncopied, engineFreed, ← idle]
    · have needed : c.lastNeeded = creationLastNeeded s top.position c.appliedS := rfl
      rw [needed, creationLastNeeded, copied]
      rfl
  · have is_ : t = _ := cutFrame_full pending full
    rw [is_]
    exact ⟨rfl, rfl, rfl, rfl⟩

end Sys2Proof.Machine
end

section
/-! The Frame Tracker's samples: the perforation filter, the Perf Window, and a line record in its four steps. -/

namespace Sys2Proof.Machine

section
variable {s : State} {f : TrackingFields}

/-! ## The filter (R19, R20) -/

theorem filterSample_settled {g : Filter} {v : Bool} {pos : Nat} (level : g.level = levelOf v) :
    filterSample g v pos = (⟨g.level, none⟩, none) := by
  rw [filterSample, if_pos level]

theorem filterSample_short {g : Filter} {v : Bool} {pos : Nat} (level : g.level ≠ levelOf v)
    (short : (extendRun g.run v pos).length < 3) :
    filterSample g v pos = (⟨g.level, some (extendRun g.run v pos)⟩, none) := by
  rw [filterSample, if_neg level, if_neg (Nat.not_le_of_lt short)]

theorem filterSample_third {g : Filter} {v : Bool} {pos : Nat} (level : g.level ≠ levelOf v)
    (third : 3 ≤ (extendRun g.run v pos).length) :
    filterSample g v pos =
      (⟨levelOf v, none⟩, if g.level = .undefined then none else some ⟨v, (extendRun g.run v pos).first⟩) := by
  rw [filterSample, if_neg level, if_pos third]

/-- A defined level that is not a value's is that of the other value. -/
theorem eq_levelOf_not {level : Level} {v : Bool} (defined : level ≠ .undefined) (other : level ≠ levelOf v) :
    level = levelOf (!v) := by
  cases level with
  | undefined => exact absurd rfl defined
  | low => cases v with
    | false => exact absurd rfl other
    | true => rfl
  | high => cases v with
    | false => rfl
    | true => exact absurd rfl other

theorem undefined_ne_levelOf (v : Bool) : Level.undefined ≠ levelOf v := by cases v <;> decide

theorem extendRun_same (v : Bool) (n first pos : Nat) : extendRun (some ⟨v, n, first⟩) v pos = ⟨v, n + 1, first⟩ :=
  if_pos rfl

theorem extendRun_other (v : Bool) (n first pos : Nat) : extendRun (some ⟨v, n, first⟩) (!v) pos = ⟨!v, 1, pos⟩ :=
  if_neg (Bool.eq_not_self v).mp

theorem filterSample_first {level : Level} {v : Bool} (other : level ≠ levelOf v) (p : Nat) :
    filterSample ⟨level, none⟩ v p = (⟨level, some ⟨v, 1, p⟩⟩, none) :=
  filterSample_short other (show 1 < 3 by decide)

theorem filterSample_second {level : Level} {v : Bool} (other : level ≠ levelOf v) (p q : Nat) :
    filterSample ⟨level, some ⟨v, 1, p⟩⟩ v q = (⟨level, some ⟨v, 2, p⟩⟩, none) := by
  have run : extendRun (some ⟨v, 1, p⟩) v q = ⟨v, 2, p⟩ := extendRun_same v 1 p q
  rw [filterSample_short other (by rw [run]; exact (by decide : 2 < 3)), run]

theorem filterSample_completes {level : Level} {v : Bool} (other : level ≠ levelOf v) (p q : Nat) :
    filterSample ⟨level, some ⟨v, 2, p⟩⟩ v q = (⟨levelOf v, none⟩, if level = .undefined then none else some ⟨v, p⟩) := by
  have run : extendRun (some ⟨v, 2, p⟩) v q = ⟨v, 3, p⟩ := extendRun_same v 2 p q
  rw [filterSample_third other (by rw [run]), run]

/-- Chatter at level UNDEFINED starts the run of the other value. -/
theorem filterSample_restarts (v : Bool) (n p q : Nat) :
    filterSample ⟨.undefined, some ⟨v, n, p⟩⟩ (!v) q = (⟨.undefined, some ⟨!v, 1, q⟩⟩, none) := by
  have run : extendRun (some ⟨v, n, p⟩) (!v) q = ⟨!v, 1, q⟩ := extendRun_other v n p q
  rw [filterSample_short (undefined_ne_levelOf _) (by rw [run]; exact (by decide : 1 < 3)), run]

theorem isActive_iff {p : Polarity} {e : Edge} : isActive p e = true ↔ (e.rising = true ↔ p = .rising) := by
  cases p <;> simp [isActive]

/-! ## The Perf Window (R22, R23, R26) -/

theorem takeEdge_windowed {w : PerfWindow} (window : s.tracker.window = some w) (e : Nat)
    (mode : s.tracker.mode = .locked ∨ s.tracker.mode = .coasting) : takeEdge f e s = windowEdge f w e s := by
  rcases mode with mode | mode <;> rw [takeEdge, mode] <;> simp only [window]

theorem closeWindow_open {w : PerfWindow} {pos : Nat} (window : s.tracker.window = some w)
    (early : pos < w.q + w.pitch + w.tol + 2) : closeWindow f pos s = s := by
  simp only [closeWindow, window, if_neg (Nat.not_le_of_lt early)]

theorem closeWindow_closes {w : PerfWindow} {pos : Nat} (window : s.tracker.window = some w)
    (late : w.q + w.pitch + w.tol + 2 ≤ pos) :
    closeWindow f pos s =
      if s.tracker.synthRun < f.coastLimit then resolve f (w.q + w.pitch) .synthesized s else loseLock false s := by
  simp only [closeWindow, window, if_pos late]

/-! ## One sample, one line -/

theorem examineSample_edge {v : Bool} {pos : Nat} {e : Edge} (edge : (filterSample s.tracker.filter v pos).2 = some e) :
    examineSample f (some v) pos s =
      closeWindow f pos
        (if isActive f.polarity e then
          takeEdge f e.position { s with tracker := { s.tracker with filter := (filterSample s.tracker.filter v pos).1 } }
        else { s with tracker := { s.tracker with filter := (filterSample s.tracker.filter v pos).1 } }) := by
  simp only [examineSample, edge, setTracker]

theorem examineSample_none {v : Bool} {pos : Nat} (noEdge : (filterSample s.tracker.filter v pos).2 = none) :
    examineSample f (some v) pos s =
      closeWindow f pos { s with tracker := { s.tracker with filter := (filterSample s.tracker.filter v pos).1 } } := by
  simp only [examineSample, noEdge, setTracker]

/-- Step 4 of R18 as a fold over the phases. -/
theorem examineFrom_eq_foldl (f : TrackingFields) (line : Nat) (perf : Option Half) :
    ∀ (n p : Nat) (u : State), examineFrom f line perf p n u =
      (List.range' p n).foldl (fun u q => examineSample f (perf.map (fun w => w.getLsbD q)) (16 * line + q) u) u
  | 0, _, _ => rfl
  | n + 1, p, _ => examineFrom_eq_foldl f line perf n (p + 1) _

theorem trackLine_idle (r : LineRecord) (idle : s.tracker.mode = .idle) : trackLine r s = s := by
  rw [trackLine, idle]

theorem trackLine_eq (r : LineRecord) (awake : s.tracker.mode ≠ .idle) (copied : s.tracker.fields = some f) :
    trackLine r s =
      examineFrom f r.line (r.received.map (·.2)) 0 16
        (setTracker
          (takeEntry ⟨r.line, r.received.map (·.1)⟩ (countUnframed r (if r.atBreak then actOnBreak s else s)).tracker)
          (countUnframed r (if r.atBreak then actOnBreak s else s))) := by
  unfold trackLine
  cases mode : s.tracker.mode with
  | idle => exact absurd mode awake
  | search => rw [copied]
  | locked => rw [copied]
  | coasting => rw [copied]

theorem actOnBreak_search (search : s.tracker.mode = .search) :
    actOnBreak s = { s with tracker := { s.tracker with candidates := [], filter := ⟨.undefined, none⟩ } } := by
  rw [actOnBreak, search]
  rfl

theorem actOnBreak_tracking (awake : s.tracker.mode ≠ .idle) (tracking : s.tracker.mode ≠ .search) :
    actOnBreak s = loseLock true s := by
  unfold actOnBreak
  cases mode : s.tracker.mode with
  | idle => exact absurd mode awake
  | search => exact absurd mode tracking
  | locked => rfl
  | coasting => rfl

/-- The break's part of a line record, the cases written as the statement writes them. -/
theorem breakActedOn (r : LineRecord) (awake : s.tracker.mode ≠ .idle) :
    (if r.atBreak then actOnBreak s else s) =
      if r.atBreak = false then s
      else if s.tracker.mode = .search then { s with tracker := { s.tracker with candidates := [], filter := ⟨.undefined, none⟩ } }
      else loseLock true s := by
  cases r.atBreak with
  | false => rfl
  | true =>
    by_cases search : s.tracker.mode = .search
    · simp only [reduceCtorEq, ↓reduceIte, search, actOnBreak_search search]
    · simp only [reduceCtorEq, ↓reduceIte, search, actOnBreak_tracking awake search]

theorem countUnframed_eq (r : LineRecord) (s : State) :
    countUnframed r s =
      { s with
        tracker :=
          { s.tracker with
            counters :=
              { s.tracker.counters with
                unframedLines :=
                  if (decide (s.tracker.mode = .search) && r.received.isSome) = true then satAdd s.tracker.counters.unframedLines 1
                  else s.tracker.counters.unframedLines } } } := by
  by_cases unframed : s.tracker.mode = .search ∧ r.received.isSome
  · have : (decide (s.tracker.mode = .search) && r.received.isSome) = true := by simp [unframed]
    rw [countUnframed, if_pos unframed, if_pos this]
    rfl
  · have : ¬(decide (s.tracker.mode = .search) && r.received.isSome) = true := by simpa using unframed
    rw [countUnframed, if_neg unframed, if_neg this]

end

/-- Settles O45. -/
theorem samplesReachTracker : Obligations.SamplesReachTracker := by
  refine ⟨fun level v p => ?_, fun s f w e window mode => ?_, fun s f e => ⟨fun mode => ?_, fun mode => ?_⟩,
    fun s f v pos => ?_, fun s r => trackLine_idle r, fun s f r awake copied => ?_⟩
  · intro one two three
    by_cases settled : level = levelOf v
    · have is1 : one = (⟨level, none⟩, none) := filterSample_settled settled
      have is2 : two = (⟨level, none⟩, none) := by
        have : two = filterSample one.1 v (p + 1) := rfl
        rw [this, is1]; exact filterSample_settled settled
      have is3 : three = (⟨level, none⟩, none) := by
        have : three = filterSample two.1 v (p + 2) := rfl
        rw [this, is2]; exact filterSample_settled settled
      refine ⟨by rw [is1], by rw [is2], fun _ => is3, fun other => absurd settled other, fun _ other => absurd settled other,
        fun undefined => absurd (undefined ▸ settled) (undefined_ne_levelOf v), fun _ => rfl⟩
    · have is1 : one = (⟨level, some ⟨v, 1, p⟩⟩, none) := filterSample_first settled p
      have is2 : two = (⟨level, some ⟨v, 2, p⟩⟩, none) := by
        have : two = filterSample one.1 v (p + 1) := rfl
        rw [this, is1]; exact filterSample_second settled p (p + 1)
      have is3 : three = (⟨levelOf v, none⟩, if level = .undefined then none else some ⟨v, p⟩) := by
        have : three = filterSample two.1 v (p + 2) := rfl
        rw [this, is2]; exact filterSample_completes settled p (p + 2)
      refine ⟨by rw [is1], by rw [is2], fun same => absurd same settled, fun _ => ⟨by rw [is1], by rw [is2], is3⟩,
        fun defined other => ?_, fun undefined => ?_, fun _ => rfl⟩
      · have level_ := eq_levelOf_not defined other
        rw [is1, is2]
        exact ⟨filterSample_settled level_, filterSample_settled level_⟩
      · subst undefined
        rw [is1, is2]
        exact ⟨filterSample_restarts v 1 p (p + 1), filterSample_restarts v 2 p (p + 2)⟩
  · rw [takeEdge_windowed window e mode, windowEdge]
    refine ⟨fun early => if_pos early, fun notEarly inTime => ?_, closeWindow_open window, fun late => ?_⟩
    · rw [if_neg (Nat.not_lt_of_le notEarly), if_pos inTime]
    · rw [closeWindow_closes window late]
      exact ⟨fun runs => if_pos runs, fun spent => if_neg (Nat.not_lt_of_le spent)⟩
  · rw [takeEdge, mode]
  · rw [takeEdge, mode]
  · intro r u
    refine ⟨fun e edge active => ?_, fun inactive => ?_, rfl⟩
    · rw [examineSample_edge edge, if_pos (isActive_iff.mpr active)]
    · cases edge : r.2 with
      | none => exact examineSample_none edge
      | some e => rw [examineSample_edge edge, if_neg (mt isActive_iff.mp (inactive e edge))]
  · intro a unframed entry take
    have acted : (if r.atBreak then actOnBreak s else s) = a := breakActedOn r awake
    have takes : take = fun y => tallyTake y entry := by
      funext y
      by_cases full : 16 ≤ y.covered
      · have : tallyTake y entry = y := if_neg (Nat.not_lt_of_le full)
        rw [this]
        exact if_pos full
      · have : take y = _ := if_neg full
        rw [this, tallyTake, if_pos (Nat.lt_of_not_le full)]
        have : entry.edge = r.received.map (·.1) := rfl
        rw [this]
        cases r.received <;> rfl
    rw [trackLine_eq r awake copied, acted, examineFrom_eq_foldl, ← List.range_eq_range', countUnframed_eq, takes]
    cases received : r.received <;> simp only [setTracker, takeEntry, logEntry, unframed, entry, received, Option.map_none, Option.map_some]

end Sys2Proof.Machine
end

section
/-! A perforation resolves: the eight steps of R24, step by step. -/

namespace Sys2Proof.Machine

section
variable {s v : State} {f : TrackingFields} {q : Nat} {st : PerfStatus} {tally : Tally}

/-! ## The tally of a perforation (R36) -/

theorem tallyTake_full {t : Tally} (full : 16 ≤ t.covered) (e : EdgeEntry) : tallyTake t e = t :=
  if_neg (Nat.not_lt_of_le full)

/-- The entries that a tally takes are the first, until it covers 16 lines. -/
theorem foldl_tallyTake (log : List EdgeEntry) : ∀ t : Tally, t.covered ≤ 16 →
    log.foldl tallyTake t =
      ⟨t.firstLine, t.covered + (log.take (16 - t.covered)).length,
        t.received + ((log.take (16 - t.covered)).filterMap (·.edge)).length,
        t.sum + ((log.take (16 - t.covered)).filterMap (·.edge)).sum⟩ := by
  induction log with
  | nil => intro t _; simp
  | cons e rest ih =>
    intro t within
    by_cases full : 16 ≤ t.covered
    · have all : 16 - t.covered = 0 := by omega
      rw [List.foldl_cons, tallyTake_full full, ih t within, all]
      simp
    · obtain ⟨room, taken⟩ : ∃ room, 16 - t.covered = room + 1 := ⟨15 - t.covered, by omega⟩
      have below : t.covered < 16 := Nat.lt_of_not_le full
      have left : 16 - (t.covered + 1) = room := by omega
      have takes : tallyTake t e = _ := if_pos below
      rw [List.foldl_cons, takes, taken, List.take_succ_cons]
      cases edge : e.edge with
      | none =>
        rw [ih _ (show t.covered + 1 ≤ 16 by omega)]
        simp only [left, List.filterMap_cons, edge, List.length_cons, Tally.mk.injEq, true_and, and_true]
        omega
      | some x =>
        rw [ih _ (show t.covered + 1 ≤ 16 by omega)]
        simp only [left, List.filterMap_cons, edge, List.length_cons, List.sum_cons, Tally.mk.injEq, true_and]
        omega

theorem openTally_eq (log : List EdgeEntry) (q : Nat) :
    openTally log q =
      ⟨q / 16, ((log.filter (fun e => decide (q / 16 ≤ e.line))).take 16).length,
        (((log.filter (fun e => decide (q / 16 ≤ e.line))).take 16).filterMap (·.edge)).length,
        (((log.filter (fun e => decide (q / 16 ≤ e.line))).take 16).filterMap (·.edge)).sum⟩ := by
  rw [openTally, foldl_tallyTake _ _ (Nat.zero_le 16)]
  simp

/-! ## Step 6: the countdown (R38), a re-lock's top (R30) -/

/-- The tracker whose countdown has reached a top at `q`. -/
def topReached (f : TrackingFields) (q : Nat) (st : PerfStatus) (tally : Tally) (x : Tracker) : Tracker :=
  { x with countdown := some f.k, pendingTop := some ⟨q, st, tally⟩, nudge := none, spanIndex := some 0 }

theorem moveCountdown_none (free : v.tracker.countdown = none) : moveCountdown f q st tally v = v := by
  simp only [moveCountdown, free]

theorem moveCountdown_counting {c : Nat} (counting : v.tracker.countdown = some c) (above : ¬c ≤ 1) :
    moveCountdown f q st tally v =
      { v with
        tracker := { v.tracker with countdown := some (c - 1), spanIndex := v.tracker.spanIndex.map (· + 1) } } := by
  simp only [moveCountdown, counting, if_neg above]
  rfl

theorem moveCountdown_top {c : Nat} (counting : v.tracker.countdown = some c) (last : c ≤ 1) :
    moveCountdown f q st tally v = rephase f q { v with tracker := topReached f q st tally v.tracker } := by
  simp only [moveCountdown, counting, if_pos last]
  rfl

theorem rephase_stands (stands : s.tracker.rephasing = false ∨ s.tracker.qTop = none) : rephase f q s = s := by
  unfold rephase
  split
  · rename_i y rephasing known
    rcases stands with same | same
    · rw [rephasing] at same; cases same
    · rw [known] at same; cases same
  · rfl

/-- The frames from the last top before the loss to the re-lock's top, at least one (LE 16). -/
def relockFrames (f : TrackingFields) (y : TopMark) (q : Nat) (x : Tracker) : Nat :=
  max 1 (pitchesFrom (pitchOf f x.shrink) y q / f.k)

theorem loseFrames_eq (n : Nat) (s : State) :
    loseFrames n s =
      { s with
        tracker :=
          { s.tracker with
            counters := if n = 0 then s.tracker.counters
              else { s.tracker.counters with framesLost := satAdd s.tracker.counters.framesLost n } },
        notices := if n = 0 then s.notices else setNotice s.notices .framesLost (occur s.notices.framesLost) } := by
  by_cases nothing : n = 0
  · simp only [loseFrames, nothing, ↓reduceIte]
  · simp only [loseFrames, nothing, ↓reduceIte]
    rfl

theorem rephase_eq {y : TopMark} (rephasing : s.tracker.rephasing = true) (known : s.tracker.qTop = some y) :
    rephase f q s =
      { s with
        tracker :=
          { s.tracker with
            rephasing := false, frameCounter := y.frame + relockFrames f y q s.tracker,
            counters := if relockFrames f y q s.tracker = 1 then s.tracker.counters
              else { s.tracker.counters with
                framesLost := satAdd s.tracker.counters.framesLost (relockFrames f y q s.tracker - 1) } },
        notices := if relockFrames f y q s.tracker = 1 then s.notices
          else setNotice s.notices .framesLost (occur s.notices.framesLost) } := by
  have least : 1 ≤ relockFrames f y q s.tracker := Nat.le_max_left 1 _
  have one : (relockFrames f y q s.tracker - 1 = 0) = (relockFrames f y q s.tracker = 1) := propext (by omega)
  have loses : rephase f q s =
      loseFrames (relockFrames f y q s.tracker - 1)
        (setTracker { s.tracker with rephasing := false, frameCounter := y.frame + relockFrames f y q s.tracker } s) := by
    simp only [rephase, rephasing, known]
    rfl
  rw [loses, loseFrames_eq]
  simp only [one, setTracker]

/-! ## Steps 7 and 8, and the three together -/

/-- Step 7 of R24: the contexts after the span count (R40). -/
def spanCounted (f : TrackingFields) (st : PerfStatus) (t : Tracker) (cs : List FrameContext) : List FrameContext :=
  match t.spanIndex, t.lastCut with
  | some i, some cut =>
    if 2 ≤ i ∧ i < f.k ∧ st = .synthesized then
      changeContext cut.frame (fun c => if c.finished = true then c else { c with synthesized := c.synthesized + 1 }) cs
    else cs
  | _, _ => cs

theorem changeContext_id {n : Nat} {g : FrameContext → FrameContext} (same : ∀ c, g c = c) (cs : List FrameContext) :
    changeContext n g cs = cs := by
  have : (fun c => if c.frame = n then g c else c) = id := by
    funext c
    rw [same, ite_self]
    rfl
  rw [changeContext, this, List.map_id]

theorem updateSpan_eq (f : TrackingFields) (st : PerfStatus) (s : State) :
    updateSpan f st s = { s with contexts := spanCounted f st s.tracker s.contexts } := by
  unfold updateSpan spanCounted
  cases s.tracker.spanIndex with
  | none => rfl
  | some i =>
    cases s.tracker.lastCut with
    | none => rfl
    | some cut =>
      by_cases within : 2 ≤ i ∧ i < f.k
      · cases st with
        | synthesized => simp only [within, and_self, ↓reduceIte]; rfl
        | accepted =>
          have same : ∀ c : FrameContext,
              (if c.finished = true then c else { c with synthesized := c.synthesized + synthCount .accepted }) = c :=
            fun c => ite_self c
          simp only [within, and_self, and_false, reduceCtorEq, ↓reduceIte, writeContext, changeContext_id same]
      · have not : ¬(2 ≤ i ∧ i < f.k ∧ st = .synthesized) := fun all => within ⟨all.1, all.2.1⟩
        simp only [within, not, ↓reduceIte]

/-- Steps 7 and 8 after step 6 has left tracker `y` and notices `n`. -/
theorem setWindow_updateSpan (v : State) (y : Tracker) (n : NoticeUnit) :
    setWindow f q st (updateSpan f st { v with tracker := y, notices := n }) =
      { v with
        tracker := { y with window := some ⟨q, pitchOf f y.shrink, f.tol⟩, lastAccepted := decide (st = .accepted) },
        contexts := spanCounted f st y v.contexts, notices := n } := by
  rw [updateSpan_eq]
  rfl

theorem restOfResolution_holds (f : TrackingFields) (q : Nat) (st : PerfStatus) (tally : Tally) (v : State) :
    restOfResolution f q st tally v (setWindow f q st (updateSpan f st (moveCountdown f q st tally v))) := by
  cases counts : v.tracker.countdown with
  | none =>
    have noTop : ¬∃ c, v.tracker.countdown = some c ∧ c ≤ 1 := by simp [counts]
    rw [moveCountdown_none counts, show v = { v with tracker := v.tracker, notices := v.notices } from rfl, setWindow_updateSpan]
    refine ⟨rfl, rfl, fun top => absurd top noTop, fun _ => ⟨?_, rfl, rfl, ?_⟩, fun y top => absurd top noTop,
      fun _ => ⟨rfl, rfl, rfl, rfl⟩, rfl⟩
    · simp only [counts, Option.map_none]
    · simp only [counts, ↓reduceIte]
  | some c =>
    by_cases last : c ≤ 1
    · have top : ∃ c, v.tracker.countdown = some c ∧ c ≤ 1 := ⟨c, counts, last⟩
      rw [moveCountdown_top counts last]
      by_cases stands : v.tracker.rephasing = false ∨ v.tracker.qTop = none
      · rw [rephase_stands (s := { v with tracker := topReached f q st tally v.tracker }) stands]
        have is_ := setWindow_updateSpan (f := f) (q := q) (st := st) v (topReached f q st tally v.tracker) v.notices
        refine is_ ▸ ⟨rfl, rfl, fun _ => ⟨rfl, rfl, rfl, rfl⟩, fun noTop => absurd top noTop, fun y _ rephasing known => ?_,
          fun _ => ⟨rfl, rfl, rfl, rfl⟩, rfl⟩
        rcases stands with same | same
        · rw [rephasing] at same; cases same
        · rw [known] at same; cases same
      · obtain ⟨rephasing, known⟩ : v.tracker.rephasing = true ∧ v.tracker.qTop ≠ none := by
          simpa only [not_or, Bool.not_eq_false] using stands
        obtain ⟨y, known⟩ := Option.ne_none_iff_exists'.mp known
        rw [rephase_eq (s := { v with tracker := topReached f q st tally v.tracker }) rephasing known, setWindow_updateSpan]
        refine ⟨rfl, rfl, fun _ => ⟨rfl, rfl, rfl, rfl⟩, fun noTop => absurd top noTop, fun y' _ _ known' => ?_, fun same => ?_, rfl⟩
        · obtain rfl : y = y' := Option.some.inj (known.symm.trans known')
          exact ⟨rfl, rfl, rfl, rfl⟩
        · exact same.elim (absurd top) (fun same => absurd same stands)
    · have noTop : ¬∃ c, v.tracker.countdown = some c ∧ c ≤ 1 := by
        rintro ⟨c', same, le⟩
        exact last (Option.some.inj (counts.symm.trans same) ▸ le)
      rw [moveCountdown_counting counts last]
      have is_ := setWindow_updateSpan (f := f) (q := q) (st := st) v
        { v.tracker with countdown := some (c - 1), spanIndex := v.tracker.spanIndex.map (· + 1) } v.notices
      refine is_ ▸ ⟨rfl, rfl, fun top => absurd top noTop, fun _ => ⟨?_, rfl, rfl, ?_⟩, fun y top => absurd top noTop,
        fun _ => ⟨rfl, rfl, rfl, rfl⟩, rfl⟩
      · simp only [counts, Option.map_some]
      · simp only [counts, reduceCtorEq, ↓reduceIte]

end

end Sys2Proof.Machine
end

section
/-! A perforation resolves: the Tracker's state, the verdict on a SUSPECT perforation, the pitch history and S. -/

namespace Sys2Proof.Machine

section
variable {f : TrackingFields} {q : Nat} {r : Resolution}

/-! ## Step 2: the state and its runs (R26) -/

/-- The tracker after R26. -/
def movedTracker (r : Resolution) (t : Tracker) : Tracker :=
  match r with
  | .synthesized => { t with mode := .coasting, synthRun := t.synthRun + 1, acceptRun := 0 }
  | .accepted _ =>
    if t.mode = .coasting then
      if t.acceptRun = 0 then { t with synthRun := 0, acceptRun := 1 } else { t with mode := .locked, synthRun := 0, acceptRun := 2 }
    else { t with synthRun := 0 }

theorem setMode_eq (m : TrackerMode) (s : State) :
    setMode m s = { s with tracker := { s.tracker with mode := m }, pace := (setMode m s).pace } :=
  rfl

theorem moveState_eq (r : Resolution) (s : State) :
    moveState r s = { s with tracker := movedTracker r s.tracker, pace := (moveState r s).pace } := by
  cases r with
  | synthesized => exact setMode_eq .coasting (setTracker { s.tracker with synthRun := s.tracker.synthRun + 1, acceptRun := 0 } s)
  | accepted d =>
    by_cases coasting : s.tracker.mode = .coasting
    · by_cases first : s.tracker.acceptRun = 0
      · have is_ : moveState (.accepted d) s = setTracker { s.tracker with synthRun := 0, acceptRun := 1 } s := by
          simp [moveState, coasting, first]
        rw [is_]
        simp only [movedTracker, coasting, first, ↓reduceIte, setTracker]
      · have second : 2 ≤ s.tracker.acceptRun + 1 := by omega
        have is_ : moveState (.accepted d) s = setMode .locked (setTracker { s.tracker with synthRun := 0, acceptRun := 2 } s) := by
          simp only [moveState, coasting, second, ↓reduceIte]
        rw [is_, setMode_eq]
        simp only [movedTracker, coasting, first, ↓reduceIte, setTracker]
    · have is_ : moveState (.accepted d) s = setTracker { s.tracker with synthRun := 0 } s := by
        unfold moveState
        dsimp only
        cases mode : s.tracker.mode with
        | coasting => exact absurd mode coasting
        | idle => rfl
        | search => rfl
        | locked => rfl
      rw [is_]
      simp only [movedTracker, coasting, ↓reduceIte, setTracker]

/-- What R26 leaves alone. -/
theorem movedTracker_keeps (r : Resolution) (t : Tracker) :
    movedTracker r t =
      { t with
        mode := (movedTracker r t).mode, synthRun := if r = .synthesized then t.synthRun + 1 else 0,
        acceptRun := (movedTracker r t).acceptRun } := by
  cases r with
  | synthesized => rfl
  | accepted d =>
    by_cases coasting : t.mode = .coasting
    · by_cases first : t.acceptRun = 0 <;> simp only [movedTracker, coasting, first, ↓reduceIte, reduceCtorEq]
    · simp only [movedTracker, coasting, ↓reduceIte, reduceCtorEq]

/-! ## Steps 3 and 4: SUSPECT perforations, the history and S (R31 to R34) -/

/-- S from the pitches held, within the tracking range, written out (R34). -/
def measuredShrink (nominalPitch : Nat) (h : List Nat) : Nat :=
  max 49152 (min ((65536 * h.sum + h.length * nominalPitch / 2) / (h.length * nominalPitch)) 81920)

theorem trackingShrink_shrinkOf (nominalPitch : Nat) (h : List Nat) :
    trackingShrink (shrinkOf nominalPitch h) = measuredShrink nominalPitch h := by
  rw [trackingShrink_eq, measuredShrink, shrinkOf]
  grind

theorem pushPitch_eq {h : List Nat} (held : h.length ≤ 16) (pitch : Nat) :
    pushPitch h pitch = if h.length = 16 then h.tail ++ [pitch] else h ++ [pitch] := by
  by_cases full : h.length = 16
  · rw [pushPitch, if_pos full, full, show 16 + 1 - 16 = 1 from rfl, List.drop_one]
    exact List.tail_append_of_ne_nil (List.ne_nil_of_length_pos (by omega))
  · rw [pushPitch, if_neg full, show h.length + 1 - 16 = 0 by omega, List.drop_zero]

section
variable {t : Tracker} {z : Suspect} {d : Int}

theorem judge_synthesized (suspect : t.suspect = some z) :
    judgeAndMeasure f q .synthesized t =
      { t with suspect := none, counters := { t.counters with irregular := satAdd t.counters.irregular 1 } } := by
  simp only [judgeAndMeasure, judgeSuspect, suspect, updateShrink, verdictOn, applyVerdict]

theorem judge_splice (window : t.window = some w) (suspect : t.suspect = some z) (near : ¬f.spliceThreshold ≤ d.natAbs) :
    judgeAndMeasure f q (.accepted d) t =
      { t with
        suspect := none, spliceMark := some (t.spliceMark.getD z.position),
        counters := { t.counters with splices := satAdd t.counters.splices 1 } } := by
  have verdict : verdictOn f.spliceThreshold z (.accepted d) = .splice := if_pos (Nat.lt_of_not_le near)
  simp [judgeAndMeasure, judgeSuspect, suspect, updateShrink, verdict, applyVerdict, window]

theorem judge_irregular (window : t.window = some w) (suspect : t.suspect = some z) (far : f.spliceThreshold ≤ d.natAbs)
    (against : ¬((0 < d) ↔ z.positive = true)) :
    judgeAndMeasure f q (.accepted d) t =
      { t with suspect := none, counters := { t.counters with irregular := satAdd t.counters.irregular 1 } } := by
  have verdict : verdictOn f.spliceThreshold z (.accepted d) = .irregular := by
    have against : ¬((0 < d) = (z.positive = true)) := fun same => against (iff_of_eq same)
    simp only [verdictOn, Nat.not_lt_of_le far, against, ↓reduceIte]
  simp [judgeAndMeasure, judgeSuspect, suspect, updateShrink, verdict, applyVerdict, window]

theorem judge_pitchStep (window : t.window = some w) (suspect : t.suspect = some z) (far : f.spliceThreshold ≤ d.natAbs)
    (along : (0 < d) ↔ z.positive = true) :
    judgeAndMeasure f q (.accepted d) t =
      { t with
        suspect := none, counters := { t.counters with pitchSteps := satAdd t.counters.pitchSteps 1 },
        history := if t.mode = .locked then [q - w.q] else [],
        shrink := if t.mode = .locked then measuredShrink f.nominalPitch [q - w.q] else t.shrink } := by
  have verdict : verdictOn f.spliceThreshold z (.accepted d) = .pitchStep := by
    simp only [verdictOn, Nat.not_lt_of_le far, along, ↓reduceIte]
  by_cases locked : t.mode = .locked <;>
    simp [judgeAndMeasure, judgeSuspect, suspect, updateShrink, verdict, applyVerdict, window, locked, withHistory,
      trackingShrink_shrinkOf]

theorem judge_synthesized_plain (plain : t.suspect = none) : judgeAndMeasure f q .synthesized t = t := by
  simp only [judgeAndMeasure, judgeSuspect, plain, updateShrink]

theorem judge_suspects (window : t.window = some w) (plain : t.suspect = none) (far : f.spliceThreshold ≤ d.natAbs) :
    judgeAndMeasure f q (.accepted d) t = { t with suspect := some ⟨q, decide (0 < d)⟩ } := by
  simp [judgeAndMeasure, judgeSuspect, plain, updateShrink, window, far]

theorem judge_near (window : t.window = some w) (plain : t.suspect = none) (near : ¬f.spliceThreshold ≤ d.natAbs) :
    judgeAndMeasure f q (.accepted d) t =
      if t.mode = .locked ∧ t.lastAccepted = true then
        { t with
          history := pushPitch t.history (q - w.q), shrink := measuredShrink f.nominalPitch (pushPitch t.history (q - w.q)) }
      else t := by
  simp [judgeAndMeasure, judgeSuspect, plain, updateShrink, window, near, withHistory, trackingShrink_shrinkOf]

end

/-- Steps 3 and 4 of R24 on a tracker: the verdict, by Table 3-3, as the three counters show it; the splice mark; the history and S. -/
theorem judgeAndMeasure_outcome {t : Tracker} {w : PerfWindow} (window : t.window = some w) (held : t.history.length ≤ 16) :
    let j := judgeAndMeasure f q r t
    let synth : Prop := r = .synthesized
    let far : Prop := ∃ d, r = .accepted d ∧ f.spliceThreshold ≤ d.natAbs
    ∃ splice step odd : Bool,
      j = { t with
            counters :=
              { t.counters with
                splices := if splice then satAdd t.counters.splices 1 else t.counters.splices,
                pitchSteps := if step then satAdd t.counters.pitchSteps 1 else t.counters.pitchSteps,
                irregular := if odd then satAdd t.counters.irregular 1 else t.counters.irregular },
            suspect := j.suspect, spliceMark := j.spliceMark, history := j.history, shrink := j.shrink }
        ∧ (∀ z, t.suspect = some z →
            j.suspect = none
              ∧ (¬synth → ¬far →
                  splice = true ∧ step = false ∧ odd = false ∧ j.spliceMark = some (t.spliceMark.getD z.position))
              ∧ (∀ d, r = .accepted d → far → ((0 < d) ↔ z.positive = true) →
                  splice = false ∧ step = true ∧ odd = false ∧ j.spliceMark = t.spliceMark
                    ∧ (t.mode = .locked →
                        j.history = [q - w.q] ∧ j.shrink = measuredShrink f.nominalPitch [q - w.q])
                    ∧ (t.mode ≠ .locked → j.history = [] ∧ j.shrink = t.shrink))
              ∧ (synth ∨ (∃ d, r = .accepted d ∧ far ∧ ¬((0 < d) ↔ z.positive = true)) →
                  splice = false ∧ step = false ∧ odd = true ∧ j.spliceMark = t.spliceMark)
              ∧ (step = false → j.history = t.history ∧ j.shrink = t.shrink))
        ∧ (t.suspect = none →
            splice = false ∧ step = false ∧ odd = false ∧ j.spliceMark = t.spliceMark
              ∧ (∀ d, r = .accepted d → far → j.suspect = some ⟨q, decide (0 < d)⟩)
              ∧ (¬far → j.suspect = none)
              ∧ (¬synth → ¬far → t.mode = .locked → t.lastAccepted = true →
                  j.history = (if t.history.length = 16 then t.history.tail ++ [q - w.q] else t.history ++ [q - w.q])
                    ∧ j.shrink = measuredShrink f.nominalPitch j.history)
              ∧ (synth ∨ far ∨ t.mode ≠ .locked ∨ t.lastAccepted = false → j.history = t.history ∧ j.shrink = t.shrink)) := by
  intro j synth far
  cases suspect : t.suspect with
  | none =>
    refine ⟨false, false, false, ?_⟩
    suffices outcome : j = { t with suspect := j.suspect, history := j.history, shrink := j.shrink }
        ∧ (∀ d, r = .accepted d → far → j.suspect = some ⟨q, decide (0 < d)⟩)
        ∧ (¬far → j.suspect = none)
        ∧ (¬synth → ¬far → t.mode = .locked → t.lastAccepted = true →
            j.history = (if t.history.length = 16 then t.history.tail ++ [q - w.q] else t.history ++ [q - w.q])
              ∧ j.shrink = measuredShrink f.nominalPitch j.history)
        ∧ (synth ∨ far ∨ t.mode ≠ .locked ∨ t.lastAccepted = false → j.history = t.history ∧ j.shrink = t.shrink) by
      obtain ⟨frame, rest⟩ := outcome
      have mark : j.spliceMark = t.spliceMark := frame ▸ rfl
      exact ⟨by rw [mark]; exact frame, fun z same => (nomatch same), fun _ => ⟨rfl, rfl, rfl, mark, rest⟩⟩
    cases r with
    | synthesized =>
      have is_ : j = t := judge_synthesized_plain suspect
      rw [is_]
      exact ⟨rfl, fun _ other => (nomatch other), fun _ => suspect, fun not => absurd rfl not, fun _ => ⟨rfl, rfl⟩⟩
    | accepted d =>
      by_cases far_ : f.spliceThreshold ≤ d.natAbs
      · have is_ : j = _ := judge_suspects window suspect far_
        rw [is_]
        refine ⟨rfl, fun e same _ => ?_, fun not => absurd ⟨d, rfl, far_⟩ not, fun _ not => absurd ⟨d, rfl, far_⟩ not,
          fun _ => ⟨rfl, rfl⟩⟩
        cases same
        rfl
      · have notFar : ¬far := by rintro ⟨e, same, le⟩; cases same; exact far_ le
        have is_ : j = _ := judge_near window suspect far_
        by_cases enters : t.mode = .locked ∧ t.lastAccepted = true
        · rw [is_, if_pos enters]
          refine ⟨rfl, fun _ _ yes => absurd yes notFar, fun _ => suspect, fun _ _ _ _ => ⟨pushPitch_eq held _, rfl⟩, fun out => ?_⟩
          obtain ⟨locked, last⟩ := enters
          rcases out with no | yes | no | no
          · cases no
          · exact absurd yes notFar
          · exact absurd locked no
          · rw [last] at no; cases no
        · rw [is_, if_neg enters]
          exact ⟨rfl, fun _ _ yes => absurd yes notFar, fun _ => suspect,
            fun _ _ locked last => absurd ⟨locked, last⟩ enters, fun _ => ⟨rfl, rfl⟩⟩
  | some z =>
    cases r with
    | synthesized =>
      have is_ : j = _ := judge_synthesized suspect
      rw [is_]
      refine ⟨false, false, true, rfl, fun z' same => ⟨rfl, fun not => absurd rfl not, fun _ other => (nomatch other),
        fun _ => ⟨rfl, rfl, rfl, rfl⟩, fun _ => ⟨rfl, rfl⟩⟩, fun other => (nomatch other)⟩
    | accepted d =>
      by_cases far_ : f.spliceThreshold ≤ d.natAbs
      · have isFar : far := ⟨d, rfl, far_⟩
        by_cases along : (0 < d) ↔ z.positive = true
        · have is_ : j = _ := judge_pitchStep window suspect far_ along
          rw [is_]
          refine ⟨false, true, false, rfl, fun z' same => ?_, fun other => (nomatch other)⟩
          cases same
          refine ⟨rfl, fun _ not => absurd isFar not, fun _ _ _ _ => ⟨rfl, rfl, rfl, rfl, fun locked => ⟨if_pos locked, if_pos locked⟩,
            fun not => ⟨if_neg not, if_neg not⟩⟩, fun out => ?_, fun other => (nomatch other)⟩
          rcases out with no | ⟨e, same, _, against⟩
          · cases no
          · cases same
            exact absurd along against
        · have is_ : j = _ := judge_irregular window suspect far_ along
          rw [is_]
          refine ⟨false, false, true, rfl, fun z' same => ?_, fun other => (nomatch other)⟩
          cases same
          refine ⟨rfl, fun _ not => absurd isFar not, fun e same _ yes => ?_, fun _ => ⟨rfl, rfl, rfl, rfl⟩, fun _ => ⟨rfl, rfl⟩⟩
          cases same
          exact absurd yes along
      · have notFar : ¬far := by rintro ⟨e, same, le⟩; cases same; exact far_ le
        have is_ : j = _ := judge_splice window suspect far_
        rw [is_]
        refine ⟨true, false, false, rfl, fun z' same => ?_, fun other => (nomatch other)⟩
        cases same
        refine ⟨rfl, fun _ _ => ⟨rfl, rfl, rfl, rfl⟩, fun _ _ yes => absurd yes notFar, fun out => ?_, fun _ => ⟨rfl, rfl⟩⟩
        rcases out with no | ⟨e, _, yes, _⟩
        · cases no
        · exact absurd yes notFar

end

/-- Settles O17. -/
theorem perforationResolves : Obligations.PerforationResolves := by
  refine ⟨fun s f q r w tracking window held => ?_, openTally_eq⟩
  intro x synth st far measured
  set counted : Tracker :=
    { x with
      counters :=
        { x.counters with
          perforationsSeen := satAdd x.counters.perforationsSeen 1,
          synthesized := satAdd x.counters.synthesized (if r = .synthesized then 1 else 0) } } with countedIs
  obtain ⟨M, mode⟩ : ∃ M, M = (movedTracker r counted).mode := ⟨_, rfl⟩
  obtain ⟨A, run⟩ : ∃ A, A = (movedTracker r counted).acceptRun := ⟨_, rfl⟩
  obtain ⟨P, pace⟩ : ∃ P, P = (moveState r (countResolution r s)).pace := ⟨_, rfl⟩
  set m : Tracker :=
    { counted with mode := M, synthRun := if r = .synthesized then x.synthRun + 1 else 0, acceptRun := A } with movedIs
  have counts : countResolution r s = { s with tracker := counted } := by cases r <;> rfl
  have moves : moveState r (countResolution r s) = { s with tracker := m, pace := P } := by
    have moved : movedTracker r counted = m := by
      rw [movedIs, mode, run]
      exact movedTracker_keeps r counted
    rw [← moved, pace, moveState_eq]
    simp only [counts]
  obtain ⟨splice, step, odd, frame, ofSuspect, ofNone⟩ :=
    judgeAndMeasure_outcome (f := f) (q := q) (r := r) (t := m) (w := w) window held
  have keepsMode : (judgeAndMeasure f q r m).mode = M := congrArg Tracker.mode frame
  have keepsRun : (judgeAndMeasure f q r m).acceptRun = A := congrArg Tracker.acceptRun frame
  have keepsLog : (judgeAndMeasure f q r m).edgeLog = m.edgeLog := (congrArg Tracker.edgeLog frame :)
  have keepsCounters := congrArg Tracker.counters frame
  have status : statusOf r = st := by cases r <;> rfl
  have cutter : cutterCount f.k st = if 2 ≤ f.k ∧ r = .synthesized then 1 else 0 := by
    rw [← status]
    cases r <;> simp [cutterCount, synthCount, statusOf]
  have notSynth : ¬synth → ∃ d, r = .accepted d := by
    intro not
    cases r with
    | synthesized => exact absurd rfl not
    | accepted d => exact ⟨d, rfl⟩
  refine ⟨{ s with tracker := judgeAndMeasure f q r m, pace := P }, ?_, rfl, fun settled => ?_, ?_, fun isSynth => ?_,
    fun not locked => ?_, fun not coasting first => ?_, fun not coasting again => ?_, splice, step, odd, ?_, ?_, ?_⟩
  · have resolves : resolve f q r s =
        finishResolution f q (statusOf r) (openTally (judgeAndMeasure f q r m).edgeLog q)
          { s with tracker := judgeAndMeasure f q r m, pace := P } := by
      rw [resolve, moves]
      rfl
    rw [resolves, status, keepsLog, finishResolution, cutter]
    exact restOfResolution_holds f q st _ _
  · have moved : levelInv { s with tracker := m, pace := P } := by
      rw [← moves]
      exact levelInv_moveState r _ (levelInv_countTracker _ s settled)
    exact levelInv_congr moved (judgeAndMeasure_levelView f q r { s with tracker := m, pace := P })
  · simp only [keepsMode, keepsRun, keepsCounters]
    exact frame
  · have synthesized : r = .synthesized := isSynth
    subst synthesized
    exact ⟨keepsMode.trans mode, keepsRun.trans run⟩
  · obtain ⟨d, rfl⟩ := notSynth not
    have still : movedTracker (.accepted d) counted = { counted with synthRun := 0 } :=
      if_neg (show ¬counted.mode = .coasting by rw [show counted.mode = .locked from locked]; decide)
    rw [still] at mode run
    exact ⟨keepsMode.trans (mode.trans locked), keepsRun.trans run⟩
  · obtain ⟨d, rfl⟩ := notSynth not
    have once : movedTracker (.accepted d) counted = { counted with synthRun := 0, acceptRun := 1 } :=
      (if_pos coasting).trans (if_pos first)
    rw [once] at mode run
    exact ⟨keepsMode.trans (mode.trans coasting), keepsRun.trans run⟩
  · obtain ⟨d, rfl⟩ := notSynth not
    have twice : movedTracker (.accepted d) counted = { counted with mode := .locked, synthRun := 0, acceptRun := 2 } :=
      (if_pos coasting).trans (if_neg (Nat.ne_of_gt again))
    rw [twice] at mode run
    exact ⟨keepsMode.trans mode, keepsRun.trans run⟩
  · exact keepsCounters
  · intro z suspect
    obtain ⟨gone, spliced, stepped, dropped, stands⟩ := ofSuspect z suspect
    refine ⟨gone, spliced, fun d accepted isFar along => ?_, dropped, stands⟩
    obtain ⟨noSplice, isStep, notOdd, mark, restarts, empties⟩ := stepped d accepted isFar along
    exact ⟨noSplice, isStep, notOdd, mark, fun locked => restarts (keepsMode.symm.trans locked),
      fun coasting => empties (by rw [show m.mode = .coasting from keepsMode.symm.trans coasting]; decide)⟩
  · intro plain
    obtain ⟨noSplice, noStep, notOdd, mark, suspects, sound, enters, stands⟩ := ofNone plain
    refine ⟨noSplice, noStep, notOdd, mark, suspects, sound, fun not near locked => enters not near (keepsMode.symm.trans locked),
      fun out => stands (out.imp_right (Or.imp_right (Or.imp_left fun coasting => ?_)))⟩
    rw [show m.mode = .coasting from keepsMode.symm.trans coasting]
    decide

end Sys2Proof.Machine
end

section
/-! Lock gained on three candidates, and lost (R27 to R30). -/

namespace Sys2Proof.Machine

section
variable {s : State} {f : TrackingFields}

/-! ## What a cut and a resolution leave of the Tracker -/

/-- The items of the Tracker that a cut may change. -/
theorem cutFrame_keeps (at_ : CutState) (extra : Nat) (s : State) :
    (cutFrame at_ extra s).tracker =
      { s.tracker with
        pendingTop := none, frameCounter := (cutFrame at_ extra s).tracker.frameCounter,
        lastH := (cutFrame at_ extra s).tracker.lastH, lastCut := (cutFrame at_ extra s).tracker.lastCut,
        spliceMark := (cutFrame at_ extra s).tracker.spliceMark, counters := (cutFrame at_ extra s).tracker.counters } := by
  cases pending : s.tracker.pendingTop with
  | none =>
    rw [cutFrame_none pending, ← pending]
  | some top =>
    have cut := cutFrame_tracker (at_ := at_) (extra := extra) pending
    have counter := congrArg Tracker.frameCounter cut
    have weave := congrArg Tracker.lastH cut
    have last := congrArg Tracker.lastCut cut
    have mark := congrArg Tracker.spliceMark cut
    simp only [counter, weave, last, mark]
    exact cut

theorem cutFrame_lastCut {top : PendingTop} (at_ : CutState) (extra : Nat) (s : State)
    (pending : s.tracker.pendingTop = some top) :
    (cutFrame at_ extra s).tracker.lastCut = some ⟨top.position, s.tracker.frameCounter⟩ := by
  rw [cutFrame_tracker pending]
  rfl

theorem cutFrame_perforationsSeen (at_ : CutState) (extra : Nat) (s : State) :
    (cutFrame at_ extra s).tracker.counters.perforationsSeen = s.tracker.counters.perforationsSeen := by
  cases pending : s.tracker.pendingTop with
  | none => rw [cutFrame_none pending]
  | some top =>
    by_cases room : s.contexts.length < 32
    · rw [(cutFrame_room_tracker pending room).1]
      rfl
    · rw [cutFrame_full pending (Nat.le_of_not_lt room)]

/-- Steps 6 to 8 of R24 do not change the perforations seen. -/
theorem restOfResolution_perforationsSeen {q : Nat} {st : PerfStatus} {tally : Tally} {v t : State}
    (rest : restOfResolution f q st tally v t) :
    t.tracker.counters.perforationsSeen = v.tracker.counters.perforationsSeen := by
  obtain ⟨-, -, -, -, relocks, stands, -⟩ := rest
  by_cases same : (¬∃ c, v.tracker.countdown = some c ∧ c ≤ 1) ∨ v.tracker.rephasing = false ∨ v.tracker.qTop = none
  · rw [(stands same).2.2.1]
  · simp only [not_or, not_not, Bool.not_eq_false] at same
    obtain ⟨top, rephasing, known⟩ := same
    obtain ⟨y, known⟩ := Option.ne_none_iff_exists'.mp known
    rw [(relocks y top rephasing known).2.2.1]
    split <;> rfl

/-! ## A candidate resolves (R28) -/

/-- The state in which a candidate has been counted. -/
def candidateCounted (s : State) : State :=
  { s with
    tracker :=
      { s.tracker with
        counters :=
          { s.tracker.counters with
            perforationsSeen := satAdd s.tracker.counters.perforationsSeen 1,
            synthesized := satAdd s.tracker.counters.synthesized 0 } } }

theorem resolveCandidate_resolves (e : Candidate) (locked : s.tracker.mode = .locked) :
    candidateResolves f e s (resolveCandidate f e s) := by
  have state : cutStateOf s.tracker.mode = .locked := by rw [locked]; rfl
  have cutter : cutterCount f.k .accepted = 0 := ite_self 0
  have is_ : resolveCandidate f e s =
      setWindow f e.position .accepted (updateSpan f .accepted (moveCountdown f e.position .accepted e.tally
        (cutFrame (cutStateOf s.tracker.mode) (cutterCount f.k .accepted) (candidateCounted s)))) := rfl
  rw [is_, state, cutter]
  exact restOfResolution_holds f e.position .accepted e.tally _

/-- The countdown after one more perforation (R38). -/
def countedDown (k c : Nat) : Nat := if c ≤ 1 then k else c - 1

/-- A candidate's part in the lock: what it sets, and what it leaves alone. -/
theorem resolveCandidate_changes {c : Nat} (e : Candidate) (locked : s.tracker.mode = .locked)
    (counting : s.tracker.countdown = some c) :
    (resolveCandidate f e s).tracker =
        { s.tracker with
          window := some ⟨e.position, pitchOf f s.tracker.shrink, f.tol⟩, lastAccepted := true,
          countdown := some (countedDown f.k c),
          pendingTop := if c ≤ 1 then some ⟨e.position, .accepted, e.tally⟩ else none,
          nudge := (resolveCandidate f e s).tracker.nudge, spanIndex := (resolveCandidate f e s).tracker.spanIndex,
          rephasing := (resolveCandidate f e s).tracker.rephasing,
          frameCounter := (resolveCandidate f e s).tracker.frameCounter, lastH := (resolveCandidate f e s).tracker.lastH,
          lastCut := (resolveCandidate f e s).tracker.lastCut, spliceMark := (resolveCandidate f e s).tracker.spliceMark,
          counters := (resolveCandidate f e s).tracker.counters }
      ∧ (resolveCandidate f e s).tracker.counters.perforationsSeen = satAdd s.tracker.counters.perforationsSeen 1 := by
  have resolves : restOfResolution f e.position .accepted e.tally (cutFrame .locked 0 (candidateCounted s))
      (resolveCandidate f e s) := resolveCandidate_resolves e locked
  have seen := restOfResolution_perforationsSeen resolves
  rw [cutFrame_perforationsSeen] at seen
  refine ⟨?_, seen⟩
  have cut := cutFrame_keeps .locked 0 (candidateCounted s)
  generalize cutFrame .locked 0 (candidateCounted s) = v at resolves cut
  obtain ⟨-, tracker, atTop, between, -⟩ := resolves
  generalize resolveCandidate f e s = t at tracker atTop between ⊢
  have countdown : v.tracker.countdown = some c := (congrArg Tracker.countdown cut).trans counting
  have pending : v.tracker.pendingTop = none := congrArg Tracker.pendingTop cut
  have shrink : v.tracker.shrink = s.tracker.shrink := (congrArg Tracker.shrink cut :)
  have moved : t.tracker.countdown = some (countedDown f.k c)
      ∧ t.tracker.pendingTop = if c ≤ 1 then some ⟨e.position, .accepted, e.tally⟩ else none := by
    by_cases last : c ≤ 1
    · obtain ⟨restarts, top, -⟩ := atTop ⟨c, countdown, last⟩
      exact ⟨by rw [restarts, countedDown, if_pos last], by rw [top, if_pos last]⟩
    · have noTop : ¬∃ c, v.tracker.countdown = some c ∧ c ≤ 1 := by
        rintro ⟨c', same, le⟩
        exact last (Option.some.inj (countdown.symm.trans same) ▸ le)
      obtain ⟨counts, top, -⟩ := between noTop
      exact ⟨by rw [counts, countdown, countedDown, if_neg last]; rfl, by rw [top, pending, if_neg last]⟩
  have lastH : t.tracker.lastH = v.tracker.lastH := (congrArg Tracker.lastH tracker :)
  have lastCut : t.tracker.lastCut = v.tracker.lastCut := (congrArg Tracker.lastCut tracker :)
  have mark : t.tracker.spliceMark = v.tracker.spliceMark := (congrArg Tracker.spliceMark tracker :)
  rw [moved.1, moved.2, shrink] at tracker
  rw [lastH, lastCut, mark]
  rw [cut] at tracker
  exact tracker

/-- Tracker `a` with the items that a candidate's resolution may change as tracker `z` has them. -/
def candidateMoved (a z : Tracker) : Tracker :=
  { a with
    window := z.window, lastAccepted := z.lastAccepted, countdown := z.countdown, pendingTop := z.pendingTop,
    nudge := z.nudge, spanIndex := z.spanIndex, rephasing := z.rephasing, frameCounter := z.frameCounter, lastH := z.lastH,
    lastCut := z.lastCut, spliceMark := z.spliceMark, counters := z.counters }

theorem candidateMoved_of_resolves {c : Nat} (e : Candidate) (locked : s.tracker.mode = .locked)
    (counting : s.tracker.countdown = some c) :
    (resolveCandidate f e s).tracker = candidateMoved s.tracker (resolveCandidate f e s).tracker := by
  have tracker := (resolveCandidate_changes (f := f) e locked counting).1
  generalize resolveCandidate f e s = t at tracker ⊢
  have window := congrArg Tracker.window tracker
  have accepted := congrArg Tracker.lastAccepted tracker
  have countdown := congrArg Tracker.countdown tracker
  have pending := congrArg Tracker.pendingTop tracker
  rw [candidateMoved, window, accepted, countdown, pending]
  exact tracker

/-! ## The candidates and the countdown at lock (R27, R28, R30) -/

theorem nearPitch_iff {pitch tol a c : Nat} : nearPitch pitch tol a c = true ↔ c - a ≤ pitch + tol ∧ pitch ≤ c - a + tol := by
  simp [nearPitch]

/-- The candidate list with a new edge at its end, the oldest of three leaving (R27). -/
def candidateList (x : Tracker) (e : Nat) : List Candidate :=
  (if 3 ≤ x.candidates.length then x.candidates.drop 1 else x.candidates) ++ [⟨e, openTally x.edgeLog e⟩]

/-- Three candidates whose two pitches lie within tol of the predicted one. -/
def pitchesAgree (pitch tol : Nat) (e1 e2 e3 : Candidate) : Bool :=
  nearPitch pitch tol e1.position e2.position && nearPitch pitch tol e2.position e3.position

theorem addCandidate_three {e : Nat} {e1 e2 e3 : Candidate} (three : candidateList s.tracker e = [e1, e2, e3]) :
    addCandidate f e s =
      if pitchesAgree (pitchOf f s.tracker.shrink) f.tol e1 e2 e3 = true then
        acquireLock f e1 e2 e3 { s with tracker := { s.tracker with candidates := candidateList s.tracker e } }
      else { s with tracker := { s.tracker with candidates := candidateList s.tracker e } } := by
  have list := three
  unfold candidateList at list
  simp only [addCandidate, list, three]
  rfl

theorem addCandidate_kept {e : Nat} (other : ∀ e1 e2 e3, candidateList s.tracker e ≠ [e1, e2, e3]) :
    addCandidate f e s = { s with tracker := { s.tracker with candidates := candidateList s.tracker e } } := by
  unfold addCandidate
  dsimp only
  split
  · rename_i e1 e2 e3 list
    exact absurd list (other e1 e2 e3)
  · rfl

/-- A position is a top of the re-locked reel: its elapsed count from q_top is a positive multiple of K (R30). -/
def relockTop (f : TrackingFields) (shrink : Nat) (y : TopMark) (e : Candidate) : Bool :=
  decide (1 ≤ pitchesFrom (pitchOf f shrink) y e.position ∧ pitchesFrom (pitchOf f shrink) y e.position % f.k = 0)

theorem lockCountdown_first {x : Tracker} (e1 e2 e3 : Candidate) (first : x.qTop = none) : lockCountdown f x e1 e2 e3 = 1 := by
  rw [lockCountdown, first]

theorem lockCountdown_again {x : Tracker} {y : TopMark} (e1 e2 e3 : Candidate) (known : x.qTop = some y) :
    lockCountdown f x e1 e2 e3 =
      if relockTop f x.shrink y e1 = true then 1
      else if relockTop f x.shrink y e2 = true then 2
      else if relockTop f x.shrink y e3 = true then 3
      else 3 + f.k - pitchesFrom (pitchOf f x.shrink) y e3.position % f.k := by
  rw [lockCountdown, known]
  rfl

theorem lockCountdown_pos (x : Tracker) (e1 e2 e3 : Candidate) (perforated : 1 ≤ f.k) : 1 ≤ lockCountdown f x e1 e2 e3 := by
  cases known : x.qTop with
  | none => rw [lockCountdown_first e1 e2 e3 known]
  | some y =>
    have below : pitchesFrom (pitchOf f x.shrink) y e3.position % f.k < f.k := Nat.mod_lt _ perforated
    rw [lockCountdown_again e1 e2 e3 known]
    split_ifs <;> omega

/-- The countdown after the three candidates. -/
theorem countedDown_thrice {k n : Nat} (perforated : 1 ≤ k) (counts : 1 ≤ n) :
    countedDown k (countedDown k (countedDown k n)) = if n ≤ 3 then k - (3 - n) % k else n - 3 := by
  unfold countedDown
  rcases (by omega : n = 1 ∨ n = 2 ∨ n = 3 ∨ 3 < n) with rfl | rfl | rfl | far
  · rcases (by omega : k = 1 ∨ k = 2 ∨ 2 < k) with rfl | rfl | wide
    · rfl
    · rfl
    · rw [Nat.mod_eq_of_lt (by omega)]
      grind
  · rcases (by omega : k = 1 ∨ 1 < k) with rfl | wide
    · rfl
    · rw [Nat.mod_eq_of_lt (by omega)]
      grind
  · rw [Nat.sub_self, Nat.zero_mod]
    rfl
  · grind

/-- The third candidate is a top exactly where the countdown says so. -/
theorem countedDown_twice_le_one {k n : Nat} (perforated : 1 ≤ k) (counts : 1 ≤ n) :
    countedDown k (countedDown k n) ≤ 1 ↔ n ≤ 3 ∧ (3 - n) % k = 0 := by
  unfold countedDown
  rcases (by omega : n = 1 ∨ n = 2 ∨ n = 3 ∨ 3 < n) with rfl | rfl | rfl | far
  · rcases (by omega : k = 1 ∨ k = 2 ∨ 2 < k) with rfl | rfl | wide
    · decide
    · decide
    · rw [Nat.mod_eq_of_lt (by omega)]
      grind
  · rcases (by omega : k = 1 ∨ 1 < k) with rfl | wide
    · decide
    · rw [Nat.mod_eq_of_lt (by omega)]
      grind
  · rw [Nat.sub_self, Nat.zero_mod]
    exact iff_of_true (by decide : (2 - 1 ≤ 1)) ⟨le_rfl, rfl⟩
  · grind

end

/-- Settles O53. -/
theorem lockGainedAndLost : Obligations.LockGainedAndLost := by
  refine ⟨fun s f e => ?_, fun s f e1 e2 e3 perforated => ?_, fun s atBreak => ?_⟩
  · intro x p list kept near
    have agree (e1 e2 e3 : Candidate) : pitchesAgree p f.tol e1 e2 e3 = true ↔ near e1 e2 ∧ near e2 e3 := by
      rw [pitchesAgree, Bool.and_eq_true, nearPitch_iff, nearPitch_iff]
    refine ⟨fun e1 e2 e3 three first second => ?_, fun apart => ?_⟩
    · rw [addCandidate_three three]
      exact if_pos ((agree e1 e2 e3).mpr ⟨first, second⟩)
    · by_cases three : ∃ e1 e2 e3, list = [e1, e2, e3]
      · obtain ⟨e1, e2, e3, three⟩ := three
        rw [addCandidate_three three]
        exact if_neg (mt (agree e1 e2 e3).mp (apart e1 e2 e3 three))
      · exact addCandidate_kept fun e1 e2 e3 same => three ⟨e1, e2, e3, same⟩
  · intro x p isTop t
    have top_iff (y : TopMark) (e : Candidate) : relockTop f x.shrink y e = true ↔ isTop y e := decide_eq_true_iff
    set n := lockCountdown f x e1 e2 e3 with counts
    have positive : 1 ≤ n := lockCountdown_pos x e1 e2 e3 perforated
    set u : State := setMode .locked
      (setTracker
        { x with
          synthRun := 0, acceptRun := 0, candidates := [], countdown := some n, rephasing := x.qTop.isSome, spanIndex := none } s)
      with begun
    set t1 := resolveCandidate f e1 u with first
    set t2 := resolveCandidate f e2 t1 with second
    have is_ : t = resolveCandidate f e3 t2 := rfl
    obtain ⟨tracker1, seen1⟩ := resolveCandidate_changes (s := u) (c := n) (f := f) e1 rfl rfl
    rw [← first] at tracker1 seen1
    have locked1 : t1.tracker.mode = .locked := (congrArg Tracker.mode tracker1 :)
    have counts1 : t1.tracker.countdown = some (countedDown f.k n) := (congrArg Tracker.countdown tracker1 :)
    obtain ⟨tracker2, seen2⟩ := resolveCandidate_changes (f := f) e2 locked1 counts1
    rw [← second] at tracker2 seen2
    have locked2 : t2.tracker.mode = .locked := (congrArg Tracker.mode tracker2 :).trans locked1
    have counts2 : t2.tracker.countdown = some (countedDown f.k (countedDown f.k n)) := (congrArg Tracker.countdown tracker2 :)
    obtain ⟨tracker3, seen3⟩ := resolveCandidate_changes (f := f) e3 locked2 counts2
    rw [← is_] at tracker3 seen3
    have moved1 : t1.tracker = candidateMoved u.tracker t1.tracker := candidateMoved_of_resolves e1 rfl rfl
    have moved2 : t2.tracker = candidateMoved t1.tracker t2.tracker := candidateMoved_of_resolves e2 locked1 counts1
    have moved3 : t.tracker = candidateMoved t2.tracker t.tracker := candidateMoved_of_resolves e3 locked2 counts2
    have keeps {α : Type} (item : Tracker → α) (same : ∀ a z : Tracker, item (candidateMoved a z) = item a) :
        item t.tracker = item u.tracker := by
      rw [moved3, same, moved2, same, moved1, same]
    refine ⟨n, u, t1, t2, lockCountdown_first e1 e2 e3, fun y known => ?_, rfl, levelInv_setMode .locked _,
      resolveCandidate_resolves e1 rfl, resolveCandidate_resolves e2 locked1, resolveCandidate_resolves e3 locked2,
      keeps (·.mode) (fun _ _ => rfl), keeps (·.synthRun) (fun _ _ => rfl), keeps (·.acceptRun) (fun _ _ => rfl),
      keeps (·.candidates) (fun _ _ => rfl), keeps (·.suspect) (fun _ _ => rfl), keeps (·.history) (fun _ _ => rfl),
      keeps (·.shrink) (fun _ _ => rfl), ?_, (congrArg Tracker.lastAccepted tracker3 :), ?_, ?_, ?_⟩
    · have chosen : n = _ := lockCountdown_again e1 e2 e3 known
      simp only [top_iff] at chosen
      refine ⟨fun one => ?_, fun not1 two => ?_, fun not1 not2 three => ?_, fun not1 not2 not3 => ?_⟩
      · rw [chosen, if_pos one]
      · rw [chosen, if_neg not1, if_pos two]
      · rw [chosen, if_neg not1, if_neg not2, if_pos three]
      · rw [chosen, if_neg not1, if_neg not2, if_neg not3]
    · have window : t.tracker.window = some ⟨e3.position, pitchOf f t2.tracker.shrink, f.tol⟩ :=
        (congrArg Tracker.window tracker3 :)
      have shrink : t2.tracker.shrink = x.shrink :=
        (congrArg Tracker.shrink moved2 :).trans (congrArg Tracker.shrink moved1 :)
      rw [window, shrink]
    · rw [seen3, seen2, seen1, satAdd_satAdd, satAdd_satAdd]
      rfl
    · have countdown : t.tracker.countdown = some (countedDown f.k (countedDown f.k (countedDown f.k n))) :=
        (congrArg Tracker.countdown tracker3 :)
      rw [countdown, countedDown_thrice perforated positive]
    · have pending : t.tracker.pendingTop =
          if countedDown f.k (countedDown f.k n) ≤ 1 then some ⟨e3.position, .accepted, e3.tally⟩ else none :=
        (congrArg Tracker.pendingTop tracker3 :)
      simp only [pending, countedDown_twice_le_one perforated positive]
  · intro x v t
    have dropped : dropSuspect x =
        { x with
          suspect := none,
          counters :=
            { x.counters with
              irregular := if x.suspect = none then x.counters.irregular else satAdd x.counters.irregular 1 } } := by
      unfold dropSuspect
      cases suspect : x.suspect with
      | none => simp [← suspect]
      | some z => simp
    have is_ : t = raise .lockLost (countTracker (fun c => { c with lockLosses := satAdd c.lockLosses 1 })
        (setMode .search (setTracker (loosen atBreak v.tracker) v))) := by
      have loses : t = raise .lockLost (countTracker (fun c => { c with lockLosses := satAdd c.lockLosses 1 })
          (setMode .search (setTracker
            (loosen atBreak (cutFrame (cutStateOf (dropSuspect x).mode) 0 (setTracker (dropSuspect x) s)).tracker)
            (cutFrame (cutStateOf (dropSuspect x).mode) 0 (setTracker (dropSuspect x) s))))) := rfl
      rw [loses, dropped]
      rfl
    have cut : v.tracker = _ := cutFrame_keeps _ _ _
    have filter : v.tracker.filter = x.filter := (congrArg Tracker.filter cut :)
    refine ⟨by rw [is_]; rfl, levelInv_loseLock atBreak s, ?_, fun top pending => ?_, fun nothing => ?_, by rw [is_]; rfl⟩
    · have loosened : t.tracker = { (loosen atBreak v.tracker) with
          mode := .search, counters := { v.tracker.counters with lockLosses := satAdd v.tracker.counters.lockLosses 1 } } := by
        rw [is_]; rfl
      have known : t.tracker.qTop = v.tracker.lastCut := by rw [loosened]; rfl
      rw [known, loosened, loosen, filter]
      rfl
    · have last : v.tracker.lastCut = some ⟨top.position, x.frameCounter⟩ := by
        apply cutFrame_lastCut
        exact pending
      rw [is_]
      exact last
    · have last : v.tracker.lastCut = x.lastCut := by
        have uncut : v = _ := cutFrame_none nothing
        rw [uncut]
      rw [is_]
      exact last

end Sys2Proof.Machine
end

section
/-! The Scratch Table at a frame end: the runs of a frame, and their matching to the entries (R101, R107). -/

namespace Sys2Proof.Machine

/-! ## Spans of columns -/

theorem spansMeet_iff {l1 w1 l2 w2 : Nat} (first : 1 ≤ w1) (second : 1 ≤ w2) :
    spansMeet l1 w1 l2 w2 ↔ shareColumn l1 w1 l2 w2 = true := by
  constructor
  · rintro ⟨c, _, _, _, _⟩
    simp only [shareColumn, Bool.and_eq_true, decide_eq_true_eq]
    omega
  · intro share
    obtain ⟨_, _⟩ := shareColumn_true share
    exact ⟨max l1 l2, by omega, by omega, by omega, by omega⟩

/-- R101, R107: a run matches an entry when their columns below W_out share a column or have at most 2 between them. -/
theorem runMatches_iff {wOut : Nat} {r : ColumnRun} {e : ScratchEntry} (run : 1 ≤ r.width) (entry : 1 ≤ e.width) :
    runMatches wOut r e = true ↔ spansNear r.left r.width e.left (min e.width (wOut - e.left)) := by
  simp only [runMatches, Bool.and_eq_true, decide_eq_true_eq]
  constructor
  · rintro ⟨⟨_, _⟩, _⟩
    rcases (by omega : e.left + min e.width (wOut - e.left) ≤ r.left ∨ r.left + r.width ≤ e.left
        ∨ (r.left < e.left + min e.width (wOut - e.left) ∧ e.left < r.left + r.width)) with before | behind | ⟨_, _⟩
    · exact ⟨r.left, e.left + min e.width (wOut - e.left) - 1, by omega, by omega, by omega, by omega, by omega, by omega⟩
    · exact ⟨r.left + r.width - 1, e.left, by omega, by omega, by omega, by omega, by omega, by omega⟩
    · exact ⟨max r.left e.left, max r.left e.left, by omega, by omega, by omega, by omega, by omega, by omega⟩
  · rintro ⟨c, d, _, _, _, _, _, _⟩
    omega

/-! ## The runs of a frame (R101) -/

/-- A longest stretch of columns whose counters reach the threshold. -/
def isStretch (threshold : Nat) (counters : List Nat) (r : ColumnRun) : Prop :=
  1 ≤ r.width ∧ (∀ c, r.left ≤ c → c < r.left + r.width → threshold ≤ counters.getD c 0)
    ∧ ∀ c, c + 1 = r.left ∨ c = r.left + r.width → counters.getD c 0 < threshold

/-- The stretch that is open before column `col`, from column `start` on. -/
def openFrom (start col : Nat) : Option ColumnRun := if start < col then some ⟨start, col - start⟩ else none

theorem mem_openFrom {start col : Nat} {r : ColumnRun} : r ∈ (openFrom start col).toList ↔ start < col ∧ r = ⟨start, col - start⟩ := by
  unfold openFrom
  split <;> simp_all

section
variable {threshold : Nat} {counters : List Nat}

/-- Columns `start` to `col` reach the threshold, and the column before does not. -/
def reachesFrom (threshold : Nat) (counters : List Nat) (start col : Nat) : Prop :=
  start ≤ col ∧ (∀ c, start ≤ c → c < col → threshold ≤ counters.getD c 0)
    ∧ ∀ c, c + 1 = start → counters.getD c 0 < threshold

theorem reachesFrom_here {col : Nat} (below : ∀ c, c + 1 = col → counters.getD c 0 < threshold) :
    reachesFrom threshold counters col col :=
  ⟨le_rfl, fun c _ _ => by omega, below⟩

/-- Where a counter below the threshold ends the open stretch, it is the one longest stretch up to there. -/
theorem isStretch_ended {start col : Nat} (reaches : reachesFrom threshold counters start col)
    (ends : counters.getD col 0 < threshold) (r : ColumnRun) :
    isStretch threshold counters r ∧ start ≤ r.left ↔
      (start < col ∧ r = ⟨start, col - start⟩) ∨ (isStretch threshold counters r ∧ col + 1 ≤ r.left) := by
  obtain ⟨within, reach, before⟩ := reaches
  constructor
  · rintro ⟨stretch, from_⟩
    by_cases behind : col + 1 ≤ r.left
    · exact .inr ⟨stretch, behind⟩
    obtain ⟨wide, full, beside⟩ := stretch
    have notEnd : r.left ≠ col := by
      intro same
      have := full r.left le_rfl (by omega)
      rw [same] at this
      omega
    have left : r.left = start := by
      by_contra other
      have low := beside (r.left - 1) (.inl (by omega))
      have high := reach (r.left - 1) (by omega) (by omega)
      omega
    have right : r.left + r.width = col := by
      by_contra other
      rcases Nat.lt_or_gt_of_ne other with short | long
      · have low := beside (r.left + r.width) (.inr rfl)
        have high := reach (r.left + r.width) (by omega) short
        omega
      · have high := full col (by omega) long
        omega
    refine .inl ⟨by omega, ?_⟩
    cases r
    simp only [ColumnRun.mk.injEq] at left right ⊢
    omega
  · rintro (⟨open_, rfl⟩ | ⟨stretch, behind⟩)
    · refine ⟨⟨by simp only; omega, fun c low high => reach c low (by simp only at high; omega), fun c beside => ?_⟩, le_rfl⟩
      simp only at beside
      rcases beside with left | right
      · exact before c left
      · rw [right, show start + (col - start) = col by omega]
        exact ends
    · exact ⟨stretch, by omega⟩

/-- The open stretch with one column more. -/
def widened (col : Nat) (open_ : Option ColumnRun) : ColumnRun :=
  match open_ with
  | some r => { r with width := r.width + 1 }
  | none => ⟨col, 1⟩

theorem stretches_reaching {col c : Nat} {cs : List Nat} (open_ : Option ColumnRun) (high : threshold ≤ c) :
    stretches threshold col open_ (c :: cs) = stretches threshold (col + 1) (some (widened col open_)) cs :=
  if_pos high

theorem stretches_ending {col c : Nat} {cs : List Nat} (open_ : Option ColumnRun) (low : ¬threshold ≤ c) :
    stretches threshold col open_ (c :: cs) = open_.toList ++ stretches threshold (col + 1) none cs :=
  if_neg low

theorem widened_openFrom {start col : Nat} (within : start ≤ col) :
    some (widened col (openFrom start col)) = openFrom start (col + 1) := by
  unfold openFrom
  by_cases open_ : start < col
  · simp only [open_, ↓reduceIte, widened, show start < col + 1 by omega, show col - start + 1 = col + 1 - start by omega]
  · obtain rfl : start = col := by omega
    simp only [lt_irrefl, ↓reduceIte, widened, Nat.lt_succ_self, show start + 1 - start = 1 by omega]

/-- The stretches from a column on, with the one open there: the longest ones that begin no earlier, in ascending columns, no two
touching. -/
theorem stretches_eq (reachable : 1 ≤ threshold) (cs : List Nat) : ∀ start col : Nat, cs = counters.drop col →
    reachesFrom threshold counters start col →
    (∀ r, r ∈ stretches threshold col (openFrom start col) cs ↔ isStretch threshold counters r ∧ start ≤ r.left)
      ∧ (stretches threshold col (openFrom start col) cs).Pairwise (fun a b => a.left + a.width < b.left) := by
  induction cs with
  | nil =>
    intro start col rest reaches
    have past : counters.length ≤ col := List.drop_eq_nil_iff.mp rest.symm
    have zero (c : Nat) (behind : col ≤ c) : counters.getD c 0 = 0 := List.getD_eq_default _ _ (past.trans behind)
    have ends : counters.getD col 0 < threshold := by rw [zero col le_rfl]; exact reachable
    refine ⟨fun r => ?_, ?_⟩
    · rw [isStretch_ended reaches ends, stretches, mem_openFrom]
      refine ⟨.inl, fun either => either.elim id fun ⟨⟨wide, full, _⟩, behind⟩ => ?_⟩
      have high := full r.left le_rfl (by omega)
      rw [zero r.left (by omega)] at high
      omega
    · rw [stretches, openFrom]
      split <;> simp
  | cons c cs ih =>
    intro start col rest reaches
    have counter : counters.getD col 0 = c := by
      rw [List.getD_eq_getElem?_getD, ← Nat.add_zero col, ← List.getElem?_drop, ← rest]
      rfl
    have next : cs = counters.drop (col + 1) := by
      rw [← List.drop_drop, ← rest, List.drop_one, List.tail_cons]
    by_cases high : threshold ≤ c
    · have grows : stretches threshold col (openFrom start col) (c :: cs) =
          stretches threshold (col + 1) (openFrom start (col + 1)) cs := by
        rw [stretches_reaching _ high, widened_openFrom reaches.1]
      rw [grows]
      refine ih start (col + 1) next ⟨reaches.1.trans (Nat.le_succ col), fun d low below => ?_, reaches.2.2⟩
      rcases Nat.lt_succ_iff_lt_or_eq.mp below with earlier | rfl
      · exact reaches.2.1 d low earlier
      · rw [counter]
        exact high
    · have ends : counters.getD col 0 < threshold := by rw [counter]; exact Nat.lt_of_not_le high
      have closes : stretches threshold col (openFrom start col) (c :: cs) =
          (openFrom start col).toList ++ stretches threshold (col + 1) (openFrom (col + 1) (col + 1)) cs := by
        rw [stretches_ending _ high, show openFrom (col + 1) (col + 1) = none from if_neg (lt_irrefl _)]
      obtain ⟨members, ordered⟩ := ih (col + 1) (col + 1) next
        (reachesFrom_here fun d same => by rw [Nat.succ.inj same]; exact ends)
      rw [closes]
      refine ⟨fun r => by rw [List.mem_append, mem_openFrom, members, isStretch_ended reaches ends], ?_⟩
      refine List.pairwise_append.mpr ⟨?_, ordered, fun a open_ z later => ?_⟩
      · unfold openFrom
        split <;> simp
      · obtain ⟨_, rfl⟩ := mem_openFrom.mp open_
        have := ((members z).mp later).2
        simp only
        omega

/-- R101: the runs of a frame are the longest stretches of at most 16 columns, in ascending columns. -/
theorem frameRuns_eq (reachable : 1 ≤ threshold) :
    (∀ r, r ∈ frameRuns threshold counters ↔ isStretch threshold counters r ∧ r.width ≤ 16)
      ∧ (frameRuns threshold counters).Pairwise (fun a b => a.left + a.width < b.left) := by
  obtain ⟨members, ordered⟩ := stretches_eq reachable counters 0 0 rfl
    (reachesFrom_here (counters := counters) fun c same => absurd same (Nat.succ_ne_zero c))
  have none_ : openFrom 0 0 = none := rfl
  rw [none_] at members ordered
  refine ⟨fun r => ?_, ordered.sublist List.filter_sublist⟩
  simp [frameRuns, members]

end

/-! ## The matching (R101) -/

/-- The runs left when an entry has taken its run. -/
def runsLeft (taken : Option ColumnRun) (runs : List ColumnRun) : List ColumnRun :=
  match taken with
  | some r => runs.erase r
  | none => runs

theorem matchRuns_cons (wOut : Nat) (e : ScratchEntry) (es : List ScratchEntry) (runs : List ColumnRun) :
    matchRuns wOut (e :: es) runs =
      ((e, runs.find? (fun r => runMatches wOut r e))
          :: (matchRuns wOut es (runsLeft (runs.find? (fun r => runMatches wOut r e)) runs)).1,
        (matchRuns wOut es (runsLeft (runs.find? (fun r => runMatches wOut r e)) runs)).2) := by
  rw [matchRuns]
  cases runs.find? (fun r => runMatches wOut r e) <;> rfl

theorem runsLeft_sublist (taken : Option ColumnRun) (runs : List ColumnRun) : (runsLeft taken runs).Sublist runs := by
  cases taken with
  | none => exact List.Sublist.refl _
  | some r => exact List.erase_sublist

theorem mem_runsLeft {taken : Option ColumnRun} {runs : List ColumnRun} (distinct : runs.Nodup) (r : ColumnRun) :
    r ∈ runsLeft taken runs ↔ r ∈ runs ∧ taken ≠ some r := by
  cases taken with
  | none => simp [runsLeft]
  | some x =>
    rw [runsLeft, distinct.mem_erase_iff, and_comm, Ne, Ne, Option.some.injEq, eq_comm]

/-- In ascending columns the first run found is the lowest-left one. -/
theorem find?_lowest {p : ColumnRun → Bool} {runs : List ColumnRun} (ordered : runs.Pairwise (fun a b => a.left < b.left))
    {r : ColumnRun} (found : runs.find? p = some r) : ∀ x ∈ runs, p x = true → r.left ≤ x.left := by
  induction runs with
  | nil => cases found
  | cons y ys ih =>
    obtain ⟨first, rest⟩ := List.pairwise_cons.mp ordered
    intro x mem px
    by_cases py : p y = true
    · rw [List.find?_cons_of_pos py] at found
      obtain rfl := Option.some.inj found
      rcases List.mem_cons.mp mem with rfl | later
      · exact le_rfl
      · exact (first x later).le
    · rw [List.find?_cons_of_neg py] at found
      rcases List.mem_cons.mp mem with rfl | later
      · exact absurd px py
      · exact ih rest found x later px

/-- A run still open to an entry, the entries of `before` having had their turn. -/
def openTo (runs : List ColumnRun) (before : List (ScratchEntry × Option ColumnRun)) (r : ColumnRun) : Prop :=
  r ∈ runs ∧ ∀ y ∈ before, y.2 ≠ some r

theorem openTo_nil {runs : List ColumnRun} {r : ColumnRun} : openTo runs [] r ↔ r ∈ runs := by simp [openTo]

theorem openTo_cons {runs : List ColumnRun} (distinct : runs.Nodup) {e : ScratchEntry} {taken : Option ColumnRun}
    {before : List (ScratchEntry × Option ColumnRun)} {r : ColumnRun} :
    openTo runs ((e, taken) :: before) r ↔ openTo (runsLeft taken runs) before r := by
  simp only [openTo, mem_runsLeft distinct, List.forall_mem_cons]
  tauto

/-- Each entry in turn takes the lowest-left run that is open and matches it. -/
theorem matchRuns_takes (wOut : Nat) (table : List ScratchEntry) : ∀ runs : List ColumnRun,
    runs.Pairwise (fun a b => a.left < b.left) →
    (∀ before e taken after, (matchRuns wOut table runs).1 = before ++ (e, taken) :: after →
        (∀ r, taken = some r → openTo runs before r ∧ runMatches wOut r e = true
            ∧ ∀ r', openTo runs before r' → runMatches wOut r' e = true → r.left ≤ r'.left)
          ∧ (taken = none → ∀ r, openTo runs before r → ¬runMatches wOut r e = true))
      ∧ (matchRuns wOut table runs).2.Sublist runs
      ∧ ∀ r, r ∈ (matchRuns wOut table runs).2 ↔ openTo runs (matchRuns wOut table runs).1 r := by
  induction table with
  | nil =>
    intro runs _
    refine ⟨fun before e taken after nothing => ?_, List.Sublist.refl _, fun r => openTo_nil.symm⟩
    exact absurd nothing.symm (List.append_ne_nil_of_right_ne_nil _ (List.cons_ne_nil _ _))
  | cons e es ih =>
    intro runs ordered
    have distinct : runs.Nodup := ordered.imp fun less same => absurd (congrArg ColumnRun.left same) (Nat.ne_of_lt less)
    rw [matchRuns_cons]
    generalize chosen : runs.find? (fun r => runMatches wOut r e) = first
    obtain ⟨turns, left, unmatched⟩ := ih (runsLeft first runs) (ordered.sublist (runsLeft_sublist first runs))
    refine ⟨fun before x taken after split => ?_, left.trans (runsLeft_sublist first runs), fun r => ?_⟩
    · cases before with
      | nil =>
        obtain ⟨same, -⟩ := List.cons.inj split
        cases same
        simp only [openTo_nil]
        refine ⟨fun r found => ?_, fun nothing r mem => ?_⟩
        · rw [found] at chosen
          exact ⟨List.mem_of_find?_eq_some chosen, by simpa using List.find?_some chosen, find?_lowest ordered chosen⟩
        · rw [nothing] at chosen
          exact List.find?_eq_none.mp chosen r mem
      | cons y before =>
        obtain ⟨same, rest⟩ := List.cons.inj split
        subst same
        simp only [openTo_cons distinct]
        exact turns before x taken after rest
    · rw [openTo_cons distinct]
      exact unmatched r

end Sys2Proof.Machine
end

section
/-! The Scratch Table at a frame end: updates, moves and offers (R102 to R104), and the whole of it. -/

namespace Sys2Proof.Machine

/-! ## An entry after a frame end (R102, Table 7-5) -/

section
variable {e : ScratchEntry} {n : Nat}

theorem updateEntry_loaded (origin : e.origin = .loaded) :
    updateEntry e true = some { e with tracked := satAdd e.tracked 1 } ∧ updateEntry e false = some e := by
  simp only [updateEntry, origin, and_self]

theorem updateEntry_candidate (origin : e.origin = .learned .candidate n) :
    updateEntry e false = none
      ∧ (e.confirm = 2 → updateEntry e true = some { e with confirm := 3, miss := 0, origin := .learned .tracked n })
      ∧ (e.confirm ≠ 2 → updateEntry e true = some { e with confirm := e.confirm + 1 }) := by
  refine ⟨by simp only [updateEntry, origin], fun two => ?_, fun other => ?_⟩
  · simp only [updateEntry, origin, two, ↓reduceIte]
  · simp only [updateEntry, origin, show ¬e.confirm + 1 = 3 by omega, ↓reduceIte]

theorem updateEntry_tracked (origin : e.origin = .learned .tracked n) :
    updateEntry e true = some { e with miss := 0, tracked := satAdd e.tracked 1 }
      ∧ (7 ≤ e.miss → updateEntry e false = none)
      ∧ (e.miss < 7 → updateEntry e false = some { e with miss := e.miss + 1, tracked := satAdd e.tracked 1 }) := by
  refine ⟨by simp only [updateEntry, origin], fun gone => ?_, fun stays => ?_⟩
  · simp only [updateEntry, origin, show 8 ≤ e.miss + 1 by omega, ↓reduceIte]
  · simp only [updateEntry, origin, show ¬8 ≤ e.miss + 1 by omega, ↓reduceIte]

theorem updateEntry_fading (origin : e.origin = .learned .fading n) :
    updateEntry e true = some { e with miss := 0, tracked := satAdd e.tracked 1, origin := .learned .tracked n }
      ∧ (2 ≤ e.miss → updateEntry e false = none)
      ∧ (e.miss < 2 → updateEntry e false = some { e with miss := e.miss + 1, tracked := satAdd e.tracked 1 }) := by
  refine ⟨by simp only [updateEntry, origin], fun gone => ?_, fun stays => ?_⟩
  · simp only [updateEntry, origin, show 3 ≤ e.miss + 1 by omega, ↓reduceIte]
  · simp only [updateEntry, origin, show ¬3 ≤ e.miss + 1 by omega, ↓reduceIte]

end

/-! ## The move of a matched entry (R103) -/

section
variable {slot : Nat} {r : ColumnRun} {table : List ScratchEntry} {mover : ScratchEntry}

/-- The other entries that share a column with a run. -/
def metBy (r : ColumnRun) (others : List ScratchEntry) : List ScratchEntry :=
  others.filter (fun e => shareColumn r.left r.width e.left e.width)

theorem find?_ownSlot (held : mover ∈ table) (own : ∀ e ∈ table, e.slot = mover.slot → e = mover) :
    table.find? (fun e => e.slot == mover.slot) = some mover := by
  cases found : table.find? (fun e => e.slot == mover.slot) with
  | none =>
    have := List.find?_eq_none.mp found mover held
    simp at this
  | some e =>
    have same : e.slot = mover.slot := by simpa using List.find?_some found
    rw [own e (List.mem_of_find?_eq_some found) same]

theorem moveEntry_meets_none (found : table.find? (fun e => e.slot == slot) = some mover)
    (clear : metBy r (table.filter (fun e => e.slot != slot)) = []) :
    moveEntry slot r table =
      sortEntries ({ mover with left := r.left, width := r.width } :: table.filter (fun e => e.slot != slot)) := by
  unfold metBy at clear
  simp only [moveEntry, found, clear]

theorem moveEntry_meets {met : ScratchEntry} {more : List ScratchEntry} (found : table.find? (fun e => e.slot == slot) = some mover)
    (meets : metBy r (table.filter (fun e => e.slot != slot)) = met :: more) :
    moveEntry slot r table =
      if (met :: more).any (fun e => !isLearned e) = true then table.filter (fun e => e.slot != slot)
      else if more = [] ∧ (unionSpan r met).2 ≤ 16 then
        sortEntries
          ({ mergeKeeps mover met with left := (unionSpan r met).1, width := (unionSpan r met).2 }
            :: (table.filter (fun e => e.slot != slot)).filter (fun e => e.slot != met.slot))
      else table := by
  unfold metBy at meets
  simp only [moveEntry, found, meets]

theorem isLearned_iff {e : ScratchEntry} : isLearned e = true ↔ e.origin ≠ .loaded := by
  unfold isLearned
  cases e.origin <;> simp

/-- The entry that a merge keeps: one of the two; the more advanced, then the earlier first frame. -/
theorem mergeKeeps_spec (mover other : ScratchEntry) :
    (mergeKeeps mover other = mover ∨ mergeKeeps mover other = other)
      ∧ (advancement other.origin < advancement mover.origin → mergeKeeps mover other = mover)
      ∧ (advancement mover.origin < advancement other.origin → mergeKeeps mover other = other)
      ∧ (advancement mover.origin = advancement other.origin →
          (firstFrameOf mover.origin < firstFrameOf other.origin → mergeKeeps mover other = mover)
            ∧ (firstFrameOf other.origin < firstFrameOf mover.origin → mergeKeeps mover other = other)) := by
  unfold mergeKeeps
  refine ⟨?_, fun more => if_pos more, fun less => ?_, fun same => ⟨fun earlier => ?_, fun later => ?_⟩⟩
  · split_ifs <;> simp
  · rw [if_neg (Nat.lt_asymm less), if_pos less]
  · rw [same, if_neg (lt_irrefl _), if_neg (lt_irrefl _), if_pos earlier]
  · rw [same, if_neg (lt_irrefl _), if_neg (lt_irrefl _), if_neg (Nat.lt_asymm later), if_pos later]

theorem any_loaded_iff {l : List ScratchEntry} : l.any (fun e => !isLearned e) = true ↔ ∃ e ∈ l, e.origin = .loaded := by
  simp only [List.any_eq_true, Bool.not_eq_true', ← Bool.not_eq_true, isLearned_iff, not_not]

/-- Where one entry alone of a list meets a run, that one is what the run meets. -/
theorem metBy_one {before after : List ScratchEntry} {e : ScratchEntry}
    (meets : shareColumn r.left r.width e.left e.width = true)
    (alone : ∀ z ∈ before ++ after, ¬shareColumn r.left r.width z.left z.width = true) : metBy r (before ++ e :: after) = [e] := by
  have first : metBy r before = [] := List.filter_eq_nil_iff.mpr fun z mem => alone z (List.mem_append_left _ mem)
  have last : metBy r after = [] := List.filter_eq_nil_iff.mpr fun z mem => alone z (List.mem_append_right _ mem)
  unfold metBy at first last ⊢
  rw [List.filter_append, first,
    List.filter_cons_of_pos (p := fun e : ScratchEntry => shareColumn r.left r.width e.left e.width) meets, last, List.nil_append]

theorem filter_otherSlot {before after : List ScratchEntry} {e : ScratchEntry} (own : ∀ z ∈ before ++ after, z.slot ≠ e.slot) :
    (before ++ e :: after).filter (fun z => z.slot != e.slot) = before ++ after := by
  have keeps : (before ++ after).filter (fun z => z.slot != e.slot) = before ++ after :=
    List.filter_eq_self.mpr fun z mem => bne_iff_ne.mpr (own z mem)
  rw [List.filter_append, List.filter_cons_of_neg (by simp), ← List.filter_append, keeps]

/-- Two entries of a list that a run meets are two of those it meets. -/
theorem metBy_two {others : List ScratchEntry} {a c : ScratchEntry} (both : [a, c].Sublist others)
    (first : shareColumn r.left r.width a.left a.width = true) (second : shareColumn r.left r.width c.left c.width = true) :
    ∃ x y more, metBy r others = x :: y :: more := by
  have kept : metBy r [a, c] = [a, c] :=
    List.filter_eq_self.mpr fun z mem => by
      rcases List.mem_pair.mp mem with rfl | rfl
      · exact first
      · exact second
  have two : [a, c].length ≤ (metBy r others).length := by
    rw [← kept]
    exact (both.filter _).length_le
  match metBy r others, two with
  | x :: y :: more, _ => exact ⟨x, y, more, rfl⟩

end

/-! ## A run offered as a new entry (R104) -/

theorem freeScratchSlot_lowest (t : List ScratchEntry) (room : t.length < 32) :
    ∀ k < freeScratchSlot t, ∃ e ∈ t, e.slot = k := by
  intro k below
  have small := (freeScratchSlot_free t room).1
  unfold freeScratchSlot at below small
  cases found : (List.range 32).find? (fun i => t.all (fun e => e.slot != i)) with
  | none => rw [found] at small; exact absurd small (lt_irrefl _)
  | some i =>
    rw [found, Option.getD_some] at below
    have taken := (List.find?_range_eq_some.mp found).2.2 k below
    simpa using taken

theorem offerRun_meets {frame : Nat} {r : ColumnRun} {table : List ScratchEntry}
    (meets : table.any (fun e => shareColumn r.left r.width e.left e.width) = true) : offerRun frame r table = (table, 0) :=
  if_pos meets

theorem offerRun_clear {frame : Nat} {r : ColumnRun} {table : List ScratchEntry}
    (clear : ¬table.any (fun e => shareColumn r.left r.width e.left e.width) = true) :
    offerRun frame r table =
      if 32 ≤ table.length then (table, 1)
      else (sortEntries (⟨freeScratchSlot table, r.left, r.width, .learned .candidate frame, 1, 0, 0⟩ :: table), 0) :=
  if_neg clear

/-! ## The moves and the offers, one after the other -/

theorem moveAll_eq_foldl (updated : List (ScratchEntry × Option ColumnRun)) : ∀ table : List ScratchEntry,
    moveAll updated table = updated.foldl
      (fun t y => match y.2 with
        | some r => if isLearned y.1 = true then moveEntry y.1.slot r t else t
        | none => t) table := by
  induction updated with
  | nil => intro table; rfl
  | cons y rest ih =>
    intro table
    obtain ⟨e, taken⟩ := y
    cases taken with
    | none => exact ih table
    | some r => exact ih _

theorem offerAll_eq_foldl (frame : Nat) (runs : List ColumnRun) : ∀ (table : List ScratchEntry) (n : Nat),
    runs.foldl (fun z r => ((offerRun frame r z.1).1, z.2 + (offerRun frame r z.1).2)) (table, n) =
      ((offerAll frame runs table).1, n + (offerAll frame runs table).2) := by
  induction runs with
  | nil => intro table n; rfl
  | cons r rest ih =>
    intro table n
    rw [List.foldl_cons, ih, Nat.add_assoc]
    rfl

theorem becomesTracked_eq (e : ScratchEntry) (matched : Bool) :
    becomesTracked e matched =
      (matched && e.confirm == 2
        && (match e.origin with
          | .learned .candidate _ => true
          | _ => false)) := by
  have third : (e.confirm + 1 == 3) = (e.confirm == 2) := by
    rw [Bool.eq_iff_iff, beq_iff_eq, beq_iff_eq]
    omega
  unfold becomesTracked
  cases e.origin with
  | loaded => exact (Bool.and_false _).symm
  | learned state n =>
    cases state with
    | candidate => exact (congrArg (matched && ·) third).trans (Bool.and_true _).symm
    | tracked => exact (Bool.and_false _).symm
    | fading => exact (Bool.and_false _).symm

/-- Settles O27. -/
theorem scratchTableUpdated : Obligations.ScratchTableUpdated := by
  refine ⟨fun threshold counters reachable => ?_, fun wOut table runs ordered wide entries => ?_, fun e => ?_,
    fun mover r table others held own run entries othersAre => ?_, fun frame r table run entries => ?_,
    fun wOut frame threshold counters table => ?_⟩
  · obtain ⟨members, pairwise⟩ := frameRuns_eq (counters := counters) reachable
    refine ⟨pairwise, fun r => (members r).trans ?_⟩
    unfold isStretch
    tauto
  · intro m near open_
    obtain ⟨turns, left, unmatched⟩ := matchRuns_takes wOut table runs ordered
    refine ⟨(matchRuns_entries wOut table runs wide).1, fun before e taken after split => ?_, left, unmatched⟩
    have held : e ∈ table := by
      rw [← (matchRuns_entries wOut table runs wide).1]
      exact List.mem_map.mpr ⟨(e, taken), split ▸ List.mem_append_right _ List.mem_cons_self, rfl⟩
    have near_iff (r : ColumnRun) (mem : r ∈ runs) : runMatches wOut r e = true ↔ near r e :=
      runMatches_iff (wide r mem) (entries e held)
    obtain ⟨takes, passes⟩ := turns before e taken after split
    refine ⟨fun r found => ?_, fun nothing r free matched => passes nothing r free ((near_iff r free.1).mpr matched)⟩
    obtain ⟨free, matched, lowest⟩ := takes r found
    exact ⟨free, (near_iff r free.1).mp matched, fun r' free' near' => lowest r' free' ((near_iff r' free'.1).mpr near')⟩
  · exact ⟨updateEntry_loaded, fun n => updateEntry_candidate, fun n => updateEntry_tracked, fun n => updateEntry_fading⟩
  · intro t met l w
    subst othersAre
    have found := find?_ownSlot held own
    have met_iff (e : ScratchEntry) (mem : e ∈ table.filter (fun e => e.slot != mover.slot)) :
        met e ↔ shareColumn r.left r.width e.left e.width = true :=
      spansMeet_iff run (entries e (List.mem_filter.mp mem).1)
    refine ⟨fun clear => ?_, fun ⟨e, mem, meets, loaded⟩ => ?_, fun before e after split meets learned alone => ?_,
      fun ⟨a, c, both, first, second⟩ learned => ?_⟩
    · have none_ : metBy r (table.filter (fun e => e.slot != mover.slot)) = [] :=
        List.filter_eq_nil_iff.mpr fun e mem => mt (met_iff e mem).mpr (clear e mem)
      have is_ : t = _ := moveEntry_meets_none found none_
      rw [is_]
      exact sortEntries_perm _
    · have some_ : e ∈ metBy r (table.filter (fun e => e.slot != mover.slot)) :=
        List.mem_filter.mpr ⟨mem, (met_iff e mem).mp meets⟩
      obtain ⟨x, more, split⟩ := List.exists_cons_of_ne_nil (List.ne_nil_of_mem some_)
      have is_ : t = _ := moveEntry_meets found split
      rw [is_]
      exact if_pos (any_loaded_iff.mpr ⟨e, split ▸ some_, loaded⟩)
    · have memOf {z : ScratchEntry} (mem : z ∈ before ++ after) : z ∈ table.filter (fun e => e.slot != mover.slot) := by
        rw [split]
        rcases List.mem_append.mp mem with left | right
        · exact List.mem_append_left _ left
        · exact List.mem_append_right _ (List.mem_cons_of_mem _ right)
      have here : e ∈ table.filter (fun e => e.slot != mover.slot) := split ▸ List.mem_append_right _ List.mem_cons_self
      have one : metBy r (table.filter (fun e => e.slot != mover.slot)) = [e] := by
        rw [split]
        exact metBy_one ((met_iff e here).mp meets) fun z mem => mt (met_iff z (memOf mem)).mpr (alone z mem).1
      have notLoaded : ¬[e].any (fun e => !isLearned e) = true := fun any => by
        obtain ⟨z, mem, loaded⟩ := any_loaded_iff.mp any
        exact learned (List.mem_singleton.mp mem ▸ loaded)
      have is_ : t = _ := (moveEntry_meets found one).trans (if_neg notLoaded)
      obtain ⟨either, more, less, tie⟩ := mergeKeeps_spec mover e
      refine ⟨fun fits => ⟨mergeKeeps mover e, either, more, less, tie, ?_⟩, fun wide => ?_⟩
      · rw [is_, if_pos ⟨rfl, fits⟩, split, filter_otherSlot fun z mem => (alone z mem).2]
        exact sortEntries_perm _
      · rw [is_]
        exact if_neg fun both => absurd both.2 (Nat.not_le_of_lt wide)
    · have memOf {z : ScratchEntry} (mem : z ∈ [a, c]) : z ∈ table.filter (fun e => e.slot != mover.slot) := both.subset mem
      obtain ⟨x, y, more, two⟩ := metBy_two both ((met_iff a (memOf (by simp))).mp first) ((met_iff c (memOf (by simp))).mp second)
      have notLoaded : ¬(x :: y :: more).any (fun e => !isLearned e) = true := fun any => by
        obtain ⟨z, mem, loaded⟩ := any_loaded_iff.mp any
        obtain ⟨held, meets⟩ := List.mem_filter.mp (two ▸ mem : z ∈ metBy r (table.filter (fun e => e.slot != mover.slot)))
        exact learned z held ((met_iff z held).mpr meets) loaded
      have is_ : t = _ := (moveEntry_meets found two).trans (if_neg notLoaded)
      rw [is_]
      exact if_neg fun one => absurd one.1 (List.cons_ne_nil _ _)
  · have meets_iff : (∃ e ∈ table, spansMeet r.left r.width e.left e.width) ↔
        table.any (fun e => shareColumn r.left r.width e.left e.width) = true := by
      rw [List.any_eq_true]
      exact exists_congr fun e => and_congr_right fun mem => spansMeet_iff run (entries e mem)
    refine ⟨fun meets => offerRun_meets (meets_iff.mp meets), fun clear => ?_⟩
    have clear : ¬table.any (fun e => shareColumn r.left r.width e.left e.width) = true :=
      fun any => (meets_iff.mpr any).elim fun e both => clear e both.1 both.2
    rw [offerRun_clear clear]
    refine ⟨fun full => if_pos full, fun room => ?_⟩
    obtain ⟨small, free⟩ := freeScratchSlot_free table room
    exact ⟨freeScratchSlot table, _, small, free, freeScratchSlot_lowest table room, if_neg (Nat.not_le_of_lt room),
      sortEntries_perm _⟩
  · intro m updated moved offered u
    have moves : moveAll updated (updated.map (·.1)) = moved := moveAll_eq_foldl updated _
    have offers : offered = _ := offerAll_eq_foldl frame m.2 moved 0
    refine ⟨?_, ?_, ?_⟩
    · rw [offers, ← moves]
      rfl
    · rw [offers, ← moves, Nat.zero_add]
      rfl
    · exact congrArg List.length (List.filter_congr fun y _ => becomesTracked_eq y.1 y.2.isSome)

end Sys2Proof.Machine
end
